-- ==== Sys2Proof/Word.lean ====
section
/-! DEFINITION. The 16-bit word and the 8-bit byte of Chapter 12: little-endian words, low byte at the lower byte address. -/

namespace Sys2Proof

/-- A memory word: 16 bits (section 1.5, Words and bytes). -/
abbrev Word := BitVec 16

/-- A byte. -/
abbrev Byte := BitVec 8

/-- The low byte of a word, at the lower byte address. -/
def loByte (w : Word) : Byte := w.extractLsb' 0 8

/-- The high byte of a word, at the higher byte address. -/
def hiByte (w : Word) : Byte := w.extractLsb' 8 8

/-- The word with the given high and low bytes. -/
def joinBytes (hi lo : Byte) : Word := hi ++ lo

end Sys2Proof
end

