-- ==== Sys2Proof/Syntax.lean ====
section
/-! DEFINITION. The commands of the block: one constructor of `Instr` per row of spec/opcode_table.json, and the ten
entry kinds of a batch (R36, section 12.4), which the check commands simulate. -/

namespace Sys2Proof

/-- The five states of a defined room (R55). They also index the style words (R64). -/
inductive RoomState where
  | closed | opened | inSession | changeover | held
  deriving DecidableEq, Repr

/-- The three sign kinds (R80). They also index the KIND setup words (R105). -/
inductive SignKind where
  | door | corridor | lobby
  deriving DecidableEq, Repr

/-- The setup words that have no row of their own in the table: LINE 0 to LINE 3, SWEEP TIMING, SWEEP SELECT, RETAIN
and INSIST (section 12.3). -/
inductive PlainSetup where
  | line (n : Fin 4) | sweepTiming | sweepSelect | retain | insist
  deriving DecidableEq, Repr

/-- What a host write drives: both byte enables, one of them, or neither (section 1.5; R164). -/
inductive Drive where
  | both (v : Word) | low (v : Byte) | high (v : Byte) | neither
  deriving DecidableEq, Repr

/-- The seven bytes of a sign's reply as the line port receives them (R127), and whether any byte carried a framing
error (R120). -/
structure Reply where
  sync : Byte
  kind : Byte
  address : Byte
  sequence : Byte
  flags : Byte
  crcHigh : Byte
  crcLow : Byte
  framing : Bool
  deriving DecidableEq, Repr

/-- A text handle (R2): a pool line index and a length in bytes. -/
structure Handle where
  line : Nat
  len : Nat
  deriving DecidableEq, Repr

/-- One entry of a batch, with its fields as the entry's words carry them (section 12.4), out-of-range values
included: the check judges them (R196). -/
inductive Entry where
  | putSession (cls id room start fin : Nat) (title presenter : Handle)
  | dropSession (id : Nat)
  | cancelSession (id : Nat)
  | moveSession (id room : Nat)
  | shiftSession (cascade : Bool) (id : Nat) (delta : Int)
  | putRoom (policy room : Nat) (name : Handle) (zone changeover : Nat)
  | roomState (action room : Nat)
  | setClock (minute origin : Nat)
  | putSign (kind slot line lines address lookahead : Nat) (targets : List Nat)
  | dropSign (slot : Nat)
  deriving DecidableEq, Repr

/-- The commands: one per row of the table. Host accesses carry the word address of the 19 address lines or the place
in the region the row names, and the data; pin events and expiries carry the line, slot or level they concern; the
steps the part takes by itself carry nothing, since the part's own state says what they act on. -/
inductive Instr where
  | powerOn
  | powerOnEnd (straps : Fin 16) (minute : Bool)
  | resetAssert (ownAccess : Bool)
  | resetRelease (straps : Fin 16) (minute : Bool)
  | restart
  | setupRead
  | entryWordWrite (lane : Fin 4) (k : Fin 127) (v : Word)
  | entryByteWrite (lane : Fin 4) (k : Fin 127) (high : Bool) (v : Byte)
  | postWord (lane : Fin 4) (sequence : Byte) (endOffset : BitVec 7)
  | discard (lane : Fin 4) (sequence : Byte) (endOffset : BitVec 7)
  | batchDecode
  | putSession
  | dropSession
  | cancelSession
  | moveSession
  | shiftSession
  | putRoom
  | roomState
  | setClock
  | putSign
  | dropSign
  | checkEnd
  | apply
  | laneResult
  | minuteEdge
  | timebaseExpiry
  | minuteSignal
  | refill
  | dirtyComposition
  | sendTimeComposition
  | fillRead
  | snoop (line : Fin 1536) (w : Fin 16) (d : Drive)
  | engineChoose (n : Fin 4)
  | sweepTimerExpiry (n : Fin 4)
  | loneBreakEnd (n : Fin 4)
  | frameSent (n : Fin 4)
  | reply (n : Fin 4) (r : Reply)
  | answerTimeout (n : Fin 4)
  | replyGap (n : Fin 4)
  | slotsEnd (n : Fin 4) (marks : BitVec 128)
  | quietTimeEnd (n : Fin 4)
  | callPress (n : Fin 4)
  | refreshTimerExpiry (slot : Fin 512)
  | ackMerge (d : Drive)
  | readCountWrite (d : Drive)
  | guardedWrite (w : Fin 4480) (d : Drive)
  | segSet (n : Fin 4)
  | segClear (n : Fin 4)
  | clockRun (on : Bool)
  | minuteSrc (on : Bool)
  | quiet (on : Bool)
  | cacheOff (on : Bool)
  | enable (v : Word)
  | matrix (v : Word)
  | style (st : RoomState) (v : Word)
  | kind (k : SignKind) (v : Word)
  | setupWordWrite (w : PlainSetup) (v : Word)
  | hostWrite (a : BitVec 19) (d : Drive)
  | insistStall
  | postWrite
  | recordEnqueue
  | flagRaise
  | pgoodFall
  | minuteFall
  | hostRead (a : BitVec 19) (upper lower : Bool)
  deriving DecidableEq, Repr

end Sys2Proof
end

