-- ==== Sys2Proof/Machine/Operands.lean ====
section
/-! DEFINITION. The operand forms of the commands: fields of words, the bytes a host write drives, and the places of
the signage region (sections 1.5, 12.2; R24, R163, R165). -/

namespace Sys2Proof.Machine

/-- The field of `len` bits of a word whose least significant bit is `at`. -/
def field (w : Word) (at_ len : Nat) : Nat := (w.toNat / 2 ^ at_) % 2 ^ len

/-- A number placed with its least significant bit at bit `at`. -/
def place (v at_ : Nat) : Nat := v * 2 ^ at_

/-- A word from a number. -/
def wordOf (n : Nat) : Word := BitVec.ofNat 16 n

/-- 1 for yes, 0 for no. -/
def bitOf (b : Bool) : Nat := if b then 1 else 0

/-- A signed word (section 12, two's complement). -/
def signedWord (w : Word) : Int := w.toInt

/-- Clamping (section 1.5). -/
def clamp (lo hi n : Nat) : Nat := if n < lo then lo else if hi < n then hi else n

/-- Ring arithmetic: the distance from `a` up to `b`, modulo 256 (section 1.5). -/
def ringDistance (a b : Byte) : Nat := (b - a).toNat

/-- A word after a host write to it: the enabled bytes replaced. -/
def driveOnto (d : Drive) (old : Word) : Word :=
  match d with
  | .both v => v
  | .low v => joinBytes (hiByte old) v
  | .high v => joinBytes v (loByte old)
  | .neither => old

/-- A word ANDed with the written data in the enabled bytes (R167). -/
def driveMerge (d : Drive) (old : Word) : Word :=
  match d with
  | .both v => old &&& v
  | .low v => joinBytes (hiByte old) (loByte old &&& v)
  | .high v => joinBytes (hiByte old &&& v) (loByte old)
  | .neither => old

/-- The address and width a dropped write is recorded with: the even address of a word write, the written byte's
address of a byte write (R166). -/
def guardedAt (d : Drive) (addr : Nat) : Nat × Bool :=
  match d with
  | .both _ => (addr, false)
  | .low _ => (addr, true)
  | .high _ => (addr + 1, true)
  | .neither => (addr, false)

/-- The post word of a lane (section 12.4). -/
def postWordOf (sequence : Byte) (discard : Bool) (endOffset : BitVec 7) : Word :=
  wordOf (place sequence.toNat 8 + place (bitOf discard) 7 + endOffset.toNat)

/-- Byte offset of word `k` of lane `n`; word 127 is the post word (R24). -/
def laneOffset (n : Fin 4) (k : Nat) : Nat := 0x100 + n.val * 0x100 + 2 * k

/-- Byte offset of pool line `i` (R66). -/
def poolOffset (i : Nat) : Nat := 0x4000 + 0x20 * i

/-- Byte offsets of the named words (section 12.2, 12.3). -/
def controlOffset : Nat := 0x0000
def enableOffset : Nat := 0x0002
def restartOffset : Nat := 0x0004
def matrixOffset : Nat := 0x0006
def styleOffset : RoomState → Nat
  | .closed => 0x08 | .opened => 0x0A | .inSession => 0x0C | .changeover => 0x0E | .held => 0x10
def kindOffset : SignKind → Nat
  | .door => 0x12 | .corridor => 0x14 | .lobby => 0x16
def plainOffset : PlainSetup → Nat
  | .line n => 0x18 + 2 * n.val
  | .sweepTiming => 0x20 | .sweepSelect => 0x22 | .retain => 0x24 | .insist => 0x26
def flagsOffset : Nat := 0x0580
def enableEchoOffset : Nat := 0x0582
def guardOffset : Nat := 0x0584
def laneResultOffset (n : Fin 4) : Nat := 0x600 + 0x20 * n.val
def ringWriteOffset : Nat := 0x0680
def readCountOffset : Nat := 0x0682
def ringEntryOffset (place : Nat) : Nat := 0x684 + 8 * place
def roomOffset (i : Nat) : Nat := 0x800 + 0x10 * i
def healthOffset (slot : Nat) : Nat := 0x1800 + 8 * slot
def postedOffset : Nat := 0x500

/-- The areas a host write is sorted by (R165), with the place in the area. -/
inductive Area where
  | setup (offset : Nat)
  | laneWord (n : Fin 4) (k : Nat)
  | flagsWord
  | readCount
  | guarded
  | unposted
  | pool (line : Nat)
  deriving DecidableEq, Repr

/-- The area of an even byte offset of the region (R165). -/
def areaOf (offset : Nat) : Area :=
  if offset < 0x100 then .setup offset
  else if offset < 0x500 then .laneWord (Fin.ofNat 4 ((offset - 0x100) / 0x100)) ((offset % 0x100) / 2)
  else if offset < 0x2800 then
    if offset = flagsOffset then .flagsWord
    else if offset = readCountOffset then .readCount
    else .guarded
  else if offset < 0x4000 then .unposted
  else .pool ((offset - 0x4000) / 0x20)

/-- The twenty named setup words by their offsets (section 12.3). -/
inductive SetupWord where
  | control | enable | restart | matrix
  | style (st : RoomState)
  | kind (k : SignKind)
  | plain (p : PlainSetup)
  deriving DecidableEq, Repr

/-- The setup word at an even offset of the setup area, if one is named there (R187). -/
def setupWordAt (offset : Nat) : Option SetupWord :=
  match offset / 2 with
  | 0 => some .control
  | 1 => some .enable
  | 2 => some .restart
  | 3 => some .matrix
  | 4 => some (.style .closed)
  | 5 => some (.style .opened)
  | 6 => some (.style .inSession)
  | 7 => some (.style .changeover)
  | 8 => some (.style .held)
  | 9 => some (.kind .door)
  | 10 => some (.kind .corridor)
  | 11 => some (.kind .lobby)
  | 12 => some (.plain (.line 0))
  | 13 => some (.plain (.line 1))
  | 14 => some (.plain (.line 2))
  | 15 => some (.plain (.line 3))
  | 16 => some (.plain .sweepTiming)
  | 17 => some (.plain .sweepSelect)
  | 18 => some (.plain .retain)
  | 19 => some (.plain .insist)
  | _ => none

end Sys2Proof.Machine
end

