-- ==== Sys2Proof/Config.lean ====
section
/-! DEFINITION. What the manual leaves open as a value (opaque constants with no body) and the sizes it fixes. -/

namespace Sys2Proof.Config

/-- FREE VALUE. R27: a byte write to an entry word whose shadow slot holds nothing keeps, in the other byte,
"the value it held"; the manual gives that value nowhere. The step applies this constant to its counter of free
values. Log entry 1. -/
opaque heldByte : Nat → Byte

/-- FREE VALUE. R176: a post write ended by the reset pin "may leave its word in memory half written": whether the
low byte of that word was written. Log entry 2. -/
opaque cutLow : Nat → Bool

/-- FREE VALUE. R176, as `cutLow`: whether the high byte was written. Log entry 2. -/
opaque cutHigh : Nat → Bool

/-- FREE VALUE. R136: a frame being sent is cut off after the character in progress; which character that is depends on the
moment of the write, and no time is counted. The bit time the port had come to, taken modulo the frame's. Log entry 36. -/
opaque cutPoint : Nat → Nat

/-- What a byte of the SRAM that nothing has written reads as. DESIGN CHOICE (R191 gives "whatever memory holds");
log entry 3. -/
def unwrittenByte : Byte := 0

/-- R3: the session table holds at most 1,024 records. -/
def maxSessions : Nat := 1024

/-- R169: the post queue holds at most 64 entries. -/
def postQueueSize : Nat := 64

/-- R68: the text cache holds at most 64 lines. -/
def cacheSize : Nat := 64

/-- R71: the pending fill set holds at most 4 fills. -/
def fillSetSize : Nat := 4

/-- R66: the text pool holds 1,536 lines. -/
def poolLines : Nat := 1536

/-- R159: the call ring holds at most 32 unconsumed entries. -/
def ringSize : Nat := 32

end Sys2Proof.Config
end

