-- ==== Sys2Proof/Machine/State.lean ====
section
/-! DEFINITION. The state of the 412, block by block as section 1.3 lists them, as plain data; the reasons a step can
stop; and the state after reset. -/

namespace Sys2Proof.Machine

/-- Why a step faults: never. The manual names no behaviour that stops the part, so there is no constructor; nothing
raises one (safe). Log entry 11. -/
inductive Fault where
  deriving DecidableEq, Repr

/-- Why a step is refused. -/
inductive Refusal where
  /-- Raised by an arm of `exec` whose command has no meaning yet (safe); no arm raises it. -/
  | notModelled (mnemonic : String)
  deriving DecidableEq, Repr

/-- A table keyed by an index, kept with its keys strictly rising. -/
abbrev Tab (α : Type) := List (Nat × α)

/-- Four like things, one per lane or plate line. -/
structure Quad (α : Type) where
  q0 : α
  q1 : α
  q2 : α
  q3 : α
  deriving DecidableEq, Repr

/-! ## Schedule store -/

/-- The session classes (R1). -/
inductive SessionClass where
  | talk | brk | service | priv
  deriving DecidableEq, Repr

/-- A session record but for its id, which is its key in the table (R1). -/
structure Session where
  room : Nat
  cls : SessionClass
  start : Nat
  fin : Nat
  title : Handle
  presenter : Handle
  movedFrom : Option Nat
  cancelled : Bool
  deriving DecidableEq, Repr

/-- A room's overlap policy (R5). -/
inductive Policy where
  | free | strict
  deriving DecidableEq, Repr

/-- A defined room slot (R5). An UNDEFINED slot has no entry in the table. -/
structure Room where
  name : Handle
  zone : Nat
  policy : Policy
  changeover : Nat
  state : RoomState
  current : Nat
  next : Nat
  overlap : Bool
  deriving DecidableEq, Repr

/-- The schedule store: the session table and the room table (R3, R5). Chains are computed from the table. -/
structure Store where
  sessions : Tab Session
  rooms : Tab Room
  deriving DecidableEq, Repr

/-! ## Clock unit -/

/-- The clock states (R48). -/
inductive ClockState where
  | unset | running | ended
  deriving DecidableEq, Repr

/-- The clock unit (R48). -/
structure ClockUnit where
  now : Nat
  origin : Nat
  state : ClockState
  /-- Intervals the 60-second timebase has begun: a restart of the timebase begins a new one (R49; log entry 6). -/
  timebase : Nat
  /-- Minute signals the store and the room state logic have still to answer (R51). -/
  storeSignals : Nat
  /-- Minute signals the credit logic has still to answer (R106). -/
  creditSignals : Nat
  deriving DecidableEq, Repr

/-! ## Styles, faces and shown records -/

/-- The inks (R64). -/
inductive Ink where
  | black | red | yellow
  deriving DecidableEq, Repr

/-- The banners (R64). -/
inductive Banner where
  | none | stripe | full
  deriving DecidableEq, Repr

/-- A style (R64). -/
structure Style where
  ink : Ink
  banner : Banner
  invert : Bool
  deriving DecidableEq, Repr

/-- The notes of a line record (R83). -/
inductive Note where
  | none | cancelled | movedHere | movedAway
  deriving DecidableEq, Repr

/-- The time kinds of a line record (R84). -/
inductive TimeKind where
  | now | starting | inMinutes | at
  deriving DecidableEq, Repr

/-- A line record (R83). -/
structure LineRec where
  id : Nat
  room : Nat
  note : Note
  time : TimeKind
  a : Nat
  b : Nat
  k : Nat
  title : Handle
  extra : Handle
  deriving DecidableEq, Repr

/-- A composed face: style, header handle (length 0 for none) and lines (section 5). -/
structure Face where
  style : Style
  header : Handle
  lines : List LineRec
  deriving DecidableEq, Repr

/-- A shown or candidate record (R92, R93). -/
structure FaceRecord where
  fullDigest : Word
  structDigest : Word
  style : Style
  noted : List (Nat × Note)
  textLines : List Nat
  resync : Bool
  deriving DecidableEq, Repr

/-- The classes of a composition (R94). -/
inductive FaceClass where
  | equal | urgent | content | tick
  deriving DecidableEq, Repr

/-- The three face queue lists of a plate line, by rank (R114). -/
inductive Rank where
  | urgent | content | tick
  deriving DecidableEq, Repr

/-! ## Sign table and credit logic -/

/-- The four flags of a sign (R132). -/
structure SignFlags where
  btn : Bool
  pwr : Bool
  lowb : Bool
  jam : Bool
  deriving DecidableEq, Repr

/-- A sign's targets, which carry its kind (R80). -/
inductive Targets where
  | door (room : Nat)
  | corridor (rooms : List Nat)
  | lobby (zones : Word)
  deriving DecidableEq, Repr

/-- A sign's definition (R138). -/
structure SignDef where
  line : Fin 4
  address : Nat
  lines : Nat
  lookahead : Nat
  targets : Targets
  deriving DecidableEq, Repr

/-- The states of a defined sign (R142). EMPTY is the absence of the slot from the table. -/
inductive SignState where
  | unseen | synced | pending | sending | refreshing | deferred | lost
  deriving DecidableEq, Repr

/-- A defined sign: its slot of the sign table (R138), its credits and DEFERRED mark (R104, R110) and its shown record
(R92), which all exist exactly while the slot is defined. -/
structure Sign where
  defn : SignDef
  state : SignState
  sequence : Byte
  failures : Nat
  seen : SignFlags
  unconfirmed : Option (Byte × FaceRecord)
  /-- The refresh timer: stopped, or running, with the seconds it was started at (R143). -/
  timer : Option Nat
  credits : Nat
  deferred : Bool
  shown : FaceRecord
  deriving DecidableEq, Repr

/-- The three lists of one plate line, head first (R114). -/
structure FaceLists where
  urgent : List Nat
  content : List Nat
  tick : List Nat
  deriving DecidableEq, Repr

/-! ## Lane unit -/

/-- The lane result codes (R46). -/
inductive Code where
  | idle | applied | partialWord | mismatch | format | range | unknownId | unknownRoom | unknownSign | full | overlap
  | held | clash
  deriving DecidableEq, Repr

/-- A lane result (R44). -/
structure LaneResult where
  sequence : Byte
  expected : Byte
  code : Code
  endOffset : Nat
  failing : Nat
  entries : Nat
  passed : Nat
  starts : Nat
  first : Nat
  second : Nat
  deriving DecidableEq, Repr

/-- The lane states (R25). -/
inductive LaneState where
  | opened | queued | applying
  deriving DecidableEq, Repr

/-- A captured word and its partial mark (R25). The written mark is the presence of the slot. -/
structure Slot where
  value : Word
  partMark : Bool
  deriving DecidableEq, Repr

/-- One lane (R25), with the sequence and end offset of its accepted post word (R31, R44). -/
structure Lane where
  state : LaneState
  shadow : Tab Slot
  expected : Byte
  heldResult : Option LaneResult
  accepted : Option (Byte × Nat)
  deriving DecidableEq, Repr

/-- The working copy of a check (R12, R37), with the rooms its entries have touched (and the offset of the last entry
that touched each), the slots its sign entries named, those a DROP SIGN named, and whether it held a SET CLOCK. -/
structure Work where
  sessions : Tab Session
  rooms : Tab Room
  now : Nat
  origin : Nat
  clock : ClockState
  signs : Tab SignDef
  touched : Tab Nat
  named : List Nat
  dropped : List Nat
  setClock : Bool
  deriving DecidableEq, Repr

/-- A refusal reached by a check (R37, R46). -/
structure Refused where
  code : Code
  failing : Nat
  first : Nat
  second : Nat
  deriving DecidableEq, Repr

/-- A check in progress: the decoded entries with their offsets, how many have been simulated without refusal on the
present working copy, that copy, the refusal found if any, and the start overs (R37, R38). -/
structure Check where
  entries : List (Nat × Entry)
  passed : Nat
  work : Work
  refusal : Option Refused
  starts : Nat
  deriving DecidableEq, Repr

/-- The batch of the head lane: none decoded yet, being checked, passed and asking for the apply step, or ended with
its result handed to the post unit (R35 to R43). -/
inductive Batch where
  | none
  | checking (c : Check)
  | applyRequested (c : Check)
  | resulting
  deriving DecidableEq, Repr

/-- The lane unit (R25, R34). -/
structure LaneUnit where
  lanes : Quad Lane
  commit : List (Fin 4)
  batch : Batch
  deriving DecidableEq, Repr

/-! ## Text cache and compositor -/

/-- A cached line and its 32 bytes (R68). -/
structure CacheLine where
  line : Nat
  data : List Byte
  deriving DecidableEq, Repr

/-- The states of a pending fill (R71). -/
inductive FillState where
  | waiting | reading | holding
  deriving DecidableEq, Repr

/-- A pending fill and the words it has read (R71). -/
structure Fill where
  line : Nat
  state : FillState
  spoiled : Bool
  data : List Word
  deriving DecidableEq, Repr

/-- The text cache (R68, R71): cached lines, most recently used first, and the pending fill set. -/
structure TextCache where
  lines : List CacheLine
  fills : List Fill
  deriving DecidableEq, Repr

/-- The composition in progress (R69, R70, R88): its sign; the engine it serves, or none for a dirty composition;
whether its requester has gone (R146); the face the selection chose; the lines still wanted, in list order; and the
bytes of the lines taken. -/
structure Composition where
  slot : Nat
  engine : Option (Fin 4)
  orphan : Bool
  face : Face
  wanted : List Nat
  taken : Tab (List Byte)
  deriving DecidableEq, Repr

/-- The compositor (R95, R100). -/
structure Compositor where
  composition : Option Composition
  dirty : List Nat
  servicePos : Nat
  lastServed : Fin 4
  deriving DecidableEq, Repr

/-! ## Segment engines and line ports -/

/-- The clear mask of an owed entry (R149): an empty mask owes a QUERY. -/
structure ClearMask where
  btn : Bool
  jam : Bool
  deriving DecidableEq, Repr

/-- An exchange chosen by an engine (R144). -/
inductive Exchange where
  | sweep (presence : Bool) (mask polarity : SignFlags) (all : Bool)
  | query (slot address : Nat)
  | clear (slot address : Nat) (mask : ClearMask)
  | face (slot address : Nat) (sequence : Byte) (rank : Rank) (record : FaceRecord) (body : List Byte)
  deriving DecidableEq, Repr

/-- The engine states (R144). `running` says whether the outcome is to be ignored (R158); `finishing` is RUNNING with
the outcome acted on, while a record or a press of it has still to be taken (R144, R160). -/
inductive EngineState where
  | off
  | idle
  | requesting (slot : Nat)
  | ready (x : Exchange)
  | running (x : Exchange) (ignored : Bool)
  | finishing
  deriving DecidableEq, Repr

/-- A press handed to the post unit and not yet taken (R160): the sign and its address. -/
structure Press where
  slot : Nat
  address : Nat
  deriving DecidableEq, Repr

/-- A segment engine (R144). Presses it has handed to the post unit and that have not been taken stand in `presses`, oldest
first: a line stopped and started again may hand one before the last is taken (R160; log entry 24). -/
structure Engine where
  state : EngineState
  owed : Tab ClearMask
  /-- The sweep timer: stopped, or running, with the period of its present interval (R147). -/
  sweepTimer : Option Nat
  due : Bool
  presence : Bool
  routine : Nat
  presses : List Press
  deriving DecidableEq, Repr

/-- The levels of a plate line. An undriven line is at mark (R120). -/
inductive Level where
  | mark | space
  deriving DecidableEq, Repr

/-- The port states (R135). -/
inductive PortState where
  | off | idle | sending | awaiting | slots | quiet
  deriving DecidableEq, Repr

/-- Which quiet time runs (R129). -/
inductive QuietKind where
  | afterGood | afterBad | afterSweep
  deriving DecidableEq, Repr

/-- A line port (R135): its state, the rate code taken at its last BREAK (R120), the bytes of the frame it drives (none
for a lone BREAK), the answer timeout in force (R128), the quiet time that runs (R129), and, while it is OFF, what it drives
of the BREAK and frame it was sending when its line was stopped, from the start of the BREAK to the line's release (R136). -/
structure Port where
  state : PortState
  rate : Nat
  frame : List Byte
  timeout : Nat
  quiet : QuietKind
  cut : List Level
  deriving DecidableEq, Repr

/-! ## Setup logic -/

/-- A KIND word's effective fields (section 12.3). -/
structure KindParams where
  refresh : Nat
  cap : Nat
  period : Nat
  deriving DecidableEq, Repr

/-- A LINE word's effective fields (section 12.3). -/
structure LineParams where
  rate : Nat
  timeout : Nat
  deriving DecidableEq, Repr

/-- The style table (R64). -/
structure Styles where
  closed : Style
  opened : Style
  inSession : Style
  changeover : Style
  held : Style
  deriving DecidableEq, Repr

/-- The KIND words (R105). -/
structure Kinds where
  door : KindParams
  corridor : KindParams
  lobby : KindParams
  deriving DecidableEq, Repr

/-- The setup state: RUNNING, or RESTARTING in its reload (words read) or its start-up fill (the record at hand)
(R190, R191, R193). -/
inductive StartPhase where
  | running
  | reload (k : Nat)
  | fill (k : Nat)
  deriving DecidableEq, Repr

/-- The setup logic (R187). -/
structure SetupLogic where
  control : BitVec 8
  enable : BitVec 13
  matrix : BitVec 10
  pendingMatrix : Bool
  styles : Styles
  kinds : Kinds
  lines : Quad LineParams
  sweepPeriod : Nat
  presenceInterval : Nat
  sweepMask : SignFlags
  sweepPolarity : SignFlags
  sweepAll : Bool
  retain : Nat
  insistT : Nat
  phase : StartPhase
  restartCount : Nat
  ready : Bool
  deriving DecidableEq, Repr

/-! ## Post unit -/

/-- The four echo sections (R183). -/
inductive Section where
  | summary | control | signs | lines
  deriving DecidableEq, Repr

/-- A record or a raise handed to the post unit (R169, R178). -/
inductive Rec where
  | echo (sec : Section)
  | flagsWord
  | raise (f : BitVec 13)
  | enableEcho
  | guardAddress
  | laneResult (n : Fin 4) (r : LaneResult) (ends : Bool)
  | ringWriteCount (v : Byte)
  | ringReadCount (v : Byte)
  | ringEntry (place : Nat) (sign room minute count : Nat)
  | ringCount (place count : Nat)
  | room (i : Nat)
  | health (slot : Nat)
  deriving DecidableEq, Repr

/-- The blocks that hand records and wait for them (R169). `ring n` is the post unit's own call ring posting, for a press
that engine `n` has handed (R160). -/
inductive Producer where
  | post | rooms | signTable | credit | engine (n : Fin 4) | ring (n : Fin 4) | fill
  deriving DecidableEq, Repr

/-- A handed record, who handed it, and the flags raised once it has entered the post queue (R179). -/
structure Item where
  producer : Producer
  record : Rec
  raises : BitVec 13
  deriving DecidableEq, Repr

/-- An unconsumed call ring entry (R159). -/
structure RingEntry where
  place : Nat
  sign : Nat
  room : Option Nat
  minute : Nat
  count : Nat
  deriving DecidableEq, Repr

/-- The post unit (R159, R166, R169, R170, R178). -/
structure PostUnit where
  flags : BitVec 13
  guardAddress : Nat
  guardByte : Bool
  ringWrite : Byte
  ringRead : Byte
  ring : List RingEntry
  /-- Stamp values by the byte offset of the record place; an absent place holds 0 (R170). -/
  stamps : Tab Word
  /-- Records and raises handed and not yet taken, oldest first. -/
  waiting : List Item
  /-- Records that a block waiting for room has still to hand, oldest first. -/
  backlog : List Item
  deriving DecidableEq, Repr

/-! ## Path unit, pins and the whole -/

/-- One entry of the post queue (R169). -/
structure PostEntry where
  offset : Nat
  value : Word
  deriving DecidableEq, Repr

/-- The data the host last read, byte by byte; a byte whose enable was off carries nothing. -/
structure HostData where
  upper : Option Byte
  lower : Option Byte
  deriving DecidableEq, Repr

/-- Where the host access stands that the insist threshold holds back (R174): none is held; one is held, with WAIT asserted,
for its own access; or its own access has been made, WAIT is released, and it is the next access to be forwarded. -/
inductive Hold where
  | none | waiting | granted
  deriving DecidableEq, Repr

/-- The path unit (R163, R169, R173 to R175). -/
structure PathUnit where
  base : Fin 16
  postQueue : List PostEntry
  fillQueue : List Nat
  insist : Nat
  stretchNext : Bool
  lastChoicePost : Bool
  hold : Hold
  hostData : HostData
  deriving DecidableEq, Repr

/-- Power, the reset pin and the MINUTE edge detector (R177, R192). -/
structure Pins where
  pgood : Bool
  powerOnEnded : Bool
  resetLow : Bool
  minute : Bool
  deriving DecidableEq, Repr

/-- The state of the part, the SRAM behind it, and the queue of commands. -/
structure State where
  pending : List Instr
  freeIndex : Nat
  pins : Pins
  mem : List Host.Cell
  path : PathUnit
  setup : SetupLogic
  clock : ClockUnit
  store : Store
  lane : LaneUnit
  cache : TextCache
  comp : Compositor
  signs : Tab Sign
  lists : Quad FaceLists
  engines : Quad Engine
  ports : Quad Port
  post : PostUnit
  deriving DecidableEq, Repr

/-! ## Starting values -/

/-- Four of the same. -/
def Quad.all {α : Type} (a : α) : Quad α := { q0 := a, q1 := a, q2 := a, q3 := a }

/-- No sign flag set. -/
def SignFlags.none : SignFlags := { btn := false, pwr := false, lowb := false, jam := false }

/-- Every sign flag set. -/
def SignFlags.every : SignFlags := { btn := true, pwr := true, lowb := true, jam := true }

/-- The default style table (R64). -/
def Styles.default : Styles :=
  { closed := { ink := .black, banner := .full, invert := true }
    opened := { ink := .black, banner := .none, invert := false }
    inSession := { ink := .black, banner := .stripe, invert := false }
    changeover := { ink := .yellow, banner := .stripe, invert := false }
    held := { ink := .red, banner := .full, invert := false } }

/-- The default KIND parameters (R105, R187). -/
def Kinds.default : Kinds :=
  { door := { refresh := 12, cap := 6, period := 10 }
    corridor := { refresh := 15, cap := 8, period := 5 }
    lobby := { refresh := 20, cap := 12, period := 5 } }

/-- The setup logic at the end of power-on or the release of the reset pin: every default (R187), the default matrix
(R7), restart count 0, ready word 0, the start-up fill at its first record (R192, R193). -/
def SetupLogic.default : SetupLogic :=
  { control := 0, enable := 0, matrix := 0x35B#10, pendingMatrix := false
    styles := .default, kinds := .default
    lines := .all { rate := 1, timeout := 10 }
    sweepPeriod := 10, presenceInterval := 6
    sweepMask := .every, sweepPolarity := .every, sweepAll := false
    retain := 30, insistT := 16
    phase := .fill 0, restartCount := 0, ready := false }

/-- An OPEN, empty lane (R25). -/
def Lane.empty : Lane :=
  { state := .opened, shadow := [], expected := 0, heldResult := .none, accepted := .none }

/-- An engine that is OFF (R144). -/
def Engine.stopped : Engine :=
  { state := .off, owed := [], sweepTimer := .none, due := false, presence := false, routine := 0, presses := [] }

/-- A port that is OFF (R135). The rate, frame, timeout and quiet time of an OFF port are not in use, and the manual gives
them no value: the rate code 1, the timeout 10 and `afterGood` are the model's choice (DESIGN CHOICE, log entry 33). -/
def Port.stopped : Port :=
  { state := .off, rate := 1, frame := [], timeout := 10, quiet := .afterGood, cut := [] }

/-- The post unit in its starting state (R170, R178, R190). -/
def PostUnit.empty : PostUnit :=
  { flags := 0, guardAddress := 0, guardByte := false, ringWrite := 0, ringRead := 0, ring := []
    stamps := [], waiting := [], backlog := [] }

/-- The clock unit in its starting state, its timebase in interval `n` (R48). -/
def ClockUnit.start (n : Nat) : ClockUnit :=
  { now := 0, origin := 0, state := .unset, timebase := n, storeSignals := 0, creditSignals := 0 }

/-- The item of the start-up fill's first record, the summary section (R193). -/
def Item.firstFill : Item := { producer := .fill, record := .echo .summary, raises := 0 }

/-- The part right after power-on has ended: every block in its starting state, setup at its defaults, the start-up
fill begun (R192). The straps read 0, the MINUTE pin is low and memory lists nothing (log entries 3 and 5). -/
def State.reset : State :=
  { pending := []
    freeIndex := 0
    pins := { pgood := true, powerOnEnded := true, resetLow := false, minute := false }
    mem := []
    path :=
      { base := 0, postQueue := [], fillQueue := [], insist := 0, stretchNext := false, lastChoicePost := false
        hold := .none, hostData := { upper := .none, lower := .none } }
    setup := .default
    clock := .start 1
    store := { sessions := [], rooms := [] }
    lane := { lanes := .all .empty, commit := [], batch := .none }
    cache := { lines := [], fills := [] }
    comp := { composition := .none, dirty := [], servicePos := 511, lastServed := 3 }
    signs := []
    lists := .all { urgent := [], content := [], tick := [] }
    engines := .all .stopped
    ports := .all .stopped
    post := { PostUnit.empty with waiting := [.firstFill] } }

end Sys2Proof.Machine
end

