-- ==== Sys2Proof/Machine/Tab.lean ====
section
/-! DEFINITION. Operations on the model's containers: keyed tables, sorted index sets, the four-fold `Quad`, and the
insertion sort that orders chains and candidates. -/

namespace Sys2Proof.Machine

variable {α : Type}

/-- The value at a key. -/
def Tab.get : Tab α → Nat → Option α
  | [], _ => none
  | (j, v) :: t, k => if k = j then some v else Tab.get t k

/-- The table with the key given a value, its order kept. -/
def Tab.set : Tab α → Nat → α → Tab α
  | [], k, v => [(k, v)]
  | (j, w) :: t, k, v =>
    if k < j then (k, v) :: (j, w) :: t
    else if k = j then (k, v) :: t
    else (j, w) :: Tab.set t k v

/-- The table without the key. -/
def Tab.del (t : Tab α) (k : Nat) : Tab α := t.filter fun e => e.1 ≠ k

/-- Whether the table holds the key. -/
def Tab.has (t : Tab α) (k : Nat) : Bool := (Tab.get t k).isSome

/-- The keys of a table, in order. -/
def Tab.keys (t : Tab α) : List Nat := t.map (·.1)

/-- Keys strictly rising: the one form of a table. -/
def Tab.sorted : Tab α → Bool
  | [] => true
  | [_] => true
  | (j, _) :: (k, w) :: t => decide (j < k) && Tab.sorted ((k, w) :: t)

/-- A sorted index set with one index added. -/
def insertIndex (i : Nat) : List Nat → List Nat
  | [] => [i]
  | j :: t => if i < j then i :: j :: t else if i = j then j :: t else j :: insertIndex i t

/-- Indices strictly rising: the one form of an index set. -/
def sortedIndices : List Nat → Bool
  | [] => true
  | [_] => true
  | j :: k :: t => decide (j < k) && sortedIndices (k :: t)

/-- A list with an element put in before the first that it precedes. -/
def insertBy (lt : α → α → Bool) (x : α) : List α → List α
  | [] => [x]
  | y :: t => if lt x y then x :: y :: t else y :: insertBy lt x t

/-- A list put in order. -/
def sortBy (lt : α → α → Bool) : List α → List α
  | [] => []
  | x :: t => insertBy lt x (sortBy lt t)

/-- The distinct elements of a list of indices, each at its first place. -/
def distinct : List Nat → List Nat
  | [] => []
  | x :: t => x :: (distinct t).filter (· ≠ x)

/-- The member of a `Quad` at an index. -/
def Quad.get (q : Quad α) : Fin 4 → α
  | 0 => q.q0
  | 1 => q.q1
  | 2 => q.q2
  | 3 => q.q3

/-- A `Quad` with one member replaced. -/
def Quad.set (q : Quad α) (i : Fin 4) (a : α) : Quad α :=
  match i with
  | 0 => { q with q0 := a }
  | 1 => { q with q1 := a }
  | 2 => { q with q2 := a }
  | 3 => { q with q3 := a }

/-- The lines or lanes in order. -/
def allFour : List (Fin 4) := [0, 1, 2, 3]

end Sys2Proof.Machine
end

