-- ==== Sys2Proof/Machine/Formats.lean ====
section
/-! DEFINITION. The layouts of Chapter 12: setup words read with their clamping (R187, R196) and written as the echo
block shows them, the status records' words (R197), and the numeric codes. -/

namespace Sys2Proof.Machine

/-! ## Codes -/

def inkOf : Nat → Ink
  | 0 => .black | 1 => .red | _ => .yellow
def inkCode : Ink → Nat
  | .black => 0 | .red => 1 | .yellow => 2
def bannerOf : Nat → Banner
  | 0 => .none | 1 => .stripe | _ => .full
def bannerCode : Banner → Nat
  | .none => 0 | .stripe => 1 | .full => 2
def classOf : Nat → Option SessionClass
  | 0 => some .talk | 1 => some .brk | 2 => some .service | 3 => some .priv | _ => none
def policyOf : Nat → Option Policy
  | 0 => some .free | 1 => some .strict | _ => none
def policyCode : Policy → Nat
  | .free => 0 | .strict => 1
def roomStateCode : RoomState → Nat
  | .closed => 1 | .opened => 2 | .inSession => 3 | .changeover => 4 | .held => 5
def clockStateCode : ClockState → Nat
  | .unset => 0 | .running => 1 | .ended => 2
def resultCode : Code → Nat
  | .idle => 0 | .applied => 1 | .partialWord => 2 | .mismatch => 3 | .format => 4 | .range => 5 | .unknownId => 6
  | .unknownRoom => 7 | .unknownSign => 8 | .full => 9 | .overlap => 10 | .held => 11 | .clash => 12
def signStateCode : SignState → Nat
  | .unseen => 1 | .synced => 2 | .pending => 3 | .sending => 4 | .refreshing => 5 | .deferred => 6 | .lost => 7
def noteCode : Note → Nat
  | .none => 0 | .cancelled => 1 | .movedHere => 2 | .movedAway => 3
def timeCode : TimeKind → Nat
  | .now => 0 | .starting => 1 | .inMinutes => 2 | .at => 3

/-! ## Setup words (section 12.3) -/

/-- A style word taken, each field clamped (R65, R187). -/
def styleOf (w : Word) : Style :=
  { ink := inkOf (field w 0 2), banner := bannerOf (field w 2 2), invert := field w 4 1 = 1 }

/-- A style as its word and as the style byte of a face (section 12.6). -/
def styleCode (s : Style) : Nat := inkCode s.ink + place (bannerCode s.banner) 2 + place (bitOf s.invert) 4

/-- A KIND word taken, each field clamped (R105, R187). -/
def kindOf (w : Word) : KindParams :=
  { refresh := clamp 1 60 (field w 0 6), cap := clamp 1 15 (field w 6 4), period := clamp 1 60 (field w 10 6) }

def kindWord (k : KindParams) : Word := wordOf (k.refresh + place k.cap 6 + place k.period 10)

/-- A LINE word taken, each field clamped (R187). -/
def lineOf (w : Word) : LineParams :=
  { rate := clamp 0 2 (field w 0 2), timeout := clamp 1 50 (field w 2 6) }

def lineWord (l : LineParams) : Word := wordOf (l.rate + place l.timeout 2)

/-- Sign flags from four bits, BTN lowest (section 12.3). -/
def signFlagsOf (n : Nat) : SignFlags :=
  { btn := n % 2 = 1, pwr := n / 2 % 2 = 1, lowb := n / 4 % 2 = 1, jam := n / 8 % 2 = 1 }

def signFlagsCode (f : SignFlags) : Nat := bitOf f.btn + place (bitOf f.pwr) 1 + place (bitOf f.lowb) 2 + place (bitOf f.jam) 3

/-- The conflict bit of a pair of classes in the MATRIX word (section 12.3). -/
def pairBit : SessionClass → SessionClass → Nat
  | .talk, .talk => 0
  | .talk, .brk => 1 | .brk, .talk => 1
  | .talk, .service => 2 | .service, .talk => 2
  | .talk, .priv => 3 | .priv, .talk => 3
  | .brk, .brk => 4
  | .brk, .service => 5 | .service, .brk => 5
  | .brk, .priv => 6 | .priv, .brk => 6
  | .service, .service => 7
  | .service, .priv => 8 | .priv, .service => 8
  | .priv, .priv => 9

/-- The matrix a MATRIX word encodes: bits 9-0 (R196). -/
def matrixOf (w : Word) : BitVec 10 := w.setWidth 10

def Styles.get (t : Styles) : RoomState → Style
  | .closed => t.closed | .opened => t.opened | .inSession => t.inSession | .changeover => t.changeover | .held => t.held

def Styles.set (t : Styles) (st : RoomState) (v : Style) : Styles :=
  match st with
  | .closed => { t with closed := v }
  | .opened => { t with opened := v }
  | .inSession => { t with inSession := v }
  | .changeover => { t with changeover := v }
  | .held => { t with held := v }

def Kinds.get (t : Kinds) : SignKind → KindParams
  | .door => t.door | .corridor => t.corridor | .lobby => t.lobby

def Kinds.set (t : Kinds) (k : SignKind) (v : KindParams) : Kinds :=
  match k with
  | .door => { t with door := v }
  | .corridor => { t with corridor := v }
  | .lobby => { t with lobby := v }

/-- Take a line word, sweep word, RETAIN or INSIST into the effective values (R187). -/
def SetupLogic.takePlain (u : SetupLogic) (p : PlainSetup) (w : Word) : SetupLogic :=
  match p with
  | .line n => { u with lines := u.lines.set n (lineOf w) }
  | .sweepTiming => { u with sweepPeriod := clamp 1 60 (field w 0 6), presenceInterval := clamp 1 16 (field w 6 5) }
  | .sweepSelect =>
    { u with sweepMask := signFlagsOf (field w 0 4), sweepPolarity := signFlagsOf (field w 4 4), sweepAll := field w 8 1 = 1 }
  | .retain => { u with retain := clamp 0 240 (field w 0 8) }
  | .insist => { u with insistT := field w 0 8 }

/-- A set/clear write on the low bits of a word (R180): bit 15 says whether the 1 bits set or clear. -/
def setClear {n : Nat} (old : BitVec n) (w : Word) : BitVec n :=
  if field w 15 1 = 1 then old ||| w.setWidth n else old &&& ~~~(w.setWidth n)

/-! ## The eight flags of CONTROL (R189) -/

def SetupLogic.seg (u : SetupLogic) (n : Fin 4) : Bool := u.control.getLsbD n.val
def SetupLogic.clockRun (u : SetupLogic) : Bool := u.control.getLsbD 4
def SetupLogic.minuteSrc (u : SetupLogic) : Bool := u.control.getLsbD 5
def SetupLogic.quiet (u : SetupLogic) : Bool := u.control.getLsbD 6
def SetupLogic.cacheOff (u : SetupLogic) : Bool := u.control.getLsbD 7

/-! ## Signs -/

def Targets.kind : Targets → SignKind
  | .door _ => .door | .corridor _ => .corridor | .lobby _ => .lobby

def SignDef.kind (d : SignDef) : SignKind := d.targets.kind

/-- The KIND parameters in force for a sign (R104, R143). -/
def SetupLogic.paramsOf (u : SetupLogic) (d : SignDef) : KindParams := u.kinds.get d.kind

/-! ## Status records (section 12.5) -/

/-- Words 1 to 6 of a lane result block and its eight empty words (R44). -/
def laneResultBody (r : LaneResult) : List Word :=
  [ wordOf (r.sequence.toNat + place r.expected.toNat 8)
  , wordOf (resultCode r.code + place r.endOffset 8)
  , wordOf (r.failing + place r.starts 8)
  , wordOf (r.entries + place r.passed 8)
  , wordOf r.first
  , wordOf r.second ] ++ List.replicate 8 0

/-- The IDLE result the start-up fill posts (R46): its expected sequence is 0, as section 12.5 and R47 give it, also where a
post accepted earlier in the fill has advanced the lane's (R44, R193; DEDUCED, log entry 31). -/
def LaneResult.idle : LaneResult :=
  { sequence := 255, expected := 0, code := .idle, endOffset := 0, failing := 255, entries := 0, passed := 0
    starts := 0, first := 0, second := 0 }

/-- Words 1 to 6 of a room record; an UNDEFINED room's are 0 (R62, R197). -/
def roomBody : Option Room → List Word
  | none => List.replicate 6 0
  | some r =>
    [ wordOf (roomStateCode r.state + place (policyCode r.policy) 8 + place (bitOf r.overlap) 9 + place r.zone 12)
    , wordOf r.current
    , wordOf r.next
    , wordOf r.changeover
    , wordOf r.name.line
    , wordOf r.name.len ]

/-- Words 1 and 2 of a sign health record; an EMPTY slot's are 0 (R185, R197). -/
def healthBody : Option Sign → List Word
  | none => [0, 0]
  | some g =>
    [ wordOf (signStateCode g.state + place (bitOf g.deferred) 4 + place (bitOf g.unconfirmed.isSome) 5
        + place g.defn.line.val 6 + place g.credits 8 + place (signFlagsCode g.seen) 12)
    , wordOf (g.failures + place g.sequence.toNat 8) ]

/-- The byte offset of an echo section (R183). -/
def Section.offset : Section → Nat
  | .summary => 0x500 | .control => 0x520 | .signs => 0x540 | .lines => 0x560

/-- Words 1 to 14 of an echo section, from the values as they stand (R183). -/
def echoBody (s : State) : Section → List Word
  | .summary =>
    [ wordOf (bitOf s.setup.ready)
    , wordOf s.setup.restartCount
    , wordOf s.clock.now
    , wordOf s.clock.origin
    , wordOf (clockStateCode s.clock.state)
    , wordOf (Config.maxSessions - s.store.sessions.length)
    , wordOf s.store.rooms.length
    , wordOf s.signs.length
    , wordOf (bitOf s.setup.pendingMatrix) ] ++ List.replicate 5 0
  | .control =>
    [ s.setup.control.setWidth 16
    , s.setup.matrix.setWidth 16
    , wordOf s.setup.retain
    , wordOf s.setup.insistT
    , wordOf (styleCode s.setup.styles.closed)
    , wordOf (styleCode s.setup.styles.opened)
    , wordOf (styleCode s.setup.styles.inSession)
    , wordOf (styleCode s.setup.styles.changeover)
    , wordOf (styleCode s.setup.styles.held) ] ++ List.replicate 5 0
  | .signs =>
    [ kindWord s.setup.kinds.door
    , kindWord s.setup.kinds.corridor
    , kindWord s.setup.kinds.lobby
    , wordOf (s.setup.sweepPeriod + place s.setup.presenceInterval 6)
    , wordOf (signFlagsCode s.setup.sweepMask + place (signFlagsCode s.setup.sweepPolarity) 4
        + place (bitOf s.setup.sweepAll) 8) ] ++ List.replicate 9 0
  | .lines =>
    [ lineWord s.setup.lines.q0
    , lineWord s.setup.lines.q1
    , lineWord s.setup.lines.q2
    , lineWord s.setup.lines.q3 ] ++ List.replicate 10 0

end Sys2Proof.Machine
end

