-- ==== Sys2Proof/Machine/Crc.lean ====
section
/-! DEFINITION. The CRC-16 of R90, used for both digests of a face and for every frame and reply of the plate lines. -/

namespace Sys2Proof.Machine

/-- One bit fed to the CRC register: shift left; if the bit shifted out differs from the data bit, exclusive-OR with
1021h (R90). -/
def crcBit (reg : Word) (bit : Bool) : Word :=
  if reg.getLsbD 15 != bit then (reg <<< 1) ^^^ 0x1021#16 else reg <<< 1

/-- One byte fed, most significant bit first (R90). -/
def crcByte (reg : Word) (b : Byte) : Word :=
  crcBit (crcBit (crcBit (crcBit (crcBit (crcBit (crcBit (crcBit reg (b.getLsbD 7)) (b.getLsbD 6)) (b.getLsbD 5))
    (b.getLsbD 4)) (b.getLsbD 3)) (b.getLsbD 2)) (b.getLsbD 1)) (b.getLsbD 0)

/-- The CRC register after a run of bytes, from a register value. -/
def crcFrom (reg : Word) : List Byte → Word
  | [] => reg
  | b :: t => crcFrom (crcByte reg b) t

/-- The CRC of R90 over a run of bytes. -/
def crc (bytes : List Byte) : Word := crcFrom 0xFFFF#16 bytes

/-- A number as one byte. -/
def byteOf (n : Nat) : Byte := BitVec.ofNat 8 n

end Sys2Proof.Machine
end

