-- ==== Sys2Proof/Machine/Flags.lean ====
section
/-! DEFINITION. The thirteen event flags, the ack merge on the internal copy, the enable mask and ATTN
(R167, R178, R181, R182). -/

namespace Sys2Proof.Machine

/-- The event flags (R178). -/
inductive Event where
  | lane (n : Fin 4) | call | lost | back | powerup | lowbat | fault | guard | clockEnd | ready
  deriving DecidableEq, Repr

/-- The flag's position in the flags word (section 12.5). -/
def Event.bit : Event → Nat
  | .lane n => n.val | .call => 4 | .lost => 5 | .back => 6 | .powerup => 7 | .lowbat => 8 | .fault => 9 | .guard => 10
  | .clockEnd => 11 | .ready => 12

/-- The set holding one flag. -/
def Event.mask (e : Event) : BitVec 13 := 1#13 <<< e.bit

/-- One flag if a condition holds, else none. -/
def Event.when (e : Event) (b : Bool) : BitVec 13 := if b then e.mask else 0

/-- The flags word as the host sees it: the internal copy, 0 in bits 15-13 (R196, R197). -/
def flagsWordOf (f : BitVec 13) : Word := f.setWidth 16

/-- The internal copy after a host write to the flags word (R167). -/
def mergeFlags (f : BitVec 13) (d : Drive) : BitVec 13 := (driveMerge d (flagsWordOf f)).setWidth 13

/-- The part is at work: power good, power-on ended, the reset pin not taken (R164, R192). -/
def State.active (s : State) : Bool := s.pins.pgood && s.pins.powerOnEnded && !s.pins.resetLow

/-- ATTN asserted (R182): the flags ANDed with the enable mask are not zero; released while the part is held. Between a fall of
PGOOD and its next rise, of which the manual says nothing, it is released too (DEDUCED, log entry 20). -/
def State.attn (s : State) : Bool := s.active && (s.post.flags &&& s.setup.enable) != 0

end Sys2Proof.Machine
end

