-- ==== Sys2Proof/Machine/Ops.lean ====
section
/-! DEFINITION. The named operations over memory and over the blocks' state: bytes and words of the SRAM, one sign, one
engine, one port, one lane, the dirty set, and what own work waits. -/

namespace Sys2Proof.Machine

/-! ## Memory (R163, R164; section 1.5) -/

/-- One byte of memory; a byte the list does not hold reads as `Config.unwrittenByte`. -/
def readByte (m : List Host.Cell) (a : Nat) : Byte := (Tab.get m a).getD Config.unwrittenByte

/-- Memory with one byte written, its one form kept: no entry holds the value an unlisted byte reads as. -/
def writeByte (m : List Host.Cell) (a : Nat) (v : Byte) : List Host.Cell :=
  if v = Config.unwrittenByte then Tab.del m a else Tab.set m a v

/-- The one form of memory: addresses strictly rising, no entry equal to what an unlisted byte reads as. -/
def Memory.wf (m : List Host.Cell) : Bool := Tab.sorted m && m.all fun c => c.2 != Config.unwrittenByte

/-- The word at an even byte address, low byte at the lower address. -/
def readWord (m : List Host.Cell) (a : Nat) : Word := joinBytes (readByte m (a + 1)) (readByte m a)

/-- Memory with one word written, both byte enables driven. -/
def writeWord (m : List Host.Cell) (a : Nat) (v : Word) : List Host.Cell :=
  writeByte (writeByte m a (loByte v)) (a + 1) (hiByte v)

/-- Memory after a host write to the word at an even address: the enabled bytes are written (R164). -/
def writeDrive (m : List Host.Cell) (a : Nat) (d : Drive) : List Host.Cell :=
  match d with
  | .both v => writeWord m a v
  | .low v => writeByte m a v
  | .high v => writeByte m (a + 1) v
  | .neither => m

/-- The byte address of an offset of the region (R163). -/
def State.regionAddress (s : State) (offset : Nat) : Nat := s.path.base.val * 0x10000 + offset

/-- Forward a host write to memory (R164). -/
def State.forward (s : State) (a : Nat) (d : Drive) : State := { s with mem := writeDrive s.mem a d }

/-- Forward a host write to a word of the region. -/
def State.forwardAt (s : State) (offset : Nat) (d : Drive) : State := s.forward (s.regionAddress offset) d

/-! ## One member of a block -/

def State.sign (s : State) (slot : Nat) : Option Sign := Tab.get s.signs slot

def State.setSign (s : State) (slot : Nat) (g : Sign) : State := { s with signs := Tab.set s.signs slot g }

/-- Change a defined sign; an EMPTY slot stays as it is. -/
def State.updateSign (s : State) (slot : Nat) (f : Sign → Sign) : State :=
  match s.sign slot with
  | some g => s.setSign slot (f g)
  | none => s

def State.engine (s : State) (n : Fin 4) : Engine := s.engines.get n

def State.setEngine (s : State) (n : Fin 4) (e : Engine) : State := { s with engines := s.engines.set n e }

def State.updateEngine (s : State) (n : Fin 4) (f : Engine → Engine) : State := s.setEngine n (f (s.engine n))

def State.port (s : State) (n : Fin 4) : Port := s.ports.get n

def State.setPort (s : State) (n : Fin 4) (p : Port) : State := { s with ports := s.ports.set n p }

def State.laneAt (s : State) (n : Fin 4) : Lane := s.lane.lanes.get n

def State.setLane (s : State) (n : Fin 4) (l : Lane) : State :=
  { s with lane := { s.lane with lanes := s.lane.lanes.set n l } }

def State.setBatch (s : State) (b : Batch) : State := { s with lane := { s.lane with batch := b } }

def State.setComposition (s : State) (c : Option Composition) : State :=
  { s with comp := { s.comp with composition := c } }

def State.setWaiting (s : State) (w : List Item) : State := { s with post := { s.post with waiting := w } }

def State.room (s : State) (i : Nat) : Option Room := Tab.get s.store.rooms i

/-- The defined sign of a plate line at an address (R139: there is at most one). -/
def State.signAt (s : State) (n : Fin 4) (address : Nat) : Option (Nat × Sign) :=
  s.signs.find? fun e => e.2.defn.line = n && e.2.defn.address = address

/-! ## The part at work -/

/-- A step of the part's own: it does nothing while the part is not at work. The manual does not say what the part's steps do
between a fall of PGOOD and its next rise; that they do nothing is the model's choice (R192; DEDUCED, log entry 20). -/
def State.working (s : State) (f : State → State) : State := if s.active then f s else s

/-! ## The dirty set (R95) -/

/-- Mark a sign dirty; marking a sign that is not defined does nothing. -/
def State.markDirty (s : State) (slot : Nat) : State :=
  if Tab.has s.signs slot then { s with comp := { s.comp with dirty := insertIndex slot s.comp.dirty } } else s

/-- Mark every defined sign dirty that meets a condition, in ascending slot index. -/
def State.markWhere (s : State) (p : Nat × Sign → Bool) : State :=
  (s.signs.filter p).foldl (fun t e => t.markDirty e.1) s

/-- Mark every defined sign dirty (R96). -/
def State.markAll (s : State) : State := s.markWhere fun _ => true

/-- The sign leaves the dirty set (R95). -/
def State.clean (s : State) (slot : Nat) : State :=
  { s with comp := { s.comp with dirty := s.comp.dirty.filter (· ≠ slot) } }

/-! ## Own work (R173, R174) -/

/-- Setup reads are still to be made (R191). -/
def State.reloading (s : State) : Bool :=
  match s.setup.phase with
  | .reload _ => true
  | _ => false

/-- The kinds of own access (R173). -/
inductive OwnAccess where
  | setupRead | postWrite | fillRead
  deriving DecidableEq, Repr

/-- The kind of own access that is ready and comes next: setup reads first; between post writes and fill reads, the kind not
taken at the last choice (R173). -/
def State.ownReady (s : State) : Option OwnAccess :=
  if !s.active then none
  else if s.reloading then some .setupRead
  else
    match s.path.postQueue, s.path.fillQueue with
    | [], [] => none
    | _ :: _, [] => some .postWrite
    | [], _ :: _ => some .fillRead
    | _ :: _, _ :: _ => if s.path.lastChoicePost then some .fillRead else some .postWrite

/-- The own access made next, if one may begin: none may between the own access a held host access has waited for and that
access itself (R173, R174). -/
def State.ownChoice (s : State) : Option OwnAccess := if s.path.hold = .granted then none else s.ownReady

/-- Own work waits: an own access of some kind is ready to be made (R173). -/
def State.ownWork (s : State) : Bool := s.ownReady.isSome

/-- WAIT is asserted: a host access is held by the insist threshold until an own access ends (R164, R174). -/
def PathUnit.wait (p : PathUnit) : Bool := p.hold = .waiting

/-- The hold after an own access: a host access that waited for it is the next to be forwarded (R174). -/
def Hold.afterOwn : Hold → Hold
  | .waiting => .granted
  | h => h

/-- An own access begins and ends: the insist count is 0, WAIT is released (R164, R174). -/
def State.ownAccessMade (s : State) : State :=
  { s with path := { s.path with insist := 0, stretchNext := false, hold := s.path.hold.afterOwn } }

/-- A free value is used: the counter moves on. -/
def State.useFree (s : State) : State := { s with freeIndex := s.freeIndex + 1 }

end Sys2Proof.Machine
end

