-- ==== Sys2Proof/Machine/Post.lean ====
section
/-! DEFINITION. The post unit: records handed, waiting and entering the post queue whole (R169, R170, R178, R184,
R185), the start-up fill (R193, R194), and the records that follow from a change of the values they show. -/

namespace Sys2Proof.Machine

/-! ## What a record writes -/

/-- The first byte offset of a record, its words but for stamps, and whether it carries stamps (section 12.5; R170). -/
def recordLayout (s : State) : Rec → Nat × List Word × Bool
  | .echo sec => (sec.offset, echoBody s sec, true)
  | .flagsWord => (flagsOffset, [flagsWordOf s.post.flags], false)
  | .raise f => (flagsOffset, [flagsWordOf (s.post.flags ||| f)], false)
  | .enableEcho => (enableEchoOffset, [s.setup.enable.setWidth 16], false)
  | .guardAddress =>
    (guardOffset, [wordOf s.post.guardAddress, wordOf (s.post.guardAddress / 0x10000 + place (bitOf s.post.guardByte) 15)],
      false)
  | .laneResult n r _ => (laneResultOffset n, laneResultBody r, true)
  | .ringWriteCount v => (ringWriteOffset, [wordOf v.toNat], false)
  | .ringReadCount v => (readCountOffset, [wordOf v.toNat], false)
  | .ringEntry p sign room minute count => (ringEntryOffset p, [wordOf sign, wordOf room, wordOf minute, wordOf count], false)
  | .ringCount p count => (ringEntryOffset p + 6, [wordOf count], false)
  | .room i => (roomOffset i, roomBody (s.room i), true)
  | .health slot => (healthOffset slot, healthBody (s.sign slot), true)

/-- The places a record needs in the post queue (R169, R170). -/
def recordSize : Rec → Nat
  | .echo _ => 16
  | .flagsWord => 1
  | .raise _ => 1
  | .enableEcho => 1
  | .guardAddress => 2
  | .laneResult _ _ _ => 16
  | .ringWriteCount _ => 1
  | .ringReadCount _ => 1
  | .ringEntry _ _ _ _ _ => 4
  | .ringCount _ _ => 1
  | .room _ => 8
  | .health _ => 4

/-- The stamp value of a record place (R170). -/
def State.stamp (s : State) (offset : Nat) : Word := (Tab.get s.post.stamps offset).getD 0

/-- The words of a record in the order they join the queue: leading stamp, body in order of address, trailing stamp
(R170). -/
def recordWords (s : State) (r : Rec) : List Word :=
  let l := recordLayout s r
  if l.2.2 then [s.stamp l.1 + 1] ++ l.2.1 ++ [s.stamp l.1 + 2] else l.2.1

/-- Words laid out from an offset as post queue entries. -/
def entriesFrom : Nat → List Word → List PostEntry
  | _, [] => []
  | o, w :: t => { offset := o, value := w } :: entriesFrom (o + 2) t

/-- A record joins the tail of the post queue whole, its stamps advanced (R169, R170). -/
def State.enqueue (s : State) (r : Rec) : State :=
  let l := recordLayout s r
  { s with
    path := { s.path with postQueue := s.path.postQueue ++ entriesFrom l.1 (recordWords s r) }
    post := { s.post with
      stamps := if l.2.2 then Tab.set s.post.stamps l.1 (s.stamp l.1 + 2) else s.post.stamps } }

/-- The queue has the places a record needs (R169). -/
def State.hasPlaces (s : State) (n : Nat) : Bool := decide (s.path.postQueue.length + n ≤ Config.postQueueSize)

/-! ## Raises (R178) -/

/-- The flags of a raise are added to the first raise that waits, if there is one. -/
def joinRaise (f : BitVec 13) : List Item → Option (List Item)
  | [] => none
  | it :: t =>
    match it.record with
    | .raise g => some ({ it with record := .raise (g ||| f) } :: t)
    | _ => (joinRaise f t).map (it :: ·)

/-- A block hands a raise: it joins a raise that waits, or waits its turn behind the records handed before it (R178). -/
def State.handRaise (s : State) (f : BitVec 13) : State :=
  if f = 0 then s
  else
    match joinRaise f s.post.waiting with
    | some w => s.setWaiting w
    | none => s.setWaiting (s.post.waiting ++ [{ producer := .post, record := .raise f, raises := 0 }])

/-! ## The lane and engine state that records release -/

/-- Once the start-up fill has completed, the head of the commit queue becomes APPLYING (R35). -/
def State.promoteHead (s : State) : State :=
  match s.setup.phase, s.lane.commit with
  | .running, n :: _ =>
    if (s.laneAt n).state = .queued then s.setLane n { s.laneAt n with state := .applying } else s
  | _, _ => s

/-- A block still has a record to hand or a record that waits. -/
def State.producerBusy (s : State) (p : Producer) : Bool :=
  s.post.waiting.any (fun it => it.producer = p) || s.post.backlog.any (fun it => it.producer = p)

/-- The post unit's own call ring posting waits for room: a record of it has still to enter the queue (R160, R169). -/
def State.ringBusy (s : State) : Bool := allFour.any fun n => s.producerBusy (.ring n)

/-- An engine whose outcome has been acted on becomes IDLE once its records have entered, its presses have been taken and
the ring records of its press have entered (R144, R160, R169). -/
def State.settleEngine (s : State) (n : Fin 4) : State :=
  let e := s.engine n
  if e.state = .finishing && e.presses.isEmpty && !s.producerBusy (.engine n) && !s.producerBusy (.ring n) then
    s.setEngine n { e with state := .idle }
  else s

/-! ## The start-up fill (R193, R194) -/

/-- The last record of the fill: the summary section with ready word 1. -/
def lastFill : Nat := 813

/-- Record `k` of the start-up fill (R193). -/
def fillRecord (k : Nat) : Rec :=
  if k = 0 then .echo .summary
  else if k = 1 then .echo .control
  else if k = 2 then .echo .signs
  else if k = 3 then .echo .lines
  else if k = 4 then .flagsWord
  else if k = 5 then .enableEcho
  else if k = 6 then .guardAddress
  else if k < 11 then .laneResult (Fin.ofNat 4 (k - 7)) .idle false
  else if k = 11 then .ringWriteCount 0
  else if k = 12 then .ringReadCount 0
  else if k < 45 then .ringEntry (k - 13) 0 0 0 0
  else if k < 301 then .room (k - 45)
  else if k < lastFill then .health (k - 301)
  else .echo .summary

/-- The fill hands its record `k`, which waits its turn. -/
def State.handFill (s : State) (k : Nat) : State :=
  { s with
    setup := { s.setup with phase := .fill k }
    post := { s.post with
      waiting := s.post.waiting ++ [{ producer := .fill, record := fillRecord k, raises := 0 }] } }

/-- A held lane result is handed, and is then absent (R33). -/
def State.handHeld (s : State) (n : Fin 4) : State :=
  match (s.laneAt n).heldResult with
  | some r =>
    let t := s.setLane n { s.laneAt n with heldResult := none }
    t.setWaiting (t.post.waiting ++ [{ producer := .post, record := .laneResult n r false, raises := (Event.lane n).mask }])
  | none => s

/-- The start-up fill ends: READY is raised, setup is RUNNING, held lane results are handed in ascending lane order,
and the head of the commit queue becomes APPLYING (R194). The raise is handed before the held results: the manual lets either be
first (R169; DEDUCED, log entry 15). -/
def State.endFill (s : State) : State :=
  let t := { s with setup := { s.setup with phase := .running } }.handRaise Event.ready.mask
  (allFour.foldl State.handHeld t).promoteHead

/-- What follows when a record of the fill has entered the queue: the next is handed, or the fill ends. -/
def State.advanceFill (s : State) : State :=
  match s.setup.phase with
  | .fill k => if k < lastFill then s.handFill (k + 1) else s.endFill
  | _ => s

/-- At its last record the fill shows ready word 1 (R193 step 9). -/
def State.readyForLast (s : State) (p : Producer) : State :=
  if p = .fill && s.setup.phase = .fill lastFill then { s with setup := { s.setup with ready := true } } else s

/-! ## Handing records (R169) -/

/-- The block hands the next of the records it has still to hand. -/
def State.handNext (s : State) (p : Producer) : State :=
  match s.post.backlog.find? (fun it => it.producer = p) with
  | some it =>
    { s with post := { s.post with
      waiting := s.post.waiting ++ [it], backlog := s.post.backlog.erase it } }
  | none => s

/-- What follows when a record has entered: its flags are raised (R179), its block hands its next record, the fill goes
on, and an engine that waited may be IDLE. -/
def State.afterEnter (s : State) (it : Item) : State :=
  let t := s.handRaise it.raises
  match it.producer with
  | .fill => t.advanceFill
  | .engine n => (t.handNext it.producer).settleEngine n
  | .ring n => (t.handNext it.producer).settleEngine n
  | p => t.handNext p

/-- A record enters the post queue whole. -/
def State.enter (s : State) (it : Item) : State :=
  ((s.readyForLast it.producer).enqueue it.record).afterEnter it

/-- Records that enter at a RECORD_ENQUEUE step; lane results and raises have steps of their own. -/
def Item.plain (it : Item) : Bool :=
  match it.record with
  | .raise _ => false
  | .laneResult _ _ _ => it.producer = .fill
  | _ => true

/-- A block hands a record: it enters at once if nothing waits and the queue has room; else it waits its turn, behind
the block's own records if the block has any that wait (R169). -/
def State.hand (s : State) (it : Item) : State :=
  if s.post.waiting.isEmpty && it.plain && s.hasPlaces (recordSize it.record) then s.enter it
  else if it.producer ≠ .post && s.producerBusy it.producer then
    { s with post := { s.post with backlog := s.post.backlog ++ [it] } }
  else s.setWaiting (s.post.waiting ++ [it])

/-! ## Echo sections (R184) -/

/-- The place of an echo section in the fill's first step (R193). -/
def Section.fillStep : Section → Nat
  | .summary => 0 | .control => 1 | .signs => 2 | .lines => 3

/-- Echo sections are posted once the running start's fill has passed them (R184). -/
def State.echoOpen (s : State) (sec : Section) : Bool :=
  match s.setup.phase with
  | .running => true
  | .reload _ => false
  | .fill k => decide (sec.fillStep < k)

/-- A posting of the section that waits takes a later change, and the flags to raise after it. -/
def joinEcho (sec : Section) (f : BitVec 13) : List Item → Option (List Item)
  | [] => none
  | it :: t =>
    if it.record = .echo sec then some ({ it with raises := it.raises ||| f } :: t)
    else (joinEcho sec f t).map (it :: ·)

/-- A changed echo section is posted; a posting of it that waits takes the change (R184). Flags that tell of it are
raised after it (R179). -/
def State.handEcho (s : State) (sec : Section) (f : BitVec 13) : State :=
  if s.echoOpen sec then
    match joinEcho sec f s.post.waiting with
    | some w => s.setWaiting w
    | none => s.hand { producer := .post, record := .echo sec, raises := f }
  else s.handRaise f

/-- The four sections. -/
def allSections : List Section := [.summary, .control, .signs, .lines]

/-- Post every echo section one of whose values has changed since `old`; `f` is raised after the summary (R179, R184). Several
sections are handed in the order of the fill's first step (R193), which no rule asks of them here (DEDUCED, log entry 15). -/
def State.syncEcho (s old : State) (f : BitVec 13 := 0) : State :=
  allSections.foldl
    (fun t sec =>
      if echoBody t sec ≠ echoBody old sec then t.handEcho sec (if sec = .summary then f else 0)
      else if sec = .summary then t.handRaise f else t)
    s

/-! ## Room records and health records (R62, R185) -/

/-- Hand the record of every room whose posted values differ from those it held in `old`, in ascending index (R62). -/
def State.syncRooms (s old : State) : State :=
  (s.store.rooms.filter fun e => roomBody (some e.2) ≠ roomBody (old.room e.1)).foldl
    (fun t e => t.hand { producer := .rooms, record := .room e.1, raises := 0 }) s

/-- Room records of the room state logic that have not yet entered the queue (R62). -/
def State.roomsBusy (s : State) : Bool :=
  let f := fun it : Item => match it.record with
    | .room _ => it.producer = .rooms
    | _ => false
  s.post.waiting.any f || s.post.backlog.any f

/-- The slots defined in either state, in ascending order. -/
def slotsOf (s old : State) : List Nat := (Tab.keys old.signs).foldr insertIndex (Tab.keys s.signs)

/-- A block hands the health records of the slots that meet a condition, in ascending index; the flags of `raises` at a slot
are raised after its record (R179, R185). Where no rule orders the signs of one step, that index is the model's choice (DEDUCED,
log entry 15). -/
def State.handHealth (s old : State) (p : Producer) (raises : Tab (BitVec 13)) (changed : Nat → Bool) : State :=
  ((slotsOf s old).filter changed).foldl
    (fun t i => t.hand { producer := p, record := .health i, raises := (Tab.get raises i).getD 0 }) s

/-- Hand the health record of every slot whose fields differ from those it held in `old`, and of those in `always`
(R185). -/
def State.syncHealth (s old : State) (p : Producer) (always : List Nat := []) (raises : Tab (BitVec 13) := []) : State :=
  s.handHealth old p raises fun i =>
    healthBody (s.sign i) ≠ healthBody (old.sign i) || always.contains i || Tab.has raises i

/-- A sign's health fields but for its credits, which the credit logic owns (R104, R141). -/
def tableBody (g : Option Sign) : List Word := healthBody (g.map fun x => { x with credits := 0 })

/-- A sign's health fields but for its face sequence, which its engine owns (R154). -/
def listedBody (g : Option Sign) : List Word := healthBody (g.map fun x => { x with sequence := 0 })

/-- The records of the signs an apply has changed: the sign table hands every slot it has changed or dropped, and the credit
logic every slot whose count has come into being or changed, each hand-off a record of its own (R104, R107, R141, R185). -/
def State.syncSigns (s old : State) : State :=
  (s.handHealth old .signTable [] fun i => tableBody (s.sign i) ≠ tableBody (old.sign i)).handHealth old .credit [] fun i =>
    (s.sign i).isSome && (s.sign i).map (·.credits) ≠ (old.sign i).map (·.credits)

/-! ## Guarded writes (R166) -/

/-- A guarded address record that waits and that a dropped write handed. -/
def Item.isGuard (it : Item) : Bool := it.record = .guardAddress && it.producer = .post

/-- A host write is dropped: the last guarded address takes its address and width, the record is enqueued, and GUARD
is raised after it. A record that waits carries the newer address (R166). -/
def State.dropGuarded (s : State) (addr : Nat) (byte : Bool) : State :=
  let t := { s with post := { s.post with guardAddress := addr, guardByte := byte } }
  if t.post.waiting.any Item.isGuard then t
  else t.hand { producer := .post, record := .guardAddress, raises := Event.guard.mask }

end Sys2Proof.Machine
end

