-- ==== Sys2Proof/Machine/Store.lean ====
section
/-! DEFINITION. The schedule store: handles (R2), chains (R3), overlap and its judgement (R9, R10), retire (R22), and the
room state logic's derivation (R55 to R58). -/

namespace Sys2Proof.Machine

/-! ## Handles -/

/-- Lines a text of length `n` covers: ceil(n / 32). -/
def coveredLines (n : Nat) : Nat := (n + 31) / 32

/-- A handle valid as a required handle (R2). -/
def requiredOk (h : Handle) : Bool :=
  1 ≤ h.len && h.len ≤ 64 && h.line ≤ 1535 && h.line + coveredLines h.len ≤ Config.poolLines

/-- A handle valid as an optional handle (R2). -/
def optionalOk (h : Handle) : Bool := h.len = 0 || requiredOk h

/-! ## Chains -/

/-- Chain order: by start, then by id (R3). -/
def chainBefore (x y : Nat × Session) : Bool :=
  x.2.start < y.2.start || (x.2.start = y.2.start && x.1 < y.1)

/-- The chain of a room: its sessions in chain order (R3). -/
def chainOf (t : Tab Session) (room : Nat) : List (Nat × Session) :=
  sortBy chainBefore (t.filter fun e => e.2.room = room)

/-! ## Overlap -/

/-- Each starts before the other ends (R9). -/
def overlaps (a b : Session) : Bool := a.start < b.fin && b.start < a.fin

/-- Two sessions in conflict: not cancelled, overlapping, of conflicting classes (R9). -/
def conflicting (m : BitVec 10) (a b : Session) : Bool :=
  !a.cancelled && !b.cancelled && overlaps a b && m.getLsbD (pairBit a.cls b.cls)

/-- The first session in chain order that conflicts with a later one, and the first such later one (R10). -/
def firstConflict (m : BitVec 10) : List (Nat × Session) → Option (Nat × Nat)
  | [] => none
  | x :: t =>
    match t.find? fun y => conflicting m x.2 y.2 with
    | some y => some (x.1, y.1)
    | none => firstConflict m t

/-- The overlap judgement over the touched rooms, in ascending index (R10). -/
def judgeOverlap (m : BitVec 10) (w : Work) : Tab Nat → Option Refused
  | [] => none
  | (i, off) :: t =>
    match Tab.get w.rooms i with
    | some r =>
      if r.policy = .strict then
        match firstConflict m (chainOf w.sessions i) with
        | some (a, b) => some { code := .overlap, failing := off, first := a, second := b }
        | none => judgeOverlap m w t
      else judgeOverlap m w t
    | none => judgeOverlap m w t

/-! ## Retire -/

/-- The sessions a retire leaves: those with end + retain above now (R22). -/
def retired (retain now : Nat) (t : Tab Session) : Tab Session := t.filter fun e => now < e.2.fin + retain

/-- The retire against the clock's now and the effective retain (R22). -/
def State.retire (s : State) : State :=
  { s with store := { s.store with sessions := retired s.setup.retain s.clock.now s.store.sessions } }

/-! ## Room states -/

/-- CLOSED and HELD are set by entries and never derived (R55). -/
def roomFixed : RoomState → Bool
  | .closed => true
  | .held => true
  | _ => false

/-- In progress at `now` and not cancelled. -/
def running (now : Nat) (e : Session) : Bool := !e.cancelled && e.start ≤ now && now < e.fin

/-- The derived values of a room from its chain at `now` (R56, R57). -/
def deriveRoom (chain : List (Nat × Session)) (now : Nat) (r : Room) : Room :=
  let next := ((chain.find? fun e => !e.2.cancelled && now < e.2.start).map (·.1)).getD 0
  match chain.filter fun e => running now e.2 with
  | x :: t => { r with state := .inSession, current := x.1, next := next, overlap := !t.isEmpty }
  | [] =>
    let turning := chain.any fun e => !e.2.cancelled && e.2.fin ≤ now && now < e.2.fin + r.changeover
    { r with state := if turning then .changeover else .opened, current := 0, next := next, overlap := false }

/-- A CLOSED or HELD room's current, next and overlap values (R58). -/
def fixedRoom (r : Room) : Room := { r with current := 0, next := 0, overlap := false }

/-- Every defined room not CLOSED or HELD, derived (R51, R55). -/
def deriveAll (t : Tab Session) (now : Nat) (rooms : Tab Room) : Tab Room :=
  rooms.map fun e => (e.1, if roomFixed e.2.state then e.2 else deriveRoom (chainOf t e.1) now e.2)

/-- The rooms after an apply: a touched room takes the values of R58 or is derived; with a clock set, every other room
not CLOSED or HELD is derived too (R54, R61). -/
def deriveAfterApply (t : Tab Session) (now : Nat) (clockSet : Bool) (touched : Tab Nat) (rooms : Tab Room) : Tab Room :=
  rooms.map fun e =>
    (e.1,
      if roomFixed e.2.state then (if Tab.has touched e.1 then fixedRoom e.2 else e.2)
      else if clockSet || Tab.has touched e.1 then deriveRoom (chainOf t e.1) now e.2
      else e.2)

/-! ## What a sign targets (R81) -/

/-- Whether a lobby's mask holds a zone. -/
def holdsZone (mask : Word) (zone : Nat) : Bool := mask.getLsbD zone

/-- A sign targets a room, a lobby by any of the zones given for the room (R81, R97). -/
def targetsRoom (d : SignDef) (room : Nat) (zones : List Nat) : Bool :=
  match d.targets with
  | .door r => r = room
  | .corridor rs => rs.contains room
  | .lobby m => zones.any (holdsZone m)

/-- The zone of a room, if it is defined. -/
def zoneOf (rooms : Tab Room) (i : Nat) : List Nat := ((Tab.get rooms i).map (·.zone)).toList

/-- Mark dirty every defined sign that targets a room whose state has changed since `old` (R63). -/
def State.markRoomChanges (s old : State) : State :=
  (s.store.rooms.filter fun e => (old.room e.1).map (·.state) ≠ some e.2.state).foldl
    (fun t e => t.markWhere fun g => targetsRoom g.2.defn e.1 [e.2.zone]) s

end Sys2Proof.Machine
end

