-- ==== Sys2Proof/Machine/Face.lean ====
section
/-! DEFINITION. Faces: windows (R82), line records and their times (R83, R84), the candidate rules (R85 to R87), the face
body and its digests (R89 to R91), records and classification (R92 to R94). -/

namespace Sys2Proof.Machine

/-! ## Windows and times -/

/-- A session is in the window of a sign with lookahead `w` (R82). -/
def inWindow (now w : Nat) (e : Session) : Bool := now < e.fin && e.start ≤ now + w

/-- The time kind and the values a, b, k of a line (R84). -/
def timeOf (now origin start : Nat) : TimeKind × Nat × Nat × Nat :=
  if start ≤ now then (.now, 0, 0, 0)
  else
    let d := start - now
    if d ≤ 5 then (.starting, 0, 0, 0)
    else if d ≤ 60 then (.inMinutes, 5 * (d / 5), 0, 0)
    else
      let c := (origin + start) % 1440
      (.at, c / 60, c % 60, min 9 ((origin + start) / 1440 - (origin + now) / 1440))

/-- No text. -/
def noText : Handle := { line := 0, len := 0 }

/-- A line record of a session (R83, R84). -/
def lineRec (now origin id : Nat) (e : Session) (note : Note) (extra : Handle) : LineRec :=
  let t := timeOf now origin e.start
  { id := id, room := e.room, note := note, time := t.1, a := t.2.1, b := t.2.2.1, k := t.2.2.2, title := e.title
    extra := extra }

/-- The note of a session shown in its own room (R85, R86). -/
def ownNote (e : Session) : Note :=
  if e.cancelled then .cancelled else if e.movedFrom.isSome then .movedHere else .none

/-- The note of a session at the door it was moved away from (R85). -/
def awayNote (e : Session) : Note := if e.cancelled then .cancelled else .movedAway

/-- The name handle of a room; no text where it is UNDEFINED. -/
def nameOf (rooms : Tab Room) (i : Nat) : Handle := ((Tab.get rooms i).map (·.name)).getD noText

/-! ## The candidate rules -/

/-- What a selection reads (R88). -/
structure Selection where
  now : Nat
  origin : Nat
  sessions : Tab Session
  rooms : Tab Room
  styles : Styles
  deriving DecidableEq, Repr

/-- The values a composition's selection reads in one step (R88). -/
def State.selection (s : State) : Selection :=
  { now := s.clock.now, origin := s.clock.origin, sessions := s.store.sessions, rooms := s.store.rooms
    styles := s.setup.styles }

/-- A door line's extra text (R85). -/
def doorExtra (v : Selection) (e : Session) (note : Note) : Handle :=
  match note with
  | .movedAway => nameOf v.rooms e.room
  | .cancelled => noText
  | _ => if e.start ≤ v.now then e.presenter else noText

/-- A door line (R85). -/
def doorLine (v : Selection) (room : Nat) (x : Nat × Session) : LineRec :=
  let note := if x.2.room = room then ownNote x.2 else awayNote x.2
  lineRec v.now v.origin x.1 x.2 note (doorExtra v x.2 note)

/-- A DOOR face (R85). -/
def doorFace (v : Selection) (d : SignDef) (room : Nat) : Face :=
  match Tab.get v.rooms room with
  | none => { style := v.styles.opened, header := noText, lines := [] }
  | some r =>
    let candidates := v.sessions.filter fun x =>
      (x.2.room = room || x.2.movedFrom = some room) && inWindow v.now d.lookahead x.2
    { style := v.styles.get r.state
      header := r.name
      lines :=
        if roomFixed r.state then []
        else ((sortBy chainBefore candidates).take d.lines).map (doorLine v room) }

/-- A corridor or lobby line: the note of the session's own room, and that room's name (R86, R87). -/
def boardLine (v : Selection) (x : Nat × Session) : LineRec :=
  lineRec v.now v.origin x.1 x.2 (ownNote x.2) (nameOf v.rooms x.2.room)

/-- A room is shown on boards: defined, neither CLOSED nor HELD (R86, R87). -/
def inUse (rooms : Tab Room) (i : Nat) : Bool := (Tab.get rooms i).any fun r => !roomFixed r.state

/-- A CORRIDOR face (R86). -/
def corridorFace (v : Selection) (d : SignDef) (rooms : List Nat) : Face :=
  let taken := (distinct rooms).filterMap fun i =>
    if inUse v.rooms i then (chainOf v.sessions i).find? (fun x => inWindow v.now d.lookahead x.2) else none
  { style := v.styles.opened, header := noText, lines := (taken.take d.lines).map (boardLine v) }

/-- Lobby order: by start, then room, then id (R87). -/
def lobbyBefore (x y : Nat × Session) : Bool :=
  x.2.start < y.2.start
    || (x.2.start = y.2.start && (x.2.room < y.2.room || (x.2.room = y.2.room && x.1 < y.1)))

/-- A LOBBY face (R87). -/
def lobbyFace (v : Selection) (d : SignDef) (mask : Word) : Face :=
  let candidates := v.sessions.filter fun x =>
    inWindow v.now d.lookahead x.2 && inUse v.rooms x.2.room
      && (zoneOf v.rooms x.2.room).any (holdsZone mask)
  { style := v.styles.opened, header := noText
    lines := ((sortBy lobbyBefore candidates).take d.lines).map (boardLine v) }

/-- The face a selection gives a sign (R85 to R88). -/
def composeFace (v : Selection) (d : SignDef) : Face :=
  match d.targets with
  | .door room => doorFace v d room
  | .corridor rooms => corridorFace v d rooms
  | .lobby mask => lobbyFace v d mask

/-! ## Text lines -/

/-- The pool lines a handle covers (R67). -/
def linesOf (h : Handle) : List Nat := List.range' h.line (coveredLines h.len)

/-- The text-line set of a face in reading order: the header's lines, then each line's title before its extra text
(R67, R69). -/
def textLinesOf (f : Face) : List Nat :=
  distinct (linesOf f.header ++ f.lines.flatMap fun l => linesOf l.title ++ linesOf l.extra)

/-! ## Body and digests -/

/-- The bytes of a handle's text, from the lines taken (R67). -/
def textOf (taken : Tab (List Byte)) (h : Handle) : List Byte :=
  ((linesOf h).flatMap fun i => (Tab.get taken i).getD []).take h.len

/-- The bytes of one line of a body, with the time fields given (R89, section 12.6). -/
def lineBytes (taken : Tab (List Byte)) (l : LineRec) (time a b k : Nat) : List Byte :=
  [loByte (wordOf l.id), hiByte (wordOf l.id), byteOf l.room, byteOf (noteCode l.note), byteOf time, byteOf a, byteOf b
  , byteOf k, byteOf l.title.len] ++ textOf taken l.title ++ [byteOf l.extra.len] ++ textOf taken l.extra

/-- The head of a body: style, header and line count (R89). -/
def headBytes (taken : Tab (List Byte)) (f : Face) : List Byte :=
  [byteOf (styleCode f.style), byteOf f.header.len] ++ textOf taken f.header ++ [byteOf f.lines.length]

/-- The face body (R89). -/
def faceBody (taken : Tab (List Byte)) (f : Face) : List Byte :=
  headBytes taken f ++ f.lines.flatMap fun l => lineBytes taken l (timeCode l.time) l.a l.b l.k

/-- The time kind byte the structure digest reads (R91, section 12.6). -/
def structTime : TimeKind → Nat
  | .now => 0
  | _ => 2

/-- The body the structure digest is taken over (R91). -/
def structBody (taken : Tab (List Byte)) (f : Face) : List Byte :=
  headBytes taken f ++ f.lines.flatMap fun l => lineBytes taken l (structTime l.time) 0 0 0

/-! ## Records and classes -/

/-- The pairs (session, note) of a face whose note is not NONE, in face line order (R92). -/
def notedOf (f : Face) : List (Nat × Note) := (f.lines.filter fun l => l.note ≠ .none).map fun l => (l.id, l.note)

/-- The candidate record of a composed face (R93). -/
def recordOf (taken : Tab (List Byte)) (f : Face) (resync : Bool) : FaceRecord :=
  { fullDigest := crc (faceBody taken f), structDigest := crc (structBody taken f), style := f.style, noted := notedOf f
    textLines := textLinesOf f, resync := resync }

/-- A blank shown record (R92). The OPEN style it holds is the style table's (R64). -/
def blankRecord (styles : Styles) : FaceRecord :=
  { fullDigest := 0, structDigest := 0, style := styles.opened, noted := [], textLines := [], resync := true }

/-- Two lists of noted pairs compared as sets (R94). -/
def sameNoted (a b : List (Nat × Note)) : Bool := a.all b.contains && b.all a.contains

/-- The class of a candidate record against the shown record (R94). -/
def classify (shown new : FaceRecord) : FaceClass :=
  if !shown.resync && shown.fullDigest = new.fullDigest then .equal
  else if shown.resync || shown.style ≠ new.style || !sameNoted shown.noted new.noted then .urgent
  else if shown.structDigest ≠ new.structDigest then .content
  else .tick

end Sys2Proof.Machine
end

