-- ==== Sys2Proof/Machine/Plate.lean ====
section
/-! DEFINITION. The plate bus: the levels of a line (R120, R121, R130), the frames the 412 sends (R122 to R126), the
judgement of a reply (R127, R128), and the line port's own moves (R135, R136). -/

namespace Sys2Proof.Machine

/-! ## Levels (R120, R121) -/

/-- The level that sends a bit: space for a 0, mark for a 1 (R120). -/
def bitLevel (b : Bool) : Level := if b then .mark else .space

/-- A character, bit time by bit time: a start bit at space, eight data bits with the least significant first, a stop bit at
mark; no parity bit (R120). -/
def charLevels (b : Byte) : List Level := [.space] ++ (List.range 8).map (fun i => bitLevel (b.getLsbD i)) ++ [.mark]

/-- A BREAK: space for 25 bit times, then mark for 10 (R121). -/
def breakLevels : List Level := List.replicate 25 .space ++ List.replicate 10 .mark

/-- What a port drives to send a frame: a BREAK, then the frame's characters. With no byte it is the lone BREAK (R121). -/
def frameLevels (bytes : List Byte) : List Level := breakLevels ++ bytes.flatMap charLevels

/-- What is driven of a BREAK and frame whose line is stopped at a bit time: a character in progress is finished, and the line
then released. How a BREAK in progress is cut the manual does not say: it is cut where it stands (R136; log entry 36). -/
def cutLevels (frame : List Byte) (bitTime : Nat) : List Level :=
  (frameLevels frame).take (if bitTime ≤ 35 then bitTime else 35 + 10 * ((bitTime - 35 + 9) / 10))

/-- A port whose line is stopped with the port at a bit time of its BREAK and frame (R136). -/
def Port.cutOff (p : Port) (bitTime : Nat) : Port :=
  { p with
    state := .off
    frame := []
    cut := match p.state with
      | .sending => cutLevels p.frame bitTime
      | .off => p.cut
      | _ => [] }

/-- The bit time a port has come to when its line is stopped: a free value within the levels of its BREAK and frame (R136; log
entry 36). -/
def Port.cutTime (p : Port) (i : Nat) : Nat := Config.cutPoint i % ((frameLevels p.frame).length + 1)

/-- What the port drives onto its line, bit time by bit time from the start of its BREAK, after which it has released the line.
It drives while it is SENDING, until the frame's last stop bit ends, and, its line stopped meanwhile, to the end of the
character in progress (R120, R135, R136). -/
def Port.drives (p : Port) : Option (List Level) :=
  match p.state with
  | .sending => some (frameLevels p.frame)
  | .off => if p.cut.isEmpty then none else some p.cut
  | _ => none

/-- The bit rates by their codes, in bit/s (R120, section 12.3). -/
def bitRate : Nat → Nat
  | 0 => 19200
  | 1 => 38400
  | _ => 115200

/-- The byte ten bit times carry, and whether their stop bit is at space, which is a framing error (R120). -/
def readChar (ls : List Level) : Byte × Bool :=
  (byteOf ((List.range 8).foldl (fun n i => n + place (bitOf (ls.getD (i + 1) .mark = .mark)) i) 0), ls.getD 9 .mark = .space)

/-! ## Slots (R130) -/

/-- The bit times from the end of a SWEEP's last stop bit to the start of slot `i`: one character of silence, then slots of
two characters (R130). -/
def slotStart (i : Nat) : Nat := 10 + 20 * i

/-- The port samples the line 8 bit times into each slot (R130). -/
def slotSample (i : Nat) : Nat := slotStart i + 8

/-- The slot map the port makes of the line's level at each bit time after the SWEEP: slot `i` is answered if the line is at
space when it is sampled (R130). -/
def slotMap (line : Nat → Level) : BitVec 128 :=
  (List.range 128).foldl (fun m i => if line (slotSample i) = .space then m ||| (1#128 <<< i) else m) 0

/-! ## Frames -/

/-- Frame kind codes (section 12.7). -/
def sweepKind : Byte := 0x51#8
def queryKind : Byte := 0x52#8
def faceKind : Byte := 0x53#8
def clearKind : Byte := 0x54#8

/-- Reply codes (section 12.7). -/
def replySync : Byte := 0x9B#8
def statusKind : Byte := 0x61#8
def acceptKind : Byte := 0x62#8
def busyKind : Byte := 0x63#8

/-- A CRC as its two bytes, high byte first (R122, R127). -/
def crcBytes (w : Word) : List Byte := [hiByte w, loByte w]

/-- A frame with its CRC (R122). -/
def frameOf (kind address sequence flags : Byte) (body : List Byte) : List Byte :=
  let front :=
    [ kind, address, ~~~address, sequence, ~~~sequence, flags, loByte (wordOf body.length), hiByte (wordOf body.length) ]
      ++ body
  front ++ crcBytes (crc front)

/-- The flags field of a CLEAR (section 12.7). -/
def clearFlags (m : ClearMask) : Byte := byteOf (bitOf m.btn + place (bitOf m.jam) 3)

/-- The frame of an exchange (R124, R125, R126). -/
def exchangeFrame : Exchange → List Byte
  | .sweep _ mask polarity all =>
    frameOf sweepKind 0x7F#8 0 (byteOf (bitOf all)) [byteOf (signFlagsCode mask), byteOf (signFlagsCode polarity)]
  | .query _ address => frameOf queryKind (byteOf address) 0 0 []
  | .clear _ address mask => frameOf clearKind (byteOf address) 0 (clearFlags mask) []
  | .face _ address sequence _ record body => frameOf faceKind (byteOf address) sequence (byteOf (bitOf record.resync)) body

/-! ## Replies -/

/-- The bytes of a reply that its CRC covers (R127). -/
def replyFront (r : Reply) : List Byte := [r.kind, r.address, r.sequence, r.flags]

/-- The outcomes a port hands its engine for an exchange addressed to a sign, ABANDONED aside (R137). -/
inductive ReplyOutcome where
  | status (flags : SignFlags) (last : Byte)
  | accept (flags : SignFlags)
  | busy (flags : SignFlags)
  | bad
  deriving DecidableEq, Repr

/-- The flags a reply's flags byte carries: bits 3-0 (R196). -/
def replyFlags (r : Reply) : SignFlags := signFlagsOf (r.flags.toNat % 16)

/-- The checks made of any reply: no framing error, the sync value, the CRC, the frame's address (R128). -/
def replyIntact (address : Nat) (r : Reply) : Bool :=
  !r.framing && r.sync = replySync && crc (replyFront r) = joinBytes r.crcHigh r.crcLow && r.address = byteOf address

/-- A reply judged against the exchange it answers (R128, R137). -/
def judgeReply (x : Exchange) (r : Reply) : ReplyOutcome :=
  match x with
  | .sweep _ _ _ _ => .bad
  | .query _ address =>
    if replyIntact address r && r.kind = statusKind then .status (replyFlags r) r.sequence else .bad
  | .clear _ address _ =>
    if replyIntact address r && r.kind = statusKind then .status (replyFlags r) r.sequence else .bad
  | .face _ address sequence _ _ _ =>
    if replyIntact address r && r.sequence = sequence then
      if r.kind = acceptKind then .accept (replyFlags r)
      else if r.kind = busyKind then .busy (replyFlags r)
      else .bad
    else .bad

/-! ## The line port -/

/-- In READY the engine hands its exchange to the port as soon as the port is IDLE: the BREAK begins at the line's bit
rate as set up then (R120, R144). -/
def State.handToPort (s : State) (n : Fin 4) : State :=
  match (s.engine n).state with
  | .ready x =>
    if (s.port n).state = .idle then
      (s.updateEngine n fun e => { e with state := .running x false }).setPort n
        { s.port n with state := .sending, rate := (s.setup.lines.get n).rate, frame := exchangeFrame x }
    else s
  | _ => s

/-- The port enters its quiet time (R129). -/
def State.portQuiet (s : State) (n : Fin 4) (q : QuietKind) : State :=
  s.setPort n { s.port n with state := .quiet, quiet := q }

end Sys2Proof.Machine
end

