-- ==== Sys2Proof/Machine/Credit.lean ====
section
/-! DEFINITION. Refresh credit and the face queues: lists and enqueue (R114, R117, R118), the DEFERRED mark (R110, R111),
the budget test (R109) and the judgement of a send (R116, R154). -/

namespace Sys2Proof.Machine

/-! ## Lists -/

def FaceLists.get (l : FaceLists) : Rank → List Nat
  | .urgent => l.urgent | .content => l.content | .tick => l.tick

def FaceLists.set (l : FaceLists) (r : Rank) (v : List Nat) : FaceLists :=
  match r with
  | .urgent => { l with urgent := v }
  | .content => { l with content := v }
  | .tick => { l with tick := v }

/-- The three lists without a sign (R118). -/
def FaceLists.without (l : FaceLists) (slot : Nat) : FaceLists :=
  { urgent := l.urgent.filter (· ≠ slot), content := l.content.filter (· ≠ slot), tick := l.tick.filter (· ≠ slot) }

/-- The list a sign stands on. -/
def FaceLists.rankOf (l : FaceLists) (slot : Nat) : Option Rank :=
  if l.urgent.contains slot then some .urgent
  else if l.content.contains slot then some .content
  else if l.tick.contains slot then some .tick
  else none

/-- URGENT is the highest rank, TICK the lowest (R114). -/
def rankLevel : Rank → Nat
  | .urgent => 2 | .content => 1 | .tick => 0

/-- The lists of a line with a sign enqueued for a class: it joins the tail from no list or from a lower one, and else
stays where it is (R114). -/
def FaceLists.join (l : FaceLists) (slot : Nat) (r : Rank) : FaceLists :=
  match l.rankOf slot with
  | some old =>
    if rankLevel old < rankLevel r then (l.without slot).set r ((l.without slot).get r ++ [slot]) else l
  | none => l.set r (l.get r ++ [slot])

def State.setLists (s : State) (n : Fin 4) (l : FaceLists) : State := { s with lists := s.lists.set n l }

/-- A sign leaves the list it stands on (R118). -/
def State.leaveLists (s : State) (n : Fin 4) (slot : Nat) : State := s.setLists n ((s.lists.get n).without slot)

/-- A sign is returned to the head of a list of its line (R117). -/
def State.returnToHead (s : State) (n : Fin 4) (slot : Nat) (r : Rank) : State :=
  let l := (s.lists.get n).without slot
  s.setLists n (l.set r (slot :: l.get r))

/-! ## Enqueue and defer -/

/-- The state an enqueue gives a sign (R114). -/
def enqueuedState : SignState → SignState
  | .synced => .pending
  | .deferred => .pending
  | .unseen => .pending
  | st => st

/-- Enqueue a sign on a list of its own line, its mark removed first (R111, R114). -/
def State.enqueueFace (s : State) (slot : Nat) (g : Sign) (r : Rank) : State :=
  let t := s.setSign slot { g with deferred := false, state := enqueuedState g.state }
  t.setLists g.defn.line ((t.lists.get g.defn.line).join slot r)

/-- Defer a sign: it leaves its list and carries the mark; its state is DEFERRED unless it is REFRESHING (R110). -/
def State.deferSign (s : State) (slot : Nat) (g : Sign) : State :=
  (s.setSign slot { g with deferred := true, state := if g.state = .refreshing then .refreshing else .deferred }).leaveLists
    g.defn.line slot

/-- A mark removed with nothing to send: a DEFERRED sign is SYNCED, a REFRESHING one stays so (R99, R111). -/
def unmarked (g : Sign) : Sign :=
  { g with deferred := false, state := if g.state = .deferred then .synced else g.state }

/-! ## The budget test at a dirty composition -/

/-- QUIET clear and a credit for a CONTENT change (R109, R116). -/
def State.affordsContent (s : State) (g : Sign) : Bool := !s.setup.quiet && decide (1 ≤ g.credits)

/-- QUIET clear and a credit to spare for a TICK (R109, R116). -/
def State.affordsTick (s : State) (g : Sign) : Bool := !s.setup.quiet && decide (2 ≤ g.credits)

/-- A class handed on by a dirty composition (R99, R109, R111); the class of a LOST sign is dropped (R151). A sign that became
LOST while it was composed, and has come back before the composition ends, is judged like any other: that the class is dropped
only while the sign is LOST is the model's choice (R114, R151; DEDUCED, log entry 39). -/
def State.judgeDirty (s : State) (slot : Nat) (g : Sign) (c : FaceClass) : State :=
  if g.state = .lost then s
  else
    match c with
    | .equal => if g.deferred then s.setSign slot (unmarked g) else s
    | .urgent => s.enqueueFace slot g .urgent
    | .content => if s.affordsContent g then s.enqueueFace slot g .content else s.deferSign slot g
    | .tick =>
      if s.affordsTick g then s.enqueueFace slot g .tick
      else if g.deferred then s.setSign slot (unmarked g)
      else s

/-! ## The judgement at send time -/

/-- The sequence of a send: kept if the sign has an unconfirmed send of the same full digest, else advanced (R154). -/
def sendSequence (g : Sign) (record : FaceRecord) : Byte :=
  match g.unconfirmed with
  | some (_, u) => if u.fullDigest = record.fullDigest then g.sequence else g.sequence + 1
  | none => g.sequence + 1

/-- The send goes ahead: the sign leaves its list and is SENDING, and the engine is READY with the FACE (R116, R154). -/
def State.sendFace (s : State) (n : Fin 4) (slot : Nat) (g : Sign) (r : Rank) (record : FaceRecord) (body : List Byte) :
    State :=
  let q := sendSequence g record
  let t := (s.setSign slot { g with deferred := false, state := .sending, sequence := q }).leaveLists g.defn.line slot
  (t.updateEngine n fun e => { e with state := .ready (.face slot g.defn.address q r record body) }).handToPort n

/-- Nothing is sent: the sign leaves its list and is SYNCED, and the engine is IDLE (R116). -/
def State.letGo (s : State) (n : Fin 4) (slot : Nat) (g : Sign) : State :=
  ((s.setSign slot { g with deferred := false, state := .synced }).leaveLists g.defn.line slot).updateEngine n
    fun e => { e with state := .idle }

/-- A fresh class judged for the taken entry (R116). -/
def State.judgeSend (s : State) (n : Fin 4) (slot : Nat) (g : Sign) (c : FaceClass) (record : FaceRecord)
    (body : List Byte) : State :=
  if (s.engine n).state ≠ .requesting slot then s
  else
    match c with
    | .equal => s.letGo n slot g
    | .urgent => s.sendFace n slot g .urgent record body
    | .content =>
      if s.affordsContent g then s.sendFace n slot g .content record body
      else (s.deferSign slot g).updateEngine n fun e => { e with state := .idle }
    | .tick => if s.affordsTick g then s.sendFace n slot g .tick record body else s.letGo n slot g

/-! ## Credits -/

/-- Credits of one kind's signs lowered to a cap (R105). -/
def capCredits (k : SignKind) (cap : Nat) (t : Tab Sign) : Tab Sign :=
  t.map fun e => (e.1, if e.2.defn.kind = k && cap < e.2.credits then { e.2 with credits := cap } else e.2)

/-- A kind refills at `now` when its period divides it (R106). -/
def refills (u : SetupLogic) (now : Nat) (d : SignDef) : Bool := now % (u.paramsOf d).period = 0

/-- One credit to each sign of a refilling kind below its cap (R106). -/
def refillSign (u : SetupLogic) (now : Nat) (g : Sign) : Sign :=
  if refills u now g.defn && g.credits < (u.paramsOf g.defn).cap then { g with credits := g.credits + 1 } else g

/-- A refill wakes a sign: it carries the mark and goes from 0 credits to 1 (R106, R112). -/
def refillWakes (u : SetupLogic) (now : Nat) (g : Sign) : Bool :=
  g.deferred && g.credits = 0 && (refillSign u now g).credits = 1

end Sys2Proof.Machine
end

