-- ==== Sys2Proof/Machine/TextCache.lean ====
section
/-! DEFINITION. The text cache and the course of a composition: line lists (R69), taking lines (R70), issuing fills
(R71), yielding (R73), arrival (R72), snoop and spoiling (R75, R76), and the end of a composition (R93, R94, R99,
R101). -/

namespace Sys2Proof.Machine

/-! ## The list of cached lines -/

/-- The cached entry of a line. -/
def TextCache.entry (c : TextCache) (l : Nat) : Option CacheLine := c.lines.find? fun e => e.line = l

/-- A line is present (R68). -/
def TextCache.present (c : TextCache) (l : Nat) : Bool := (c.entry l).isSome

/-- The list without a line. -/
def TextCache.without (c : TextCache) (l : Nat) : TextCache := { c with lines := c.lines.filter fun e => e.line ≠ l }

/-- A present line moves to the most recent end; the order of the others is kept (R68). -/
def TextCache.moveFront (c : TextCache) (l : Nat) : TextCache :=
  match c.entry l with
  | some e => { c.without l with lines := e :: (c.without l).lines }
  | none => c

/-- A line joins the list at the most recent end, the least recently used leaving a full list (R72). -/
def TextCache.join (c : TextCache) (l : Nat) (data : List Byte) : TextCache :=
  { c with lines := { line := l, data := data } :: (c.lines.filter fun e => e.line ≠ l).take (Config.cacheSize - 1) }

/-- A line list is taken: its present lines are moved to the most recent end, from its last line to its first (R69). -/
def TextCache.touchList (c : TextCache) (ls : List Nat) : TextCache := ls.foldr (fun l t => t.moveFront l) c

/-! ## Pending fills -/

/-- The pending fill of a line. -/
def TextCache.fill (c : TextCache) (l : Nat) : Option Fill := c.fills.find? fun f => f.line = l

/-- The pending fill set without a line's fill. -/
def TextCache.dropFill (c : TextCache) (l : Nat) : TextCache := { c with fills := c.fills.filter fun f => f.line ≠ l }

/-- The bytes a fill holds for the composition (R73). -/
def fillBytes (ws : List Word) : List Byte := ws.flatMap fun w => [loByte w, hiByte w]

/-- The bytes of a line held by a HOLDING fill. -/
def TextCache.held (c : TextCache) (l : Nat) : Option (List Byte) :=
  match c.fill l with
  | some f => if f.state = .holding then some (fillBytes f.data) else none
  | none => none

/-- The composition takes a line if its bytes are available: a present line moves to the most recent end, a HOLDING
fill leaves the set (R70, R73). -/
def TextCache.take (c : TextCache) (l : Nat) : Option (List Byte × TextCache) :=
  match c.entry l with
  | some e => some (e.data, c.moveFront l)
  | none =>
    match c.held l with
    | some d => some (d, c.dropFill l)
    | none => none

/-- The composition takes the lines of its list in order until one is not available (R70). -/
def takeLines : List Nat → TextCache → Tab (List Byte) → List Nat × TextCache × Tab (List Byte)
  | [], c, got => ([], c, got)
  | l :: t, c, got =>
    match c.take l with
    | some (d, c') => takeLines t c' (Tab.set got l d)
    | none => (l :: t, c, got)

/-- The HOLDING fill of the line latest in a list, if one holds a line of it (R73). -/
def latestHolding (c : TextCache) : List Nat → Option Nat
  | [] => none
  | l :: t =>
    match latestHolding c t with
    | some m => some m
    | none => if (c.held l).isSome then some l else none

/-- A new fill, WAITING and unspoiled (R71). -/
def newFill (l : Nat) : Fill := { line := l, state := .waiting, spoiled := false, data := [] }

/-- When the set is full and the first absent wanted line in list order has no pending fill, the HOLDING fill of the line
latest in list order, if one holds a later line, yields its place (R73). -/
def yieldPlace (ls : List Nat) (c : TextCache) : TextCache :=
  match ls.dropWhile c.present with
  | [] => c
  | l :: t =>
    if (c.fill l).isSome || c.fills.length < Config.fillSetSize then c
    else
      match latestHolding c t with
      | some m => c.dropFill m
      | none => c

/-- Fills are issued for absent wanted lines with no pending fill, in list order, while the set has a place (R71). The second
part is the fill queue. -/
def issueFills : List Nat → TextCache → List Nat → TextCache × List Nat
  | [], c, q => (c, q)
  | l :: t, c, q =>
    if c.present l || (c.fill l).isSome then issueFills t c q
    else if c.fills.length < Config.fillSetSize then
      issueFills t { c with fills := c.fills ++ [newFill l] } (q ++ [l])
    else (c, q)

/-! ## The course of a composition -/

/-- A composition ends: its face is built and classified against the shown record as it stands, and its class is judged
(R93, R94, R99, R101). A result with no requester is discarded (R146, R158). -/
def State.endComposition (s : State) (c : Composition) : State :=
  let t := s.setComposition none
  if c.orphan then t
  else
    match t.sign c.slot with
    | none => t
    | some g =>
      let record := recordOf c.taken c.face g.shown.resync
      match c.engine with
      | none => t.judgeDirty c.slot g (classify g.shown record)
      | some n => t.judgeSend n c.slot g (classify g.shown record) record (faceBody c.taken c.face)

/-- The records of a composition that has ended: the credit logic hands a sign it has enqueued, deferred, taken off its list or
let go, and then the requesting engine one whose face sequence it has advanced, each hand-off a record of its own (R114, R116,
R154, R185). That the credit logic hands first is the model's choice (R169; DEDUCED, log entry 15). -/
def State.syncClosed (s old : State) (engine : Option (Fin 4)) : State :=
  let t := s.handHealth old .credit [] fun i => listedBody (s.sign i) ≠ listedBody (old.sign i)
  match engine with
  | some n => t.handHealth old (.engine n) [] fun i => (s.sign i).map (·.sequence) ≠ (old.sign i).map (·.sequence)
  | none => t

/-- A composition ends, and the health records of a sign it has changed are handed (R99, R101, R185). -/
def State.closeComposition (s : State) (c : Composition) : State := (s.endComposition c).syncClosed s c.engine

/-- The composition in progress goes on as far as its lines allow: it takes lines, a fill may yield its place, fills are
issued for those it still wants, and after its last line it ends (R70, R71, R73). While a record of the credit logic waits,
the credit logic waits with it and takes no class, so the composition does not end (R99, R169, R185; log entry 29). -/
def State.advance (s : State) : State :=
  match s.comp.composition with
  | none => s
  | some c =>
    let r := takeLines c.wanted s.cache c.taken
    let f := issueFills r.1 (yieldPlace r.1 r.2.1) s.path.fillQueue
    let c' := { c with wanted := r.1, taken := r.2.2 }
    let t := { s with cache := f.1, path := { s.path with fillQueue := f.2 } }.setComposition (some c')
    if r.1.isEmpty && !s.producerBusy .credit then t.closeComposition c' else t

/-- A composition that has taken its last line ends when the credit logic no longer waits (R99, R185; log entry 29). -/
def State.resumeComposition (s : State) : State :=
  match s.comp.composition with
  | some c => if c.wanted.isEmpty && !s.producerBusy .credit then s.closeComposition c else s
  | none => s

/-- A composition of a sign begins with its selection: the sign leaves the dirty set, the line list is handed over, and
the composition goes on (R69, R88, R95). -/
def State.beginComposition (s : State) (slot : Nat) (g : Sign) (engine : Option (Fin 4)) : State :=
  let face := composeFace s.selection g.defn
  let ls := textLinesOf face
  let t := (s.clean slot).setComposition
    (some { slot := slot, engine := engine, orphan := false, face := face, wanted := ls, taken := [] })
  { t with cache := t.cache.touchList ls }.advance

/-! ## Fill reads, arrival, snoop -/

/-- The fill at the head of the fill queue with one more word read (R72). -/
def TextCache.readWord (c : TextCache) (l : Nat) (w : Word) : TextCache :=
  { c with fills := c.fills.map fun f => if f.line = l then { f with state := .reading, data := f.data ++ [w] } else f }

/-- A fill is issued again: WAITING, unspoiled, with no data (R76). -/
def TextCache.reissue (c : TextCache) (l : Nat) : TextCache :=
  { c with fills := c.fills.map fun f => if f.line = l then newFill l else f }

/-- A fill becomes HOLDING with its data (R73). -/
def TextCache.hold (c : TextCache) (l : Nat) : TextCache :=
  { c with fills := c.fills.map fun f => if f.line = l then { f with state := .holding } else f }

/-- A fill whose sixteen words have been read arrives (R72): re-issued if spoiled, HOLDING under CACHE_OFF, else its line
joins the list. -/
def State.arrive (s : State) (f : Fill) : State :=
  let q := s.path.fillQueue.filter (· ≠ f.line)
  if f.spoiled then
    { s with cache := s.cache.reissue f.line, path := { s.path with fillQueue := q ++ [f.line] } }
  else if s.setup.cacheOff then
    { s with cache := s.cache.hold f.line, path := { s.path with fillQueue := q } }
  else
    { s with
      cache := (s.cache.join f.line (fillBytes f.data)).dropFill f.line
      path := { s.path with fillQueue := q } }

/-- A host write spoils the pending fill of its line; a HOLDING fill is issued again at once (R76). -/
def State.spoil (s : State) (l : Nat) : State :=
  match s.cache.fill l with
  | none => s
  | some f =>
    if f.state = .holding then
      { s with cache := s.cache.reissue l, path := { s.path with fillQueue := s.path.fillQueue ++ [l] } }
    else
      { s with cache := { s.cache with
          fills := s.cache.fills.map fun g => if g.line = l then { g with spoiled := true } else g } }

/-- The slot and candidate record of the FACE an engine has chosen or has in flight; a FACE whose outcome is to be ignored
is no sign's any more (R158). -/
def Engine.faceRecord (e : Engine) : Option (Nat × FaceRecord) :=
  match e.state with
  | .ready (.face slot _ _ _ r _) => some (slot, r)
  | .running (.face slot _ _ _ r _) false => some (slot, r)
  | _ => none

/-- A sign is SENDING a face whose text-line set holds a line (R77). -/
def State.inFlight (s : State) (slot : Nat) (l : Nat) : Bool :=
  allFour.any fun n =>
    match (s.engine n).faceRecord with
    | some (i, r) => i = slot && r.textLines.contains l
    | none => false

/-- The composition in progress is of the sign and has taken the line (R77). -/
def State.composedFrom (s : State) (slot : Nat) (l : Nat) : Bool :=
  match s.comp.composition with
  | some c => c.slot = slot && Tab.has c.taken l
  | none => false

/-- The signs a written line marks dirty (R77). -/
def State.markText (s : State) (l : Nat) : State :=
  s.markWhere fun e =>
    e.2.shown.textLines.contains l || s.composedFrom e.1 l
      || (e.2.state = .sending && s.inFlight e.1 l)

/-- The answer to a host write in the pool: the line's entry leaves the list, its pending fill is spoiled, signs are
marked dirty, and the composition in progress goes on, with a fill issued if it wants the line (R75 to R77). -/
def State.snoopLine (s : State) (l : Nat) : State :=
  (({ s with cache := s.cache.without l }.spoil l).markText l).advance

end Sys2Proof.Machine
end

