-- ==== Sys2Proof/Machine/Engines.lean ====
section
/-! DEFINITION. The segment engines: owed work (R149), the choice of work (R145, R147), outcomes (R148, R150 to R157),
lines started and stopped (R136, R146), and the call ring (R159, R160). -/

namespace Sys2Proof.Machine

/-! ## Owed work (R149) -/

/-- An owed entry with an empty mask owes a QUERY. -/
def ClearMask.query : ClearMask := { btn := false, jam := false }

/-- Owing work to an address adds an entry, or adds the flags of a CLEAR to the entry it has. -/
def owe (t : Tab ClearMask) (address : Nat) (m : ClearMask) : Tab ClearMask :=
  match Tab.get t address with
  | some old => Tab.set t address { btn := old.btn || m.btn, jam := old.jam || m.jam }
  | none => Tab.set t address m

def State.owe (s : State) (n : Fin 4) (address : Nat) (m : ClearMask) : State :=
  s.updateEngine n fun e => { e with owed := Sys2Proof.Machine.owe e.owed address m }

def State.unowe (s : State) (n : Fin 4) (address : Nat) : State :=
  s.updateEngine n fun e => { e with owed := Tab.del e.owed address }

/-- A CLEAR whose mask holds BTN is owed to the address (R150). -/
def Engine.clearsBtn (e : Engine) (address : Nat) : Bool := (Tab.get e.owed address).any fun m => m.btn

/-! ## What a reply tells the engine (R150 to R153) -/

/-- The flags of R150 that are newly set raise their events: POWERUP, LOWBAT, FAULT. -/
def replyRaises (seen f : SignFlags) (mask : ClearMask) : BitVec 13 :=
  Event.when .powerup (f.pwr && !seen.pwr) ||| Event.when .lowbat (f.lowb && !seen.lowb)
    ||| Event.when .fault (f.jam && (!seen.jam || mask.jam))

/-- The flags of a good reply acted on, in the order of R150; `mask` is that of the CLEAR answered, if it was one. The
raises are handed after the health record. -/
def State.handleFlags (s : State) (n : Fin 4) (slot address : Nat) (mask : ClearMask) (f : SignFlags) :
    State × BitVec 13 :=
  match s.sign slot with
  | none => (s, 0)
  | some g =>
    let press := f.btn && !(s.engine n).clearsBtn address
    let s1 :=
      if press then s.updateEngine n fun e => { e with presses := e.presses ++ [{ slot := slot, address := address }] } else s
    let s2 :=
      s1.setSign slot { g with seen := f, shown := if f.pwr then { g.shown with resync := true } else g.shown }
    let s3 := if f.pwr then s2.markDirty slot else s2
    let s4 := if f.jam && (!g.seen.jam || mask.jam) then s3.owe n address { btn := false, jam := true } else s3
    (s4, replyRaises g.seen f mask)

/-- An unconfirmed send settled by a STATUS (R152). -/
def settled (g : Sign) (last : Byte) : Sign :=
  match g.unconfirmed with
  | some (q, r) => { g with unconfirmed := none, shown := if q = last then { r with resync := false } else g.shown }
  | none => g

/-- A STATUS tells that the unconfirmed send was taken (R152). -/
def confirms (g : Sign) (last : Byte) : Bool := g.unconfirmed.any fun u => u.1 = last

/-- The third bad reply in a row: the sign is LOST (R151). -/
def lostSign (g : Sign) : Sign :=
  { g with state := .lost, failures := 3, deferred := false, timer := none, unconfirmed := none }

def State.loseSign (s : State) (n : Fin 4) (slot address : Nat) (g : Sign) : State :=
  ((s.setSign slot (lostSign g)).leaveLists g.defn.line slot).unowe n address

/-- The engine has acted on an outcome: the health record of the sign is handed (always after a STATUS), the raises
after it, and the engine is IDLE when its records and press have been taken (R144, R153, R185). An outcome that changes
several signs, a slot map (R148), hands their records in ascending slot index: the manual names no order of them (DEDUCED, log
entry 15). -/
def State.endOutcome (s old : State) (n : Fin 4) (always : List Nat) (raises : Tab (BitVec 13)) : State :=
  let t := s.syncHealth old (.engine n) always raises
  (t.updateEngine n fun e => { e with state := .finishing }).settleEngine n

/-- The raises of one sign. -/
def raisesAt (slot : Nat) (f : BitVec 13) : Tab (BitVec 13) := if f = 0 then [] else [(slot, f)]

/-- STATUS (R152, R153). -/
def State.onStatus (s : State) (n : Fin 4) (slot address : Nat) (mask : ClearMask) (f : SignFlags) (last : Byte) : State :=
  match s.sign slot with
  | none => s.endOutcome s n [] []
  | some g =>
    let s1 := s.setSign slot { settled g last with failures := 0 }
    let s2 := if confirms g last then s1.markDirty slot else s1
    let r := s2.handleFlags n slot address mask f
    r.1.endOutcome s n [slot] (raisesAt slot r.2)

/-- BAD to a QUERY or CLEAR: the failure counts, and the entry is owed again with its mask (R151, R153). -/
def State.onBadQuery (s : State) (n : Fin 4) (slot address : Nat) (mask : ClearMask) : State :=
  match s.sign slot with
  | none => s.endOutcome s n [] []
  | some g =>
    if 2 ≤ g.failures then (s.loseSign n slot address g).endOutcome s n [] (raisesAt slot Event.lost.mask)
    else ((s.setSign slot { g with failures := g.failures + 1 }).owe n address mask).endOutcome s n [] []

/-- ACCEPT, in the order of R155. -/
def State.onAccept (s : State) (n : Fin 4) (slot address : Nat) (record : FaceRecord) (f : SignFlags) : State :=
  match s.sign slot with
  | none => s.endOutcome s n [] []
  | some g =>
    let s1 := s.setSign slot
      { g with
        failures := 0
        credits := g.credits - 1
        shown := { record with resync := false }
        unconfirmed := none
        timer := some (s.setup.paramsOf g.defn).refresh
        state := .refreshing }
    let r := s1.handleFlags n slot address .query f
    r.1.endOutcome s n [] (raisesAt slot r.2)

/-- BUSY (R156). -/
def State.onBusy (s : State) (n : Fin 4) (slot address : Nat) (rank : Rank) (f : SignFlags) : State :=
  match s.sign slot with
  | none => s.endOutcome s n [] []
  | some g =>
    let s1 := (s.setSign slot
      { g with failures := 0, timer := some (s.setup.paramsOf g.defn).refresh, state := .refreshing }).returnToHead
        g.defn.line slot rank
    let r := s1.handleFlags n slot address .query f
    r.1.endOutcome s n [] (raisesAt slot r.2)

/-- BAD to a FACE (R157). -/
def State.onBadFace (s : State) (n : Fin 4) (slot address : Nat) (sequence : Byte) (rank : Rank) (record : FaceRecord) :
    State :=
  match s.sign slot with
  | none => s.endOutcome s n [] []
  | some g =>
    if 2 ≤ g.failures then (s.loseSign n slot address g).endOutcome s n [] (raisesAt slot Event.lost.mask)
    else
      (((s.setSign slot
        { g with failures := g.failures + 1, unconfirmed := some (sequence, record), state := .pending }).returnToHead
          g.defn.line slot rank).owe n address .query).endOutcome s n [] []

/-- An outcome whose sign was dropped, moved or made new while the exchange ran is ignored whole (R158). -/
def State.ignoreOutcome (s : State) (n : Fin 4) : State := s.endOutcome s n [] []

/-- The engine acts on the outcome of an exchange addressed to a sign (R137, R153 to R158). -/
def State.onOutcome (s : State) (n : Fin 4) (x : Exchange) (ignored : Bool) (o : ReplyOutcome) : State :=
  if ignored then s.ignoreOutcome n
  else
    match x, o with
    | .query slot address, .status f last => s.onStatus n slot address .query f last
    | .query slot address, _ => s.onBadQuery n slot address .query
    | .clear slot address mask, .status f last => s.onStatus n slot address mask f last
    | .clear slot address mask, _ => s.onBadQuery n slot address mask
    | .face slot address _ _ record _, .accept f => s.onAccept n slot address record f
    | .face slot address _ rank _ _, .busy f => s.onBusy n slot address rank f
    | .face slot address sequence rank record _, _ => s.onBadFace n slot address sequence rank record
    | .sweep _ _ _ _, _ => s

/-- A reply judged: the port enters the quiet time of a good or a bad reply and hands the outcome (R128, R129, R135). -/
def State.takeReply (s : State) (n : Fin 4) (o : Exchange → ReplyOutcome) : State :=
  match (s.engine n).state with
  | .running x ignored =>
    let quiet := if o x = .bad then QuietKind.afterBad else QuietKind.afterGood
    if (s.port n).state = .awaiting then (s.portQuiet n quiet).onOutcome n x ignored (o x) else s
  | _ => s

/-! ## Sweeps (R147, R148) -/

/-- The sign comes back: UNSEEN, with a blank shown record (R148). -/
def backSign (styles : Styles) (g : Sign) : Sign :=
  { g with
    state := .unseen, shown := blankRecord styles, failures := 0, seen := SignFlags.none, unconfirmed := none }

/-- One address of a slot map handled (R148); the second part gathers the signs that came back. -/
def State.handleMark (s : State × Tab (BitVec 13)) (n : Fin 4) (presence : Bool) (marks : BitVec 128) (address : Nat) :
    State × Tab (BitVec 13) :=
  match s.1.signAt n address with
  | none => s
  | some (slot, g) =>
    if g.state = .lost then
      if presence && marks.getLsbD address then
        ((s.1.setSign slot (backSign s.1.setup.styles g)).markDirty slot, Tab.set s.2 slot Event.back.mask)
      else s
    else if presence || marks.getLsbD address then (s.1.owe n address .query, s.2)
    else s

/-- The sweep counts after a map (R148). -/
def sweptEngine (presence : Bool) (e : Engine) : Engine :=
  if presence then { e with presence := false, routine := 0 } else { e with routine := min 15 (e.routine + 1) }

/-- MAP: the slot map is gone through in ascending address (R148). The health records of the signs that come back, each with
its BACK raise behind it, are handed when the map has been gone through, in ascending slot index and not in that of the
addresses: R148 names no order of the hand-offs (DEDUCED, log entry 15). -/
def State.onMap (s : State) (n : Fin 4) (presence : Bool) (marks : BitVec 128) : State :=
  let r := (List.range 128).foldl (fun a i => State.handleMark a n presence marks i) (s, [])
  (r.1.updateEngine n (sweptEngine presence)).endOutcome s n [] r.2

/-- The sweep an engine takes: a presence sweep if one is pending or N says so, else a routine sweep (R147). -/
def State.sweepOf (s : State) (e : Engine) : Exchange :=
  if e.presence || s.setup.presenceInterval ≤ e.routine + 1 then .sweep true .none .none true
  else .sweep false s.setup.sweepMask s.setup.sweepPolarity s.setup.sweepAll

/-! ## The choice of work (R145) -/

/-- The first owed entry whose address holds a defined, non-LOST sign of the line, and the entries left; those before it
are removed without an exchange (R145). -/
def State.nextOwed (s : State) (n : Fin 4) : Tab ClearMask → Tab ClearMask × Option (Nat × Nat × ClearMask)
  | [] => ([], none)
  | (a, m) :: t =>
    match s.signAt n a with
    | some (slot, g) => if g.state = .lost then s.nextOwed n t else (t, some (slot, a, m))
    | none => s.nextOwed n t

/-- The front of a list: the first entry whose sign is PENDING (R115). -/
def State.front (s : State) (n : Fin 4) (r : Rank) : Option Nat :=
  ((s.lists.get n).get r).find? fun i => (s.sign i).any fun g => g.state = .pending

/-- An owed entry taken is a QUERY, or a CLEAR with its mask (R149). -/
def owedExchange (slot address : Nat) (m : ClearMask) : Exchange :=
  if m.btn || m.jam then .clear slot address m else .query slot address

/-- An IDLE engine chooses its next work (R145). -/
def State.chooseWork (s : State) (n : Fin 4) : State :=
  let e := s.engine n
  let o := s.nextOwed n e.owed
  match o.2 with
  | some (slot, a, m) => (s.setEngine n { e with owed := o.1, state := .ready (owedExchange slot a m) }).handToPort n
  | none =>
    match s.front n .urgent with
    | some i => s.setEngine n { e with owed := o.1, state := .requesting i }
    | none =>
      if e.due then (s.setEngine n { e with owed := o.1, due := false, state := .ready (s.sweepOf e) }).handToPort n
      else
        match s.front n .content with
        | some i => s.setEngine n { e with owed := o.1, state := .requesting i }
        | none =>
          match s.front n .tick with
          | some i => s.setEngine n { e with owed := o.1, state := .requesting i }
          | none => s.setEngine n { e with owed := o.1 }

/-! ## Lines started and stopped (R136, R146) -/

/-- A line is started: a lone BREAK, the engine IDLE, a presence sweep due, the sweep timer in a new interval. The BREAK begins at
once, also where the character that a stop has left to be finished has not ended: the manual does not say whether the BREAK
waits for it (R136; DESIGN CHOICE, log entry 36). -/
def State.startLine (s : State) (n : Fin 4) : State :=
  let e := s.engine n
  if e.state = .off then
    (s.setEngine n
      { e with state := .idle, sweepTimer := some s.setup.sweepPeriod, due := true, presence := true, routine := 0 }).setPort n
        { s.port n with state := .sending, rate := (s.setup.lines.get n).rate, frame := [], cut := [] }
  else s

/-- A FACE that is not to be sent now: its sign is PENDING at the head of the class it was to be sent as (R117, R146,
R156). -/
def State.returnFace (s : State) (slot : Nat) (rank : Rank) (u : Option (Byte × FaceRecord)) : State :=
  match s.sign slot with
  | none => s
  | some g => (s.setSign slot { g with state := .pending, unconfirmed := u }).returnToHead g.defn.line slot rank

/-- The composition made for an engine's request loses its requester (R146). -/
def State.orphanComposition (s : State) (n : Fin 4) : State :=
  match s.comp.composition with
  | some c => if c.engine = some n then s.setComposition (some { c with orphan := true }) else s
  | none => s

/-- The work of an engine that is stopped (R146, R153, R156). -/
def State.abandonWork (s : State) (n : Fin 4) : State :=
  match (s.engine n).state with
  | .requesting _ => s.orphanComposition n
  | .ready (.face slot _ _ rank _ _) => s.returnFace slot rank ((s.sign slot).bind (·.unconfirmed))
  | .running (.face slot _ sequence rank record _) false =>
    if (s.port n).state = .awaiting then s.returnFace slot rank (some (sequence, record))
    else s.returnFace slot rank ((s.sign slot).bind (·.unconfirmed))
  | _ => s

/-- A line is stopped: its work is abandoned, the engine and the port are OFF, and a frame being sent is cut off after the
character in progress (R136, R146). -/
def State.stopLine (s : State) (n : Fin 4) : State :=
  let t := (s.abandonWork n).updateEngine n fun e =>
    { e with state := .off, owed := [], sweepTimer := none, due := false }
  (t.setPort n ((t.port n).cutOff ((t.port n).cutTime t.freeIndex))).useFree.syncHealth s (.engine n)

/-! ## The call ring (R159, R160) -/

/-- The room of a ring entry: the target of a DOOR sign (R159). -/
def doorRoom (d : SignDef) : Option Nat :=
  match d.targets with
  | .door r => some r
  | _ => none

/-- The post unit's unconsumed entry of a sign. -/
def PostUnit.entryOf (p : PostUnit) (slot : Nat) : Option RingEntry := p.ring.find? fun e => e.sign = slot

/-- A press, handed by engine `n`, on a sign with an unconsumed entry: its count rises, up to 255, and the count word is
posted (R160). -/
def State.raiseCount (s : State) (n : Fin 4) (e : RingEntry) : State :=
  let count := min 255 (e.count + 1)
  let t := { s with post := { s.post with
    ring := s.post.ring.map fun (x : RingEntry) => if x.sign = e.sign then { x with count := count } else x } }
  t.hand { producer := .ring n, record := .ringCount e.place count, raises := Event.call.mask }

/-- A press, handed by engine `n`, that makes a new entry; the write count is posted after it (R160). The post unit's write count
rises as the press is taken, also where the entry's record has to wait for room: the manual does not say which count a read
count write that comes meanwhile is judged by (R160, R161; DEDUCED, log entry 40). -/
def State.newEntry (s : State) (n : Fin 4) (slot : Nat) : State :=
  let place := s.post.ringWrite.toNat % Config.ringSize
  let room := (s.sign slot).bind fun g => doorRoom g.defn
  let e : RingEntry := { place := place, sign := slot, room := room, minute := s.clock.now, count := 1 }
  let t := { s with post := { s.post with ring := s.post.ring ++ [e], ringWrite := s.post.ringWrite + 1 } }
  (t.hand { producer := .ring n, record := .ringEntry place slot (room.getD 0xFFFF) s.clock.now 1, raises := 0 }).hand
    { producer := .ring n, record := .ringWriteCount (s.post.ringWrite + 1), raises := Event.call.mask }

/-- The post unit takes the oldest press of an engine (R160). A press whose sign an apply has dropped or moved since it was
handed on is taken all the same, for its slot, and the CLEAR is owed to the address that was pressed, on the line it was
pressed on: the manual does not say what becomes of it (DEDUCED, log entry 24). -/
def State.takePress (s : State) (n : Fin 4) (p : Press) : State :=
  let t :=
    match s.post.entryOf p.slot with
    | some e => (s.raiseCount n e).owe n p.address { btn := true, jam := false }
    | none =>
      if Config.ringSize ≤ s.post.ring.length then s
      else (s.newEntry n p.slot).owe n p.address { btn := true, jam := false }
  (t.updateEngine n fun e => { e with presses := e.presses.drop 1 }).settleEngine n

/-! ## Signs changed by an apply (R141, R158) -/

/-- The slot an exchange is addressed to, if any. -/
def exchangeSlot : Exchange → Option Nat
  | .sweep _ _ _ _ => none
  | .query slot _ => some slot
  | .clear slot _ _ => some slot
  | .face slot _ _ _ _ _ => some slot

/-- An engine's work for a sign that is dropped, moved or made new (R158). -/
def withdrawn (slot : Nat) (e : Engine) : Engine :=
  match e.state with
  | .requesting i => if i = slot then { e with state := .idle } else e
  | .ready x => if exchangeSlot x = some slot then { e with state := .idle } else e
  | .running x _ => if exchangeSlot x = some slot then { e with state := .running x true } else e
  | _ => e

/-- What leaves the old line with a sign that is dropped, moved or made new: its list entry, its owed entry and its
engine's work (R118, R141, R158). -/
def State.clearOldLine (s : State) (slot : Nat) (d : SignDef) : State :=
  ((s.leaveLists d.line slot).unowe d.line d.address).updateEngine d.line (withdrawn slot)

/-- A new sign (R141, R107). -/
def newSign (u : SetupLogic) (d : SignDef) : Sign :=
  { defn := d, state := .unseen, sequence := 0, failures := 0, seen := SignFlags.none, unconfirmed := none, timer := none
    credits := (u.paramsOf d).cap, deferred := false, shown := blankRecord u.styles }

/-- A moved sign: the resets of a new one, but for a DEFERRED mark it carries (R107, R141). -/
def movedSign (u : SetupLogic) (old : Sign) (d : SignDef) : Sign :=
  { newSign u d with deferred := old.deferred, state := if old.deferred then .deferred else .unseen }

/-- A redefined sign: its definition and its credits alone change (R107, R141). -/
def redefinedSign (u : SetupLogic) (old : Sign) (d : SignDef) : Sign :=
  { old with defn := d, credits := (u.paramsOf d).cap }

/-- The change of one slot that a sign entry named, by the first case of R141 that holds. -/
def State.changeSlot (s : State) (signs : Tab SignDef) (dropped : List Nat) (slot : Nat) : State :=
  match s.sign slot, Tab.get signs slot with
  | none, none => s
  | none, some d => s.setSign slot (newSign s.setup d)
  | some g, none =>
    let t := (s.clearOldLine slot g.defn).clean slot
    { t with signs := Tab.del t.signs slot }
  | some g, some d =>
    if dropped.contains slot then (s.clearOldLine slot g.defn).setSign slot (newSign s.setup d)
    else if g.defn.line ≠ d.line || g.defn.address ≠ d.address then
      (s.clearOldLine slot g.defn).setSign slot (movedSign s.setup g d)
    else s.setSign slot (redefinedSign s.setup g d)

/-- The changes of every slot the batch named, in ascending slot index (R141). -/
def State.changeSigns (s : State) (w : Work) : State := w.named.foldl (fun t i => t.changeSlot w.signs w.dropped i) s

end Sys2Proof.Machine
end

