-- ==== Sys2Proof/WellFormed.lean ====
section
/-! DEFINITION. Which commands and which entries are well formed: a command that names an area lies in that area, and an
entry's fields fit the fields of its words (section 12.4). The ranges of lanes, lines, slots, pool lines and addresses are
carried by the operand types. -/

namespace Sys2Proof

open Sys2Proof.Machine

/-- A word of the posted span that GUARDED_WRITE may name with the data it drives: any word but the event flags word;
the read count word for a byte write alone; at least one byte enable (R164, R166). -/
def guardedWf (w : Fin 4480) (d : Drive) : Bool :=
  let offset := postedOffset + 2 * w.val
  match d with
  | .neither => false
  | .both _ => offset ≠ flagsOffset && offset ≠ readCountOffset
  | _ => offset ≠ flagsOffset

/-- A host write that no other row names when the region lies at `base` (R165): outside the region, in the unposted span,
at an unnamed setup word, a byte write to a setup word, a word write other than 1 to RESTART, a word write to CONTROL (the
rows of CONTROL's flags name one flag each; one write may change several, R189), a byte write to a post word, or with no
byte enable. -/
def plainWriteWf (base : Fin 16) (a : BitVec 19) (d : Drive) : Bool :=
  let addr := 2 * a.toNat
  if addr / 0x10000 ≠ base.val then true
  else
    match areaOf (addr % 0x10000), d with
    | _, .neither => true
    | .unposted, _ => true
    | .setup o, .both v =>
      match setupWordAt o with
      | none => true
      | some .restart => v ≠ 1
      | some .control => true
      | some _ => false
    | .setup _, _ => true
    | .laneWord _ k, .low _ => k = 127
    | .laneWord _ k, .high _ => k = 127
    | _, _ => false

/-- A well-formed command for a region at `base`. -/
def instrWf (base : Fin 16) : Instr → Bool
  | .guardedWrite w d => guardedWf w d
  | .hostWrite a d => plainWriteWf base a d
  | .snoop _ _ d => d ≠ .neither
  | .ackMerge d => d ≠ .neither
  | .readCountWrite d => d ≠ .neither
  | _ => true

/-- An entry whose fields fit the fields of its words (section 12.4). -/
def entryWf : Entry → Bool
  | .putSession cls id room start fin title presenter =>
    cls < 16 && id < 65536 && room < 256 && start < 65536 && fin < 65536 && title.line < 65536 && title.len < 256
      && presenter.line < 65536 && presenter.len < 256
  | .dropSession id => id < 65536
  | .cancelSession id => id < 65536
  | .moveSession id room => id < 65536 && room < 256
  | .shiftSession _ id delta => id < 65536 && (-32768) ≤ delta && delta < 32768
  | .putRoom policy room name zone changeover =>
    policy < 4 && room < 256 && name.line < 65536 && name.len < 256 && zone < 256 && changeover < 256
  | .roomState action room => action < 16 && room < 256
  | .setClock minute origin => minute < 65536 && origin < 65536
  | .putSign kind slot line lines address lookahead targets =>
    kind < 4 && slot < 65536 && line < 16 && lines < 16 && address < 256 && lookahead < 65536 && targets.length < 16
      && targets.all fun t => t < 65536
  | .dropSign slot => slot < 65536

end Sys2Proof
end

