-- ==== Sys2Proof/Decode.lean ====
section
/-! DEFINITION. Decoding. The table's rows give no bits, so no word spells a command. The batch entries of section 12.4 do
have an encoding: their decoder, total on any words (R36), and their encoder. -/

namespace Sys2Proof

open Sys2Proof.Machine

/-- The command a word spells by the table's bits: none, since no row of spec/opcode_table.json gives bits (log
entry 8). -/
def decodeTableWord (_nbits _w : Nat) : Option Instr := none

/-- The length in words of the entry whose first word is `w`, or none if its kind is not one of the ten (R36). -/
def entryLength (w : Word) : Option Nat :=
  match field w 0 8 with
  | 1 => some 8
  | 2 => some 2
  | 3 => some 2
  | 4 => some 3
  | 5 => some 3
  | 6 => some 5
  | 7 => some 2
  | 8 => some 3
  | 9 => some (4 + field w 8 4)
  | 10 => some 2
  | _ => none

/-- The entry of first word `w` and the words after it, by the layouts of section 12.4. -/
def entryOf (w : Word) (t : List Word) : Entry :=
  let arg := fun i => t.getD i 0
  match field w 0 8 with
  | 1 =>
    .putSession (field w 8 4) (arg 0).toNat (field (arg 1) 0 8) (arg 3).toNat (arg 4).toNat
      { line := (arg 2).toNat, len := field (arg 1) 8 8 } { line := (arg 5).toNat, len := field (arg 6) 0 8 }
  | 2 => .dropSession (arg 0).toNat
  | 3 => .cancelSession (arg 0).toNat
  | 4 => .moveSession (arg 0).toNat (field (arg 1) 0 8)
  | 5 => .shiftSession (field w 8 1 = 1) (arg 0).toNat (signedWord (arg 1))
  | 6 =>
    .putRoom (field w 8 2) (field (arg 0) 0 8) { line := (arg 1).toNat, len := field (arg 2) 0 8 } (field (arg 3) 0 8)
      (field (arg 3) 8 8)
  | 7 => .roomState (field w 8 4) (field (arg 0) 0 8)
  | 8 => .setClock (arg 0).toNat (arg 1).toNat
  | 9 =>
    .putSign (field w 12 2) (arg 0).toNat (field (arg 1) 0 4) (field (arg 1) 4 4) (field (arg 1) 8 8) (arg 2).toNat
      ((t.drop 3).map (·.toNat))
  | _ => .dropSign (arg 0).toNat

/-- The entry at the head of a run of words and the words after it; none where R36 gives FORMAT: an unknown kind, or an
entry that runs past the words. -/
def decodeEntry : List Word → Option (Entry × List Word)
  | [] => none
  | w :: t =>
    match entryLength w with
    | none => none
    | some n => if t.length + 1 < n then none else some (entryOf w (t.take (n - 1)), t.drop (n - 1))

/-- How a decode ends (R36): the entries with their offsets, or FORMAT with the failing offset and the count of whole
entries before it. -/
inductive Decoded where
  | entries (l : List (Nat × Entry))
  | format (failing count : Nat)
  deriving DecidableEq, Repr

/-- Decode a batch from offset `off`; `fuel` bounds the entries, and the number of words is enough (R36). -/
def decodeFrom : Nat → Nat → List (Nat × Entry) → List Word → Decoded
  | _, _, acc, [] => .entries acc.reverse
  | 0, off, acc, _ => .format off acc.length
  | fuel + 1, off, acc, ws =>
    match decodeEntry ws with
    | none => .format off acc.length
    | some (e, rest) => decodeFrom fuel (off + (ws.length - rest.length)) ((off, e) :: acc) rest

/-- Decode the words 0 to end offset of a batch (R36). -/
def decodeBatch (ws : List Word) : Decoded := decodeFrom ws.length 0 [] ws

/-- The words of an entry (section 12.4). -/
def encodeEntry : Entry → List Word
  | .putSession cls id room start fin title presenter =>
    [ wordOf (1 + place cls 8), wordOf id, wordOf (room + place title.len 8), wordOf title.line, wordOf start, wordOf fin
    , wordOf presenter.line, wordOf presenter.len ]
  | .dropSession id => [wordOf 2, wordOf id]
  | .cancelSession id => [wordOf 3, wordOf id]
  | .moveSession id room => [wordOf 4, wordOf id, wordOf room]
  | .shiftSession cascade id delta => [wordOf (5 + place (bitOf cascade) 8), wordOf id, BitVec.ofInt 16 delta]
  | .putRoom policy room name zone changeover =>
    [ wordOf (6 + place policy 8), wordOf room, wordOf name.line, wordOf name.len, wordOf (zone + place changeover 8) ]
  | .roomState action room => [wordOf (7 + place action 8), wordOf room]
  | .setClock minute origin => [wordOf 8, wordOf minute, wordOf origin]
  | .putSign kind slot line lines address lookahead targets =>
    [ wordOf (9 + place targets.length 8 + place kind 12), wordOf slot, wordOf (line + place lines 4 + place address 8)
    , wordOf lookahead ] ++ targets.map wordOf
  | .dropSign slot => [wordOf 10, wordOf slot]

end Sys2Proof
end

