-- ==== Sys2Proof/Machine/Entries.lean ====
section
/-! DEFINITION. The ten entry kinds simulated on a working copy: their tests in the order their rules list them, and
their effects (R14 to R21, R53, R59, R60, R139, R140). A test answers a code and the first id of the lane result. -/

namespace Sys2Proof.Machine

/-- The outcome of one entry: refused with a code and a first id, or the working copy after it. -/
inductive Simulated where
  | refused (code : Code) (first : Nat)
  | passed (w : Work)
  deriving DecidableEq, Repr

/-- The working copy of a check, taken from the state in force (R12, R37). -/
def State.workingCopy (s : State) : Work :=
  { sessions := s.store.sessions
    rooms := s.store.rooms
    now := s.clock.now
    origin := s.clock.origin
    clock := s.clock.state
    signs := s.signs.map fun e => (e.1, e.2.defn)
    touched := []
    named := []
    dropped := []
    setClock := false }

/-- The entry at `off` touches rooms (R11). -/
def Work.touch (w : Work) (off : Nat) (rooms : List Nat) : Work :=
  { w with touched := rooms.foldl (fun t r => Tab.set t r off) w.touched }

/-- A room of the working copy is HELD. -/
def Work.held (w : Work) (room : Nat) : Bool :=
  match Tab.get w.rooms room with
  | some r => r.state = .held
  | none => false

/-- PUT SESSION (R14, R15). One that leaves the record of its id exactly as it was touches its rooms all the same: R15 names no
PUT SESSION that is applied with no change (R11; DEDUCED, log entry 35). -/
def simPutSession (retain off cls id room start fin : Nat) (title presenter : Handle) (w : Work) : Simulated :=
  match classOf cls with
  | none => .refused .range 0
  | some c =>
    if id = 0 || fin ≤ start || !requiredOk title || !optionalOk presenter || fin + retain ≤ w.now then .refused .range 0
    else if !Tab.has w.rooms room then .refused .unknownRoom 0
    else
      let old := Tab.get w.sessions id
      if old.isNone && Config.maxSessions ≤ w.sessions.length then .refused .full 0
      else if (old.any fun o => w.held o.room) || w.held room then .refused .held 0
      else
        let new : Session :=
          { room := room, cls := c, start := start, fin := fin, title := title, presenter := presenter
            movedFrom := none, cancelled := false }
        let rooms := (old.map (·.room)).toList ++ [room] ++ (old.bind (·.movedFrom)).toList
        .passed ({ w with sessions := Tab.set w.sessions id new }.touch off rooms)

/-- DROP SESSION (R16). -/
def simDropSession (off id : Nat) (w : Work) : Simulated :=
  match Tab.get w.sessions id with
  | none => .refused .unknownId 0
  | some e =>
    if w.held e.room then .refused .held 0
    else .passed ({ w with sessions := Tab.del w.sessions id }.touch off ([e.room] ++ e.movedFrom.toList))

/-- CANCEL SESSION (R17). -/
def simCancelSession (off id : Nat) (w : Work) : Simulated :=
  match Tab.get w.sessions id with
  | none => .refused .unknownId 0
  | some e =>
    if w.held e.room then .refused .held 0
    else if e.cancelled then .passed w
    else
      .passed ({ w with sessions := Tab.set w.sessions id { e with cancelled := true } }.touch off
        ([e.room] ++ e.movedFrom.toList))

/-- MOVE SESSION (R18). -/
def simMoveSession (off id room : Nat) (w : Work) : Simulated :=
  match Tab.get w.sessions id with
  | none => .refused .unknownId 0
  | some e =>
    if room = e.room then .refused .range 0
    else if !Tab.has w.rooms room then .refused .unknownRoom 0
    else if w.held e.room || w.held room then .refused .held 0
    else
      let moved := { e with room := room, movedFrom := if e.movedFrom = some room then none else some e.room }
      .passed ({ w with sessions := Tab.set w.sessions id moved }.touch off ([e.room, room] ++ e.movedFrom.toList))

/-- The shifted set: the target alone, or with CASCADE every session of its room's chain that starts no earlier (R19). -/
def shiftedSet (cascade : Bool) (id : Nat) (e : Session) (t : Tab Session) : Tab Session :=
  if cascade then t.filter fun x => x.2.room = e.room && decide (e.start ≤ x.2.start) else [(id, e)]

/-- A minute after a shift. -/
def shifted (t : Nat) (delta : Int) : Nat := ((t : Int) + delta).toNat

/-- SHIFT SESSION (R19, R20). -/
def simShiftSession (off : Nat) (cascade : Bool) (id : Nat) (delta : Int) (w : Work) : Simulated :=
  if delta = 0 || delta < -240 || 240 < delta then .refused .range 0
  else
    match Tab.get w.sessions id with
    | none => .refused .unknownId 0
    | some e =>
      let set := shiftedSet cascade id e w.sessions
      if set.any fun x => decide ((x.2.start : Int) + delta < 0) || decide (65535 < (x.2.fin : Int) + delta) then
        .refused .range 0
      else if w.held e.room then .refused .held 0
      else
        let sessions := set.foldl
          (fun t x => Tab.set t x.1 { x.2 with start := shifted x.2.start delta, fin := shifted x.2.fin delta }) w.sessions
        .passed ({ w with sessions := sessions }.touch off ([e.room] ++ set.flatMap fun (x : Nat × Session) => x.2.movedFrom.toList))

/-- PUT ROOM (R21). -/
def simPutRoom (off policy room : Nat) (name : Handle) (zone changeover : Nat) (w : Work) : Simulated :=
  match policyOf policy with
  | none => .refused .range 0
  | some p =>
    if !requiredOk name || 15 < zone || 60 < changeover then .refused .range 0
    else
      match Tab.get w.rooms room with
      | none =>
        let new : Room :=
          { name := name, zone := zone, policy := p, changeover := changeover, state := .closed, current := 0, next := 0
            overlap := false }
        .passed ({ w with rooms := Tab.set w.rooms room new }.touch off [room])
      | some r =>
        let new := { r with name := name, zone := zone, policy := p, changeover := changeover }
        if new = r then .passed w else .passed ({ w with rooms := Tab.set w.rooms room new }.touch off [room])

/-- The room state an action gives, or none where the entry is applied with no change (R60). -/
def roomAction (action : Nat) (st : RoomState) : Option RoomState :=
  match action, st with
  | 0, .closed => some .opened
  | 1, .closed => none
  | 1, _ => some .closed
  | 2, .held => none
  | 2, _ => some .held
  | 3, .held => some .opened
  | _, _ => none

/-- ROOM STATE (R59, R60). -/
def simRoomState (off action room : Nat) (w : Work) : Simulated :=
  if 3 < action then .refused .range 0
  else
    match Tab.get w.rooms room with
    | none => .refused .unknownRoom 0
    | some r =>
      match roomAction action r.state with
      | none => .passed w
      | some st => .passed ({ w with rooms := Tab.set w.rooms room { r with state := st } }.touch off [room])

/-- SET CLOCK (R53). -/
def simSetClock (minute origin : Nat) (w : Work) : Simulated :=
  if 1439 < origin then .refused .range 0
  else
    .passed { w with
      now := minute, origin := origin, clock := if minute = 65535 then .ended else .running, setClock := true }

/-- The targets a PUT SIGN's kind and target words give, or none where R139 gives RANGE. -/
def targetsOf (kind : Nat) (targets : List Nat) : Option Targets :=
  match kind, targets with
  | 0, [r] => if r ≤ 255 then some (.door r) else none
  | 1, t :: ts => if ts.length < 8 && (t :: ts).all (· ≤ 255) then some (.corridor (t :: ts)) else none
  | 2, [m] => some (.lobby (wordOf m))
  | _, _ => none

/-- The rooms a sign's targets name (R139). -/
def Targets.rooms : Targets → List Nat
  | .door r => [r]
  | .corridor rs => rs
  | .lobby _ => []

/-- PUT SIGN (R139). -/
def simPutSign (kind slot line lines address lookahead : Nat) (targets : List Nat) (w : Work) : Simulated :=
  match targetsOf kind targets with
  | none => .refused .range 0
  | some t =>
    if 511 < slot || 3 < line || 127 < address then .refused .range 0
    else if t.rooms.any fun r => !Tab.has w.rooms r then .refused .unknownRoom 0
    else
      match w.signs.find? fun e => e.1 ≠ slot && e.2.line.val = line && e.2.address = address with
      | some e => .refused .clash e.1
      | none =>
        let d : SignDef :=
          { line := Fin.ofNat 4 line, address := address, lines := clamp 1 8 lines, lookahead := clamp 0 720 lookahead
            targets := t }
        .passed { w with signs := Tab.set w.signs slot d, named := insertIndex slot w.named }

/-- DROP SIGN (R140). -/
def simDropSign (slot : Nat) (w : Work) : Simulated :=
  if 511 < slot then .refused .range 0
  else if !Tab.has w.signs slot then .refused .unknownSign 0
  else
    .passed { w with
      signs := Tab.del w.signs slot, named := insertIndex slot w.named, dropped := insertIndex slot w.dropped }

/-- One entry simulated, at its offset, under the effective retain (R12, R37). -/
def simulate (retain off : Nat) (e : Entry) (w : Work) : Simulated :=
  match e with
  | .putSession cls id room start fin title presenter => simPutSession retain off cls id room start fin title presenter w
  | .dropSession id => simDropSession off id w
  | .cancelSession id => simCancelSession off id w
  | .moveSession id room => simMoveSession off id room w
  | .shiftSession cascade id delta => simShiftSession off cascade id delta w
  | .putRoom policy room name zone changeover => simPutRoom off policy room name zone changeover w
  | .roomState action room => simRoomState off action room w
  | .setClock minute origin => simSetClock minute origin w
  | .putSign kind slot line lines address lookahead targets => simPutSign kind slot line lines address lookahead targets w
  | .dropSign slot => simDropSign slot w

end Sys2Proof.Machine
end

