-- ==== Sys2Proof/Machine/Lanes.lean ====
section
/-! DEFINITION. The lane unit: capture (R26, R27), the post word (R29 to R32), results (R33, R44, R45), decode (R36), check
(R37 to R40), start over (R38) and the end of a batch (R42, R43). -/

namespace Sys2Proof.Machine

/-! ## Capture -/

/-- The shadow takes a whole word; its partial mark is cleared (R26). -/
def captureWord (l : Lane) (k : Nat) (v : Word) : Lane :=
  { l with shadow := Tab.set l.shadow k { value := v, partMark := false } }

/-- The word a shadow slot holds before a byte write: its value, or, where nothing has been captured, the value the slot
"held", which is free (R27). -/
def slotWord (l : Lane) (k i : Nat) : Word :=
  match Tab.get l.shadow k with
  | some x => x.value
  | none => joinBytes (Config.heldByte i) (Config.heldByte i)

/-- A byte is captured; written and partial marks are set (R27). -/
def captureByte (l : Lane) (k i : Nat) (d : Drive) : Lane :=
  { l with shadow := Tab.set l.shadow k { value := driveOnto d (slotWord l k i), partMark := true } }

/-- A byte write to an entry word of an OPEN lane captured (R27). -/
def State.captureByteAt (s : State) (n : Fin 4) (k : Nat) (d : Drive) : State :=
  let l := s.laneAt n
  let t := s.setLane n (captureByte l k s.freeIndex d)
  if Tab.has l.shadow k then t else t.useFree

/-! ## Results -/

/-- A result of a post refused (R29, R30, R44). -/
def postResult (l : Lane) (sequence : Byte) (endOffset : Nat) (code : Code) (failing : Nat) : LaneResult :=
  { sequence := sequence, expected := l.expected, code := code, endOffset := endOffset, failing := failing, entries := 0
    passed := 0, starts := 0, first := 0, second := 0 }

/-- A PARTIAL or MISMATCH result is handed to the post unit, or held while the part is RESTARTING (R33, R45). -/
def State.postLaneResult (s : State) (n : Fin 4) (r : LaneResult) : State :=
  if s.setup.phase = .running then
    s.hand { producer := .post, record := .laneResult n r false, raises := (Event.lane n).mask }
  else s.setLane n { s.laneAt n with heldResult := some r }

/-! ## The post word -/

/-- How a post word is judged (R29 to R31). -/
inductive PostJudgement where
  | refused (code : Code) (failing : Nat)
  | accepted
  deriving DecidableEq, Repr

/-- The judgement of a post word against the capture (R29, R30). -/
def judgePost (l : Lane) (sequence : Byte) (endOffset : Nat) : PostJudgement :=
  match l.shadow.find? fun e => decide (e.1 ≤ endOffset) && e.2.partMark with
  | some e => .refused .partialWord e.1
  | none =>
    if sequence ≠ l.expected || endOffset = 127 then .refused .mismatch 127
    else
      match (List.range (endOffset + 1)).find? fun k => !Tab.has l.shadow k with
      | some k => .refused .mismatch k
      | none =>
        match l.shadow.find? fun e => endOffset < e.1 with
        | some e => .refused .mismatch e.1
        | none => .accepted

/-- A lane whose post is accepted (R31). -/
def acceptedLane (l : Lane) (sequence : Byte) (endOffset : Nat) : Lane :=
  { l with state := .queued, expected := l.expected + 1, accepted := some (sequence, endOffset) }

/-- A word write to the post word of an OPEN lane with DISCARD clear, once forwarded (R29 to R31, R35). -/
def State.judgePostWord (s : State) (n : Fin 4) (sequence : Byte) (endOffset : Nat) : State :=
  let l := s.laneAt n
  match judgePost l sequence endOffset with
  | .refused code failing => s.postLaneResult n (postResult l sequence endOffset code failing)
  | .accepted =>
    let t := s.setLane n (acceptedLane l sequence endOffset)
    { t with lane := { t.lane with commit := t.lane.commit ++ [n] } }.promoteHead

/-- A lane's capture is cleared (R25, R32). -/
def clearedLane (l : Lane) : Lane := { l with shadow := [] }

/-- A host write to word `k` of a lane, sorted to the lane unit (R24 to R32, R165). -/
def State.laneWrite (s : State) (n : Fin 4) (k : Nat) (d : Drive) : State :=
  let addr := s.regionAddress (laneOffset n k)
  if (s.laneAt n).state ≠ .opened then s.dropGuarded (guardedAt d addr).1 (guardedAt d addr).2
  else
    let t := s.forward addr d
    match d with
    | .neither => t
    | .both v =>
      if k < 127 then t.setLane n (captureWord (t.laneAt n) k v)
      else if field v 7 1 = 1 then t.setLane n (clearedLane (t.laneAt n))
      else t.judgePostWord n (hiByte v) (field v 0 7)
    | .low _ => if k < 127 then t.captureByteAt n k d else t
    | .high _ => if k < 127 then t.captureByteAt n k d else t

/-! ## Decode and check -/

/-- The entry words 0 to end offset of a lane's shadow. -/
def batchWords (l : Lane) (endOffset : Nat) : List Word :=
  (List.range (endOffset + 1)).map fun k => ((Tab.get l.shadow k).map (·.value)).getD 0

/-- The sequence and end offset of the post word accepted. -/
def Lane.posted (l : Lane) : Byte × Nat := l.accepted.getD (0, 0)

/-- The result that ends a batch (R44). -/
def batchResult (l : Lane) (code : Code) (failing entries passed starts first second : Nat) : LaneResult :=
  { sequence := l.posted.1, expected := l.expected, code := code, endOffset := l.posted.2, failing := failing
    entries := entries, passed := passed, starts := starts, first := first, second := second }

/-- The result that ends the head batch is handed; the lane waits APPLYING until it is enqueued (R43, R45). -/
def State.endBatch (s : State) (n : Fin 4) (p : Producer) (r : LaneResult) : State :=
  (s.setBatch .resulting).hand { producer := p, record := .laneResult n r true, raises := (Event.lane n).mask }

/-- The head of the commit queue, if it is APPLYING. -/
def State.applyingLane (s : State) : Option (Fin 4) :=
  match s.lane.commit with
  | n :: _ => if (s.laneAt n).state = .applying then some n else none
  | [] => none

/-- The check of a batch begins on its first working copy (R37). -/
def State.beginCheck (s : State) (entries : List (Nat × Entry)) : State :=
  s.setBatch (.checking { entries := entries, passed := 0, work := s.workingCopy, refusal := none, starts := 0 })

/-- The decode of the APPLYING lane's batch (R36). -/
def State.decodeHead (s : State) (n : Fin 4) : State :=
  let l := s.laneAt n
  match decodeBatch (batchWords l l.posted.2) with
  | .entries es => s.beginCheck es
  | .format failing count => s.endBatch n .post (batchResult l .format failing count 0 0 0 0)

/-- The entry the check comes to next, with its offset: a check in progress, with no refusal found. -/
def State.nextEntry (s : State) : Option (Check × Nat × Entry) :=
  match s.lane.batch with
  | .checking c =>
    match c.refusal, c.entries[c.passed]? with
    | none, some (off, e) => some (c, off, e)
    | _, _ => none
  | _ => none

/-- The check after one entry (R37): the working copy it leaves, or the refusal that ends the check. -/
def Check.after (c : Check) (off : Nat) : Simulated → Check
  | .passed w => { c with passed := c.passed + 1, work := w }
  | .refused code first => { c with refusal := some { code := code, failing := off, first := first, second := 0 } }

/-- The check goes on with the outcome of the entry at an offset. -/
def State.simulated (s : State) (c : Check) (off : Nat) (o : Simulated) : State := s.setBatch (.checking (c.after off o))

/-- The check starts over from entry 0 on a fresh working copy, if one is in progress (R38, R39). -/
def State.startOver (s : State) : State :=
  let again := fun (c : Check) =>
    s.setBatch (.checking { c with passed := 0, work := s.workingCopy, refusal := none, starts := min 255 (c.starts + 1) })
  match s.lane.batch with
  | .checking c => again c
  | .applyRequested c => again c
  | _ => s

/-- How a check ends: not yet; in a refusal; or with the apply step asked for (R37, R40, R43). -/
inductive CheckEnd where
  | notYet
  | refused (r : Refused)
  | passes
  deriving DecidableEq, Repr

/-- The end of a check, the overlap judgement included (R10, R37, R40). -/
def endOfCheck (m : BitVec 10) (c : Check) : CheckEnd :=
  match c.refusal with
  | some r => .refused r
  | none =>
    if c.passed < c.entries.length then .notYet
    else
      match judgeOverlap m c.work c.work.touched with
      | some r => .refused r
      | none => .passes

/-- The result of a refused check (R43, R44). -/
def refusedResult (l : Lane) (c : Check) (r : Refused) : LaneResult :=
  batchResult l r.code r.failing c.entries.length c.passed c.starts r.first r.second

/-- The result of an applied batch (R42, R44). -/
def appliedResult (l : Lane) (c : Check) : LaneResult :=
  batchResult l .applied 255 c.entries.length c.passed c.starts 0 0

/-- An ended batch's result has been posted: its lane leaves the commit queue and becomes OPEN with its capture cleared,
and the next lane becomes the head (R42, R43, R35). -/
def State.releaseLane (s : State) (n : Fin 4) : State :=
  let t := s.setLane n { s.laneAt n with state := .opened, shadow := [], accepted := none }
  { t with lane := { t.lane with commit := t.lane.commit.filter (· ≠ n), batch := .none } }.promoteHead

end Sys2Proof.Machine
end

