-- ==== Sys2Proof/Machine/Clock.lean ====
section
/-! DEFINITION. The clock unit: minute events (R49, R50), the answer to a minute signal (R51), refill (R106), and the
clock set of an apply (R54). -/

namespace Sys2Proof.Machine

/-- The timebase is restarted: a new interval begins (R49). -/
def ClockUnit.restartTimebase (c : ClockUnit) : ClockUnit := { c with timebase := c.timebase + 1 }

/-- A minute event is counted when the clock is RUNNING and CLOCK_RUN is set (R50). -/
def State.counts (s : State) : Bool := s.clock.state = .running && s.setup.clockRun

/-- The clock after a counted minute event (R50), its signal handed on (R51). -/
def countedClock (c : ClockUnit) : ClockUnit :=
  { c with
    now := c.now + 1
    state := if c.now + 1 = 65535 then .ended else c.state
    storeSignals := c.storeSignals + 1
    creditSignals := c.creditSignals + 1 }

/-- A minute event: a counted one advances now, may end the clock with CLOCK_END, and marks every defined sign dirty;
one that is not counted changes nothing (R50, R51, R96). -/
def State.minuteEvent (s : State) : State :=
  if s.counts then
    let t := ({ s with clock := countedClock s.clock }).markAll
    t.syncEcho s (Event.when .clockEnd (s.clock.now + 1 = 65535))
  else s

/-- A minute signal is answered: retire, the derivation of every room not CLOSED or HELD, and a check in progress starts
over (R22, R51, R38). The echo section is handed before the room records: the manual lets either be first (R169; DEDUCED, log
entry 15). -/
def State.answerMinute (s : State) : State :=
  let s1 := { s with clock := { s.clock with storeSignals := s.clock.storeSignals - 1 } }.retire
  let s2 := { s1 with
    store := { s1.store with rooms := deriveAll s1.store.sessions s1.clock.now s1.store.rooms } }
  let s3 := (s2.markRoomChanges s).startOver
  (s3.syncEcho s).syncRooms s

/-- The credit logic answers a minute signal with its refill; signs it wakes are marked dirty (R106, R112). The refill reads
each kind's period as it stands when it runs, also where the host has written it since the minute event was counted (R105,
R188; DEDUCED, log entry 32). The records of signs of several kinds are handed in ascending slot index over all kinds: R106
tests each kind in turn and takes the signs in ascending index, and leaves open which comes first (DEDUCED, log entry 15). -/
def State.answerRefill (s : State) : State :=
  let u := s.setup
  let now := s.clock.now
  let woken := s.signs.filter fun (e : Nat × Sign) => refillWakes u now e.2
  let t := { s with
    clock := { s.clock with creditSignals := s.clock.creditSignals - 1 }
    signs := s.signs.map fun (e : Nat × Sign) => (e.1, refillSign u now e.2) }
  (woken.foldl (fun (x : State) (e : Nat × Sign) => x.markDirty e.1) t).syncHealth s .credit

/-! ## The apply step (R13, R41, R42, R54, R97) -/

/-- The working copy holds a clock different from the clock in force (R54). -/
def clockDiffers (c : ClockUnit) (w : Work) : Bool := c.now ≠ w.now || c.origin ≠ w.origin || c.state ≠ w.clock

/-- The clock an apply leaves: the working copy's, with the timebase restarted, where it differs (R54). -/
def appliedClock (c : ClockUnit) (w : Work) : ClockUnit :=
  if clockDiffers c w then
    { c with now := w.now, origin := w.origin, state := w.clock, timebase := c.timebase + 1 }
  else c

/-- CLOCK_END is raised by a clock set that ends the clock (R54). -/
def endsClock (c : ClockUnit) (w : Work) : Bool := clockDiffers c w && w.clock = .ended && c.state ≠ .ended

/-- Mark dirty the signs that target a touched room, by its zone before and after the apply, and those a sign entry named
(R97). -/
def State.markApplied (s old : State) (w : Work) : State :=
  let rooms := (Tab.keys w.touched).foldl
    (fun t i =>
      t.markWhere fun g => targetsRoom g.2.defn i (zoneOf old.store.rooms i ++ zoneOf w.rooms i))
    s
  w.named.foldl State.markDirty rooms

/-- The state the apply step and the effects it hands on leave, before any record is handed (R13, R22, R54, R61, R141,
R63, R96, R97). -/
def State.applied (s : State) (w : Work) : State :=
  let s1 := { s with store := { sessions := w.sessions, rooms := w.rooms }, clock := appliedClock s.clock w }
  let s2 := if w.setClock then s1.retire else s1
  let set := clockDiffers s.clock w
  let s3 := { s2 with
    store := { s2.store with rooms := deriveAfterApply s2.store.sessions s2.clock.now set w.touched s2.store.rooms } }
  let s4 := s3.changeSigns w
  let s5 := if set then s4.markAll else s4
  (s5.markRoomChanges s).markApplied s w

/-- The records of an apply: the echo sections, the room records, the health records (R42, R62, R184, R185). The manual lets any
of them be first (R169); this order is the model's choice (DEDUCED, log entry 15). The store hands its counts at the step (R13)
and again after the retire of a clock set (R6, R23): the model posts the summary once, with the counts after the retire, and
not at all where they and the clock are then what they were (R184; DEDUCED, log entry 41). -/
def State.postApplied (s old : State) (w : Work) : State :=
  ((s.syncEcho old (Event.when .clockEnd (endsClock old.clock w))).syncRooms old).syncSigns old

end Sys2Proof.Machine
end

