-- ==== Sys2Proof/Machine/Setup.lean ====
section
/-! DEFINITION. The setup logic: setup words taken from host writes (R187, R188) and in the reload (R191), CONTROL and its
flags (R180, R189), ENABLE (R181), and the starts of the part (R190, R192). -/

namespace Sys2Proof.Machine

/-! ## CONTROL (R189) -/

/-- A line's SEG flag has been set or cleared since `old` (R136, R146). -/
def State.lineChange (old : State) (s : State) (n : Fin 4) : State :=
  if s.setup.seg n && !old.setup.seg n then s.startLine n
  else if !s.setup.seg n && old.setup.seg n then s.stopLine n
  else s

/-- MINUTE_SRC changed from set to clear restarts the timebase (R49). -/
def State.sourceChange (old s : State) : State :=
  if old.setup.minuteSrc && !s.setup.minuteSrc then { s with clock := s.clock.restartTimebase } else s

/-- QUIET changed from set to clear marks every sign that carries the mark dirty (R112, R113). -/
def State.quietChange (old s : State) : State :=
  if old.setup.quiet && !s.setup.quiet then s.markWhere fun e => e.2.deferred else s

/-- A change of CACHE_OFF invalidates every cached line; the composition in progress goes on (R78). -/
def State.cacheChange (old s : State) : State :=
  if old.setup.cacheOff != s.setup.cacheOff then { s with cache := { s.cache with lines := [] } }.advance else s

/-- A word write to CONTROL taken: each block takes its own change, and the effective value is echoed (R180, R189). Where one
write stops several lines, their engines hand their records in ascending line; these, and those of a composition that a change
of CACHE_OFF lets end, come before the echo section: the manual lets any of them be first (R169; DEDUCED, log entry 15). -/
def State.takeControl (s : State) (v : Word) : State :=
  let s1 := { s with setup := { s.setup with control := setClear s.setup.control v } }
  let s2 := allFour.foldl (fun t n => s.lineChange t n) s1
  ((s.cacheChange (s.quietChange (s.sourceChange s2)))).syncEcho s

/-- A word write to ENABLE taken: a changed mask posts the enable echo (R180, R181). -/
def State.takeEnable (s : State) (v : Word) : State :=
  let mask := setClear s.setup.enable v
  if mask = s.setup.enable then s
  else
    { s with setup := { s.setup with enable := mask } }.hand
      { producer := .post, record := .enableEcho, raises := 0 }

/-- A word write to MATRIX taken: the pending matrix flag alone follows it (R8). -/
def State.takeMatrix (s : State) (v : Word) : State :=
  { s with setup := { s.setup with pendingMatrix := matrixOf v ≠ s.setup.matrix } }.syncEcho s

/-- A style word taken: a changed style marks every sign dirty (R65). -/
def State.takeStyle (s : State) (st : RoomState) (v : Word) : State :=
  let t := { s with setup := { s.setup with styles := s.setup.styles.set st (styleOf v) } }
  (if styleOf v ≠ s.setup.styles.get st then t.markAll else t).syncEcho s

/-- A KIND word taken: counts above a lowered cap are lowered (R105). The credit logic's health records are handed before the
echo section: the manual lets either be first (R169; DEDUCED, log entry 15). -/
def State.takeKind (s : State) (k : SignKind) (v : Word) : State :=
  let t := { s with
    setup := { s.setup with kinds := s.setup.kinds.set k (kindOf v) }
    signs := capCredits k (kindOf v).cap s.signs }
  (t.syncHealth s .credit).syncEcho s

/-- A LINE, SWEEP, RETAIN or INSIST word taken (R187). -/
def State.takePlain (s : State) (p : PlainSetup) (v : Word) : State :=
  { s with setup := s.setup.takePlain p v }.syncEcho s

/-! ## The starting state (R190) -/

/-- Every block in its starting state; the effective setup values but for CONTROL and ENABLE, the restart count, the
region base, the pins, memory and the queue of commands are kept. -/
def State.blocksReset (s : State) : State :=
  { s with
    path := { s.path with
      postQueue := [], fillQueue := [], insist := 0, stretchNext := false, lastChoicePost := false, hold := .none }
    setup := { s.setup with
      control := 0, enable := 0, pendingMatrix := false, phase := .fill 0, ready := false }
    clock := .start s.clock.timebase
    store := { sessions := [], rooms := [] }
    lane := { lanes := .all .empty, commit := [], batch := .none }
    cache := { lines := [], fills := [] }
    comp := { composition := none, dirty := [], servicePos := 511, lastServed := 3 }
    signs := []
    lists := .all { urgent := [], content := [], tick := [] }
    engines := .all .stopped
    ports := .all .stopped
    post := .empty }

/-- The port of a line after a restart: OFF, a frame it was sending cut off as by a stop of the line (R136). -/
def State.restartedPort (s : State) (n : Fin 4) : Port :=
  { Port.stopped with cut := ((s.port n).cutOff ((s.port n).cutTime (s.freeIndex + n.val))).cut }

/-- A restart (R190): every block starts again, frames being sent are cut off (R136), the restart count rises, the timebase
begins a new interval, and the reload begins from its first word. -/
def State.restart (s : State) : State :=
  let t := s.blocksReset
  { t with
    freeIndex := s.freeIndex + 4
    ports :=
      { q0 := s.restartedPort 0, q1 := s.restartedPort 1, q2 := s.restartedPort 2, q3 := s.restartedPort 3 }
    setup := { t.setup with phase := .reload 0, restartCount := (s.setup.restartCount + 1) % 65536 }
    clock := t.clock.restartTimebase }

/-- The end of power-on or the release of the reset pin (R192): the straps are sampled (R163), setup takes its defaults,
the MINUTE detector its starting level (R177), the timebase its first interval (R48), and the start-up fill begins. -/
def State.start (s : State) (straps : Fin 16) (minute : Bool) : State :=
  let t := s.blocksReset
  { t with
    pins := { t.pins with minute := minute }
    path := { t.path with base := straps }
    setup := .default
    clock := t.clock.restartTimebase
    post := { t.post with waiting := [.firstFill] } }

/-! ## Setup words -/

/-- A word write to a named setup word, once forwarded, is taken (R187, R190). -/
def State.takeWord (s : State) (w : SetupWord) (v : Word) : State :=
  match w with
  | .control => s.takeControl v
  | .enable => s.takeEnable v
  | .restart => if v = 1 then s.restart else s
  | .matrix => s.takeMatrix v
  | .style st => s.takeStyle st v
  | .kind k => s.takeKind k v
  | .plain p => s.takePlain p v

/-- A host write in the setup area: forwarded; a word write to a named word is taken (R165, R187). -/
def State.setupWrite (s : State) (offset : Nat) (d : Drive) : State :=
  let t := s.forwardAt offset d
  match d, setupWordAt offset with
  | .both v, some w => t.takeWord w v
  | _, _ => t

/-! ## The reload (R191) -/

/-- The matrix word read back is the matrix in force (R7, R191). -/
def State.reloadMatrix (s : State) (v : Word) : State :=
  { s with setup := { s.setup with matrix := matrixOf v, pendingMatrix := false } }.syncEcho s

/-- A word read back is taken like a host write, but for MATRIX (R191). -/
def State.reloadWord (s : State) (w : SetupWord) (v : Word) : State :=
  match w with
  | .matrix => s.reloadMatrix v
  | .style st => s.takeStyle st v
  | .kind k => s.takeKind k v
  | .plain p => s.takePlain p v
  | _ => s

/-- The byte offset of the reload's word `k`: 0006h to 0026h (section 12.3). -/
def reloadOffset (k : Nat) : Nat := 6 + 2 * k

/-- After word `k` of the reload the next is read, or the start-up fill begins (R191, R193). -/
def State.advanceReload (s : State) (k : Nat) : State :=
  if k < 16 then { s with setup := { s.setup with phase := .reload (k + 1) } } else s.handFill 0

/-- The setup read of word `k` of the reload, made and taken (R191). -/
def State.reloadStep (s : State) (k : Nat) : State :=
  let v := readWord s.mem (s.regionAddress (reloadOffset k))
  match setupWordAt (reloadOffset k) with
  | some w => (s.reloadWord w v).advanceReload k
  | none => s.advanceReload k

end Sys2Proof.Machine
end

