-- ==== Sys2Proof/Machine/Path.lean ====
section
/-! DEFINITION. The path unit: own accesses (R171 to R175), the host access that holds or is held (R164, R174), host
writes sorted by area (R165 to R168), and host reads (R172). -/

namespace Sys2Proof.Machine

/-! ## Own accesses -/

/-- The last choice between post writes and fill reads, made when both are ready (R173). -/
def State.noteChoice (s : State) (post : Bool) : State :=
  match s.path.postQueue, s.path.fillQueue with
  | _ :: _, _ :: _ => { s with path := { s.path with lastChoicePost := post } }
  | _, _ => s

/-- One own write: the head entry's value is written to its word, and the entry leaves the queue (R171). -/
def State.makePostWrite (s : State) : State :=
  match s.path.postQueue with
  | [] => s
  | e :: q =>
    let t := (s.noteChoice true).ownAccessMade
    { t with mem := writeWord t.mem (s.regionAddress e.offset) e.value, path := { t.path with postQueue := q } }

/-- One own read of the next word of the head fill; its sixteenth word makes the fill arrive, and the composition in
progress goes on (R72, R175). -/
def State.makeFillRead (s : State) : State :=
  match s.path.fillQueue with
  | [] => s
  | l :: _ =>
    let t := (s.noteChoice false).ownAccessMade
    match t.cache.fill l with
    | none => { t with path := { t.path with fillQueue := t.path.fillQueue.filter (· ≠ l) } }
    | some f =>
      let w := readWord t.mem (t.regionAddress (poolOffset l + 2 * f.data.length))
      let u := { t with cache := t.cache.readWord l w }
      if f.data.length < 15 then u
      else
        let g : Fill := { f with data := f.data ++ [w] }
        (u.arrive g).advance

/-- One setup read of the reload (R191). -/
def State.makeSetupRead (s : State) : State :=
  match s.setup.phase with
  | .reload k => s.ownAccessMade.reloadStep k
  | _ => s

/-- One own access of the kind R173 chooses. -/
def State.ownAccess (s : State) : State :=
  match s.ownChoice with
  | some .setupRead => s.makeSetupRead
  | some .postWrite => s.makePostWrite
  | some .fillRead => s.makeFillRead
  | none => s

/-! ## The host access (R164, R174) -/

/-- The insist threshold holds back the next host access (R174). -/
def State.insists (s : State) : Bool := s.path.stretchNext && s.ownWork

/-- No host access is held any more. -/
def State.releaseHold (s : State) : State := { s with path := { s.path with hold := .none } }

/-- A host access is forwarded: one that the insist threshold holds back once an own access has been made for it, which is made
now where it has not been (R164, R174). -/
def State.beginHost (s : State) : State :=
  match s.path.hold with
  | .none => if s.insists then s.ownAccess.releaseHold else s
  | .waiting => s.ownAccess.releaseHold
  | .granted => s.releaseHold

/-- A host access ends: if own work waited during it the insist count rises, and the count is compared with T (R174). -/
def State.endHost (s : State) (waited : Bool) : State :=
  let count := if waited || s.ownWork then min 255 (s.path.insist + 1) else s.path.insist
  { s with path := { s.path with
    insist := count, stretchNext := s.setup.insistT ≠ 0 && decide (s.setup.insistT ≤ count) } }

/-- Own work waited as a host access began: it waits now, or it did when INSIST_STALL held the access back (R174). -/
def State.workWaited (s : State) : Bool := s.ownWork || s.path.hold ≠ .none

/-- A host access that begins on `s`, or that is held, with what it does to the part: it ends as `endHost` gives, own work that
waited as it began counting even where the own access it was held back for took the last of it, but for one that requests a
restart, which leaves the insist count 0 (R164, R174, R190; log entries 18 and 23). -/
def State.servedAccess (s : State) (served : State → State) : State :=
  let b := s.beginHost
  let t := served b
  if t.setup.restartCount ≠ b.setup.restartCount then t else t.endHost s.workWaited

/-- A host access: nothing crosses while power is not good; while the part is held it is passed unclassified; else it is
served whole (R164). -/
def State.hostAccess (s : State) (passed served : State → State) : State :=
  if !s.pins.pgood then s
  else if !s.active then passed s
  else s.servedAccess served

/-- A host write of `d` to the word at byte address `addr`, and what its owner makes of it. -/
def State.hostWriteWith (s : State) (addr : Nat) (d : Drive) (served : State → State) : State :=
  s.hostAccess (fun t => t.forward addr d) served

/-! ## Writes in the status area (R166 to R168) -/

/-- The queued posts to a word are removed, wherever they stand (R167, R168). -/
def State.unqueue (s : State) (offset : Nat) : State :=
  { s with path := { s.path with postQueue := s.path.postQueue.filter fun e => e.offset ≠ offset } }

/-- The ack merge (R167). -/
def State.ackMerge (s : State) (d : Drive) : State :=
  match d with
  | .neither => s
  | _ =>
    let merged := mergeFlags s.post.flags d
    ({ s with post := { s.post with flags := merged } }.unqueue flagsOffset).forwardAt flagsOffset (.both (flagsWordOf merged))

/-- The post unit takes a read count write when it consumes entries up to the last posted at most (R161). -/
def readCountTaken (p : PostUnit) (v : Byte) : Bool :=
  decide (ringDistance p.ringRead v ≤ ringDistance p.ringRead p.ringWrite)

/-- A host write to the read count word (R161, R168). -/
def State.readCountWrite (s : State) (d : Drive) : State :=
  let addr := s.regionAddress readCountOffset
  match d with
  | .neither => s
  | .both v =>
    if readCountTaken s.post (loByte v) then
      let t := { s with post := { s.post with
        ringRead := loByte v, ring := s.post.ring.drop (ringDistance s.post.ringRead (loByte v)) } }
      (t.unqueue readCountOffset).forwardAt readCountOffset d
    else s.dropGuarded addr false
  | _ => s.dropGuarded (guardedAt d addr).1 (guardedAt d addr).2

/-- A host write to a guarded word is dropped (R166). -/
def State.guardedWriteAt (s : State) (offset : Nat) (d : Drive) : State :=
  match d with
  | .neither => s
  | _ => s.dropGuarded (guardedAt d (s.regionAddress offset)).1 (guardedAt d (s.regionAddress offset)).2

/-- A host write in the text pool: forwarded, and answered by snoop (R66, R75). -/
def State.poolWrite (s : State) (offset : Nat) (d : Drive) : State :=
  match d with
  | .neither => s
  | _ => (s.forwardAt offset d).snoopLine ((offset - 0x4000) / 0x20)

/-- A host write in the region, sorted by the area of its offset and handed to the owner (R165). -/
def State.sortedWrite (s : State) (offset : Nat) (d : Drive) : State :=
  match d with
  | .neither => s
  | _ =>
    match areaOf offset with
    | .setup o => s.setupWrite o d
    | .laneWord n k => s.laneWrite n k d
    | .flagsWord => s.ackMerge d
    | .readCount => s.readCountWrite d
    | .guarded => s.guardedWriteAt offset d
    | .unposted => s.forwardAt offset d
    | .pool _ => s.poolWrite offset d

/-- A host write anywhere: outside the region it is forwarded with no effect on the part (R165). -/
def State.anyWrite (s : State) (addr : Nat) (d : Drive) : State :=
  if addr / 0x10000 = s.path.base.val then s.sortedWrite (addr % 0x10000) d else s.forward addr d

/-! ## Host reads (R172) -/

/-- The newest value queued for a word of the region (R172). -/
def State.queuedValue (s : State) (offset : Nat) : Option Word :=
  (s.path.postQueue.reverse.find? fun e => e.offset = offset).map (·.value)

/-- The word a host read of byte address `addr` returns: the newest value queued for it, else memory (R172). -/
def State.readValue (s : State) (addr : Nat) : Word :=
  let queued := if s.active && addr / 0x10000 = s.path.base.val then s.queuedValue (addr % 0x10000) else none
  queued.getD (readWord s.mem addr)

/-- The data a host read returns on the enabled bytes. -/
def State.returnData (s : State) (addr : Nat) (upper lower : Bool) : State :=
  let v := s.readValue addr
  { s with path := { s.path with
    hostData :=
      { upper := if upper then some (hiByte v) else none
        lower := if lower then some (loByte v) else none } } }

end Sys2Proof.Machine
end

