-- ==== Sys2Proof/Machine/ExecBatch.lean ====
section
/-! DEFINITION. Meanings of the steps of a batch (Chapters 1 to 3, 8): decode, the ten entry kinds, the end of the check,
the apply step and the lane result. Each acts on the entry or the batch the part has come to; where the part has come to
another step, nothing happens (log entry 9), and so while the part is not at work (log entry 20). -/

namespace Sys2Proof.Machine

/-- BATCH_DECODE: the head lane becomes APPLYING and its batch is decoded (R35, R36). -/
def execBatchDecode (s : State) : Host.Outcome State Fault Refusal :=
  .next
    (s.working fun s =>
      let t := s.promoteHead
      match t.lane.batch, t.applyingLane with
      | .none, some n => t.decodeHead n
      | _, _ => t)

/-- PUT_SESSION (R14, R15). -/
def execPutSession (s : State) : Host.Outcome State Fault Refusal :=
  .next
    (s.working fun s =>
      match s.nextEntry with
      | some (c, off, .putSession cls id room start fin title presenter) =>
        s.simulated c off (simPutSession s.setup.retain off cls id room start fin title presenter c.work)
      | _ => s)

/-- DROP_SESSION (R16). -/
def execDropSession (s : State) : Host.Outcome State Fault Refusal :=
  .next
    (s.working fun s =>
      match s.nextEntry with
      | some (c, off, .dropSession id) => s.simulated c off (simDropSession off id c.work)
      | _ => s)

/-- CANCEL_SESSION (R17). -/
def execCancelSession (s : State) : Host.Outcome State Fault Refusal :=
  .next
    (s.working fun s =>
      match s.nextEntry with
      | some (c, off, .cancelSession id) => s.simulated c off (simCancelSession off id c.work)
      | _ => s)

/-- MOVE_SESSION (R18). -/
def execMoveSession (s : State) : Host.Outcome State Fault Refusal :=
  .next
    (s.working fun s =>
      match s.nextEntry with
      | some (c, off, .moveSession id room) => s.simulated c off (simMoveSession off id room c.work)
      | _ => s)

/-- SHIFT_SESSION (R19, R20). -/
def execShiftSession (s : State) : Host.Outcome State Fault Refusal :=
  .next
    (s.working fun s =>
      match s.nextEntry with
      | some (c, off, .shiftSession cascade id delta) => s.simulated c off (simShiftSession off cascade id delta c.work)
      | _ => s)

/-- PUT_ROOM (R21). -/
def execPutRoom (s : State) : Host.Outcome State Fault Refusal :=
  .next
    (s.working fun s =>
      match s.nextEntry with
      | some (c, off, .putRoom policy room name zone changeover) =>
        s.simulated c off (simPutRoom off policy room name zone changeover c.work)
      | _ => s)

/-- ROOM_STATE (R59, R60). -/
def execRoomState (s : State) : Host.Outcome State Fault Refusal :=
  .next
    (s.working fun s =>
      match s.nextEntry with
      | some (c, off, .roomState action room) => s.simulated c off (simRoomState off action room c.work)
      | _ => s)

/-- SET_CLOCK (R53). -/
def execSetClock (s : State) : Host.Outcome State Fault Refusal :=
  .next
    (s.working fun s =>
      match s.nextEntry with
      | some (c, off, .setClock minute origin) => s.simulated c off (simSetClock minute origin c.work)
      | _ => s)

/-- PUT_SIGN (R139). -/
def execPutSign (s : State) : Host.Outcome State Fault Refusal :=
  .next
    (s.working fun s =>
      match s.nextEntry with
      | some (c, off, .putSign kind slot line lines address lookahead targets) =>
        s.simulated c off (simPutSign kind slot line lines address lookahead targets c.work)
      | _ => s)

/-- DROP_SIGN (R140). -/
def execDropSign (s : State) : Host.Outcome State Fault Refusal :=
  .next
    (s.working fun s =>
      match s.nextEntry with
      | some (c, off, .dropSign slot) => s.simulated c off (simDropSign slot c.work)
      | _ => s)

/-- The end of the check of lane `n`'s batch `c` (R37, R43). -/
def State.finishCheck (s : State) (n : Fin 4) (c : Check) : State :=
  match endOfCheck s.setup.matrix c with
  | .notYet => s
  | .refused r => s.endBatch n .post (refusedResult (s.laneAt n) c r)
  | .passes => s.setBatch (.applyRequested c)

/-- CHECK_END: every entry simulated, or a refusal found (R37). A counted minute the store has still to answer comes
first (R38, R39). -/
def execCheckEnd (s : State) : Host.Outcome State Fault Refusal :=
  .next
    (s.working fun s =>
      match s.lane.batch, s.applyingLane with
      | .checking c, some n => if s.clock.storeSignals = 0 then s.finishCheck n c else s
      | _, _ => s)

/-- The apply step of lane `n`'s batch `c`, its effects and its result (R41, R42). -/
def State.applyBatch (s : State) (n : Fin 4) (c : Check) : State :=
  let t := (s.applied c.work).postApplied s c.work
  t.endBatch n .rooms (appliedResult (t.laneAt n) c)

/-- A block that an apply hands its effects to still waits for a record of its own: the room state logic, the sign table or
the credit logic (R42, R62, R169, R185). -/
def State.effectsBusy (s : State) : Bool := s.roomsBusy || s.producerBusy .signTable || s.producerBusy .credit

/-- APPLY: granted when no composition is in progress (R41, R100); a counted minute the store has still to answer comes
first (R39), and so do the records of the blocks that carry out its effects (R42, R169; log entry 13). -/
def execApply (s : State) : Host.Outcome State Fault Refusal :=
  .next
    (s.working fun s =>
      match s.lane.batch, s.applyingLane with
      | .applyRequested c, some n =>
        if s.clock.storeSignals = 0 && s.comp.composition.isNone && !s.effectsBusy then s.applyBatch n c else s
      | _, _ => s)

/-- The lane result at the head of the waiting records, with the records behind it. -/
def State.waitingResult (s : State) : Option (Item × Fin 4 × Bool × List Item) :=
  match s.post.waiting with
  | it :: rest =>
    match it.record with
    | .laneResult n _ ends => if it.plain then none else some (it, n, ends, rest)
    | _ => none
  | [] => none

/-- LANE_RESULT: a lane result that heads the waiting records enters the queue whole and raises its flag; one that ends a
batch leaves its lane OPEN and the commit queue advanced (R42, R43, R45). -/
def execLaneResult (s : State) : Host.Outcome State Fault Refusal :=
  .next
    (s.working fun s =>
      match s.waitingResult with
      | some (it, n, ends, rest) =>
        if s.hasPlaces (recordSize it.record) then
          let t := (s.setWaiting rest).enter it
          if ends then t.releaseLane n else t
        else s
      | none => s)

end Sys2Proof.Machine
end

