-- ==== Sys2Proof/Machine/ExecClock.lean ====
section
/-! DEFINITION. Meanings of the clock's commands (Chapters 3, 6): MINUTE_EDGE, MINUTE_FALL, TIMEBASE_EXPIRY, MINUTE_SIGNAL,
REFILL. -/

namespace Sys2Proof.Machine

/-- The MINUTE level of the edge detector. -/
def State.setMinute (s : State) (b : Bool) : State := { s with pins := { s.pins with minute := b } }

/-- MINUTE_EDGE: MINUTE has been high for two samples; from a low level that is an edge, a minute event while MINUTE_SRC
is set (R49, R177). -/
def execMinuteEdge (s : State) : Host.Outcome State Fault Refusal :=
  .next
    (if s.active && !s.pins.minute then
      let t := s.setMinute true
      if s.setup.minuteSrc then t.minuteEvent else t
    else s)

/-- MINUTE_FALL: MINUTE has been low for two samples (R177). -/
def execMinuteFall (s : State) : Host.Outcome State Fault Refusal :=
  .next (if s.active then s.setMinute false else s)

/-- TIMEBASE_EXPIRY: the timebase begins its next interval, and gives a minute event while MINUTE_SRC is clear (R49). -/
def execTimebaseExpiry (s : State) : Host.Outcome State Fault Refusal :=
  .next
    (if s.active then
      let t := { s with clock := s.clock.restartTimebase }
      if s.setup.minuteSrc then t else t.minuteEvent
    else s)

/-- MINUTE_SIGNAL: the store and the room state logic answer a minute signal, once the room records of the answer before
it have been taken (R51, R62). -/
def execMinuteSignal (s : State) : Host.Outcome State Fault Refusal :=
  .next (if s.active && decide (0 < s.clock.storeSignals) && !s.roomsBusy then s.answerMinute else s)

/-- REFILL: the credit logic answers a minute signal, once its own records before it have entered the queue (R106, R169,
R185). -/
def execRefill (s : State) : Host.Outcome State Fault Refusal :=
  .next
    (if s.active && decide (0 < s.clock.creditSignals) && !s.producerBusy .credit then s.answerRefill else s)

end Sys2Proof.Machine
end

