-- ==== Sys2Proof/Machine/ExecCompose.lean ====
section
/-! DEFINITION. Meanings of the compositor's and the text cache's commands (Chapters 4, 5): DIRTY_COMPOSITION,
SEND_TIME_COMPOSITION, FILL_READ, SNOOP. -/

namespace Sys2Proof.Machine

/-- An apply step is pending: the check has passed and no minute signal comes before it (R39, R100). -/
def State.applyPending (s : State) : Bool :=
  match s.lane.batch with
  | .applyRequested _ => s.clock.storeSignals = 0
  | _ => false

/-- The arbiter may begin a composition: none is in progress, no apply step is pending, and the clock is set (R88,
R100). -/
def State.mayCompose (s : State) : Bool :=
  s.comp.composition.isNone && !s.applyPending && s.clock.state ≠ .unset

/-- The sign of an engine's pending send-time request (R100). -/
def State.requestOf (s : State) (n : Fin 4) : Option Nat :=
  match (s.engine n).state with
  | .requesting i => some i
  | _ => none

/-- The four lines in the order the arbiter looks at them: next after the line last served, and round (R100). -/
def linesAfter (last : Fin 4) : List (Fin 4) := [last + 1, last + 2, last + 3, last]

/-- The request the arbiter serves next. -/
def State.nextRequest (s : State) : Option (Fin 4 × Nat) :=
  (linesAfter s.comp.lastServed).findSome? fun n => (s.requestOf n).map fun i => (n, i)

/-- The dirty set in the order of the search: from the index after the service position, wrapping (R98). -/
def searchOrder (service : Nat) (dirty : List Nat) : List Nat :=
  dirty.filter (fun i => service < i) ++ dirty.filter (fun i => i ≤ service)

/-- The search: SENDING signs are passed over, LOST signs leave the dirty set, and the first other sign is taken (R98). -/
def searchDirty : List Nat → State → State × Option (Nat × Sign)
  | [], s => (s, none)
  | i :: t, s =>
    match s.sign i with
    | none => searchDirty t (s.clean i)
    | some g =>
      if g.state = .sending then searchDirty t s
      else if g.state = .lost then searchDirty t (s.clean i)
      else (s, some (i, g))

/-- The next dirty sign is taken, if there is one, and its dirty composition begins (R98). -/
def State.serveDirty (s : State) : State :=
  let r := searchDirty (searchOrder s.comp.servicePos s.comp.dirty) s
  match r.2 with
  | none => r.1
  | some (i, g) => { r.1 with comp := { r.1.comp with servicePos := i } }.beginComposition i g none

/-- DIRTY_COMPOSITION: served when no engine has a request pending (R98, R100). -/
def execDirtyComposition (s : State) : Host.Outcome State Fault Refusal :=
  .next (if s.active && s.mayCompose && s.nextRequest.isNone then s.serveDirty else s)

/-- A pending request is served: its send-time composition begins (R100, R101). -/
def State.serveRequest (s : State) (n : Fin 4) (slot : Nat) : State :=
  match s.sign slot with
  | none => s
  | some g => { s with comp := { s.comp with lastServed := n } }.beginComposition slot g (some n)

/-- SEND_TIME_COMPOSITION (R100, R101). -/
def execSendTimeComposition (s : State) : Host.Outcome State Fault Refusal :=
  .next
    (match s.nextRequest with
    | some (n, slot) => if s.active && s.mayCompose then s.serveRequest n slot else s
    | none => s)

/-- FILL_READ: one own read of the next word of the head fill, if it is the own access that may be made (R72, R173,
R175). -/
def execFillRead (s : State) : Host.Outcome State Fault Refusal :=
  .next (if s.ownChoice = some .fillRead then s.makeFillRead else s)

/-- Byte offset of word `w` of pool line `line` (R66). -/
def poolWord (line : Fin 1536) (w : Fin 16) : Nat := poolOffset line.val + 2 * w.val

/-- SNOOP: a host write in the text pool (R66, R75 to R77). -/
def execSnoop (line : Fin 1536) (w : Fin 16) (d : Drive) (s : State) : Host.Outcome State Fault Refusal :=
  .next (s.hostWriteWith (s.regionAddress (poolWord line w)) d fun t => t.poolWrite (poolWord line w) d)

end Sys2Proof.Machine
end

