-- ==== Sys2Proof/Machine/ExecHost.lean ====
section
/-! DEFINITION. Meanings of the memory path's commands (Chapters 9, 10): ACK_MERGE, READ_COUNT_WRITE, GUARDED_WRITE,
HOST_WRITE, HOST_READ, INSIST_STALL, POST_WRITE, RECORD_ENQUEUE, FLAG_RAISE. -/

namespace Sys2Proof.Machine

/-- ACK_MERGE: a host write to the event flags word (R167). -/
def execAckMerge (d : Drive) (s : State) : Host.Outcome State Fault Refusal :=
  .next (s.hostWriteWith (s.regionAddress flagsOffset) d fun t => t.ackMerge d)

/-- READ_COUNT_WRITE: a host write to the call ring read count word (R161, R168). -/
def execReadCountWrite (d : Drive) (s : State) : Host.Outcome State Fault Refusal :=
  .next (s.hostWriteWith (s.regionAddress readCountOffset) d fun t => t.readCountWrite d)

/-- Byte offset of word `w` of the posted span. -/
def postedWord (w : Fin 4480) : Nat := postedOffset + 2 * w.val

/-- GUARDED_WRITE: a host write to word `w` of the posted span (R165, R166). -/
def execGuardedWrite (w : Fin 4480) (d : Drive) (s : State) : Host.Outcome State Fault Refusal :=
  .next (s.hostWriteWith (s.regionAddress (postedWord w)) d fun t => t.sortedWrite (postedWord w) d)

/-- The byte address of a word address (R163). -/
def byteAddress (a : BitVec 19) : Nat := 2 * a.toNat

/-- HOST_WRITE: a host write at a word address, sorted by its area (R164, R165). -/
def execHostWrite (a : BitVec 19) (d : Drive) (s : State) : Host.Outcome State Fault Refusal :=
  .next (s.hostWriteWith (byteAddress a) d fun t => t.anyWrite (byteAddress a) d)

/-- HOST_READ: a host read at a word address; the data returned is the newest value queued for the word, or else memory's
(R164, R172). -/
def execHostRead (a : BitVec 19) (upper lower : Bool) (s : State) : Host.Outcome State Fault Refusal :=
  .next
    (s.hostAccess (fun t => t.returnData (byteAddress a) upper lower) fun t => t.returnData (byteAddress a) upper lower)

/-- INSIST_STALL: the insist threshold holds back the host access that begins; WAIT is asserted until an own access has
been made, and that host access then comes before any further own access (R164, R174). -/
def execInsistStall (s : State) : Host.Outcome State Fault Refusal :=
  .next
    (if s.active && s.path.hold = .none && s.insists then { s with path := { s.path with hold := .waiting } } else s)

/-- POST_WRITE: one own write of the head entry of the post queue, if it is the own access that may be made (R171,
R173). -/
def execPostWrite (s : State) : Host.Outcome State Fault Refusal :=
  .next (if s.ownChoice = some .postWrite then s.makePostWrite else s)

/-- The record that heads the waiting records, with those behind it, unless a step of its own takes it. -/
def State.waitingPlain (s : State) : Option (Item × List Item) :=
  match s.post.waiting with
  | it :: rest => if it.plain then some (it, rest) else none
  | [] => none

/-- A record of the credit logic has entered: a composition that waited for the credit logic may end (R185). -/
def State.afterCredit (s : State) (p : Producer) : State := if p = .credit then s.resumeComposition else s

/-- RECORD_ENQUEUE: the record that heads the waiting records enters the post queue whole when it has room (R169). -/
def execRecordEnqueue (s : State) : Host.Outcome State Fault Refusal :=
  .next
    (s.working fun s =>
      match s.waitingPlain with
      | some (it, rest) =>
        if s.hasPlaces (recordSize it.record) then ((s.setWaiting rest).enter it).afterCredit it.producer else s
      | none => s)

/-- The raise that heads the waiting records, with those behind it. -/
def State.waitingRaise (s : State) : Option (BitVec 13 × List Item) :=
  match s.post.waiting with
  | it :: rest =>
    match it.record with
    | .raise f => some (f, rest)
    | _ => none
  | [] => none

/-- A raise is taken: every waiting flag is set and the flags word is posted (R178). -/
def State.takeRaise (s : State) (f : BitVec 13) : State :=
  { s with post := { s.post with flags := s.post.flags ||| f } }.enqueue .flagsWord

/-- FLAG_RAISE: the raise that heads the waiting records is taken when the queue has a free place; one whose flags are all
set already changes nothing and enqueues nothing (R178, R182). -/
def execFlagRaise (s : State) : Host.Outcome State Fault Refusal :=
  .next
    (s.working fun s =>
      match s.waitingRaise with
      | some (f, rest) =>
        if f &&& ~~~s.post.flags = 0 then s.setWaiting rest
        else if s.hasPlaces 1 then (s.setWaiting rest).takeRaise f
        else s
      | none => s)

end Sys2Proof.Machine
end

