-- ==== Sys2Proof/Machine/ExecLanes.lean ====
section
/-! DEFINITION. Meanings of the lane writes (Chapter 2): ENTRY_WORD_WRITE, ENTRY_BYTE_WRITE, POST_WORD, DISCARD. -/

namespace Sys2Proof.Machine

/-- A host write to word `k` of a lane: the path unit hands it to the lane unit (R165). -/
def State.laneAccess (s : State) (n : Fin 4) (k : Nat) (d : Drive) : State :=
  s.hostWriteWith (s.regionAddress (laneOffset n k)) d fun t => t.laneWrite n k d

/-- ENTRY_WORD_WRITE (R26, R28). -/
def execEntryWordWrite (lane : Fin 4) (k : Fin 127) (v : Word) (s : State) : Host.Outcome State Fault Refusal :=
  .next (s.laneAccess lane k.val (.both v))

/-- ENTRY_BYTE_WRITE (R27, R28). -/
def execEntryByteWrite (lane : Fin 4) (k : Fin 127) (high : Bool) (v : Byte) (s : State) :
    Host.Outcome State Fault Refusal :=
  .next (s.laneAccess lane k.val (if high then .high v else .low v))

/-- POST_WORD: a post word with DISCARD clear (R28 to R31). -/
def execPostWord (lane : Fin 4) (sequence : Byte) (endOffset : BitVec 7) (s : State) : Host.Outcome State Fault Refusal :=
  .next (s.laneAccess lane 127 (.both (postWordOf sequence false endOffset)))

/-- DISCARD: a post word with DISCARD set (R28, R32). -/
def execDiscard (lane : Fin 4) (sequence : Byte) (endOffset : BitVec 7) (s : State) : Host.Outcome State Fault Refusal :=
  .next (s.laneAccess lane 127 (.both (postWordOf sequence true endOffset)))

end Sys2Proof.Machine
end

