-- ==== Sys2Proof/Machine/ExecLines.lean ====
section
/-! DEFINITION. Meanings of the commands of the plate lines (Chapters 7, 8): the engines' choice, timers, the ports' moves,
replies, slot maps, presses and refresh timers. -/

namespace Sys2Proof.Machine

/-- ENGINE_CHOOSE: an IDLE engine chooses its next work (R145). -/
def execEngineChoose (n : Fin 4) (s : State) : Host.Outcome State Fault Refusal :=
  .next (if s.active && (s.engine n).state = .idle then s.chooseWork n else s)

/-- SWEEP_TIMER_EXPIRY: the due flag is set and the next interval begins at the sweep period as it stands (R147). -/
def execSweepTimerExpiry (n : Fin 4) (s : State) : Host.Outcome State Fault Refusal :=
  .next
    (if s.active && (s.engine n).sweepTimer.isSome then
      s.updateEngine n fun e => { e with due := true, sweepTimer := some s.setup.sweepPeriod }
    else s)

/-- A port that is SENDING a lone BREAK (R136), or a frame. -/
def State.portSends (s : State) (n : Fin 4) (lone : Bool) : Bool :=
  (s.port n).state = .sending && (s.port n).frame.isEmpty == lone

/-- A port becomes IDLE, and a READY engine hands it its exchange (R135, R144). -/
def State.portIdle (s : State) (n : Fin 4) : State := (s.setPort n { s.port n with state := .idle }).handToPort n

/-- LONE_BREAK_END: the lone BREAK of a newly enabled line ends (R121, R136). -/
def execLoneBreakEnd (n : Fin 4) (s : State) : Host.Outcome State Fault Refusal :=
  .next (if s.active && s.portSends n true then s.portIdle n else s)

/-- The frame of an engine is a SWEEP (R124). -/
def Engine.sweeping (e : Engine) : Bool :=
  match e.state with
  | .running (.sweep _ _ _ _) _ => true
  | _ => false

/-- FRAME_SENT: the last stop bit of a frame ends; the port awaits a reply, under the answer timeout as it now stands, or
samples the slots of a sweep (R128, R130, R135). -/
def execFrameSent (n : Fin 4) (s : State) : Host.Outcome State Fault Refusal :=
  .next
    (if s.active && s.portSends n false then
      if (s.engine n).sweeping then s.setPort n { s.port n with state := .slots }
      else s.setPort n { s.port n with state := .awaiting, timeout := (s.setup.lines.get n).timeout }
    else s)

/-- REPLY: seven bytes have been received and are judged (R127, R128). -/
def execReply (n : Fin 4) (r : Reply) (s : State) : Host.Outcome State Fault Refusal :=
  .next (if s.active then s.takeReply n fun x => judgeReply x r else s)

/-- ANSWER_TIMEOUT: no start bit begins in time; the reply is bad (R128). -/
def execAnswerTimeout (n : Fin 4) (s : State) : Host.Outcome State Fault Refusal :=
  .next (if s.active then s.takeReply n fun _ => .bad else s)

/-- REPLY_GAP: the line rests at mark inside a reply; the reply is bad (R128). -/
def execReplyGap (n : Fin 4) (s : State) : Host.Outcome State Fault Refusal :=
  .next (if s.active then s.takeReply n (fun _ => ReplyOutcome.bad) else s)

/-- Whether the sweep an engine runs is a presence sweep. -/
def Engine.sweepPresence (e : Engine) : Option Bool :=
  match e.state with
  | .running (.sweep presence _ _ _) _ => some presence
  | _ => none

/-- SLOTS_END: slot 127 has been sampled; the port enters its quiet time and the engine goes through the slot map (R130,
R148). -/
def execSlotsEnd (n : Fin 4) (marks : BitVec 128) (s : State) : Host.Outcome State Fault Refusal :=
  .next
    (match (s.engine n).sweepPresence with
    | some presence =>
      if s.active && (s.port n).state = .slots then (s.portQuiet n .afterSweep).onMap n presence marks else s
    | none => s)

/-- QUIET_TIME_END: the port becomes IDLE, and a READY engine hands it its exchange (R129, R135, R144). -/
def execQuietTimeEnd (n : Fin 4) (s : State) : Host.Outcome State Fault Refusal :=
  .next (if s.active && (s.port n).state = .quiet then s.portIdle n else s)

/-- CALL_PRESS: the post unit takes the oldest press an engine has handed, once the ring records of the press before it have
entered the queue (R160, R169). -/
def execCallPress (n : Fin 4) (s : State) : Host.Outcome State Fault Refusal :=
  .next
    (match (s.engine n).presses with
    | p :: _ => if s.active && !s.ringBusy then s.takePress n p else s
    | [] => s)

/-- A sign stands on a list of its line. -/
def State.listed (s : State) (slot : Nat) (g : Sign) : Bool := ((s.lists.get g.defn.line).rankOf slot).isSome

/-- The state a REFRESHING sign takes when its refresh timer expires (R143). -/
def State.afterRefresh (s : State) (slot : Nat) (g : Sign) : SignState :=
  if g.state ≠ .refreshing then g.state
  else if g.deferred then .deferred
  else if s.listed slot g then .pending
  else .synced

/-- REFRESH_TIMER_EXPIRY: a sign's refresh timer stops, and the sign becomes DEFERRED, PENDING or SYNCED (R143). -/
def execRefreshTimerExpiry (slot : Fin 512) (s : State) : Host.Outcome State Fault Refusal :=
  .next
    (match s.sign slot.val with
    | some g =>
      if s.active && g.timer.isSome then
        (s.setSign slot.val { g with timer := none, state := s.afterRefresh slot.val g }).syncHealth s
          (.engine g.defn.line)
      else s
    | none => s)

end Sys2Proof.Machine
end

