-- ==== Sys2Proof/Machine/ExecSetup.lean ====
section
/-! DEFINITION. Meanings of the setup word writes (Chapters 10, 11): the flags of CONTROL, ENABLE, MATRIX, the styles, the
kinds and the other setup words. -/

namespace Sys2Proof.Machine

/-- A host word write to a setup word (R165, R187). -/
def State.setupAccess (s : State) (offset : Nat) (v : Word) : State :=
  s.hostWriteWith (s.regionAddress offset) (.both v) fun t => t.setupWrite offset (.both v)

/-- The set/clear word that sets or clears the value at one position (R180). -/
def setClearWord (position : Nat) (on : Bool) : Word := wordOf (place (bitOf on) 15 + place 1 position)

/-- SEG_SET: a write to CONTROL that sets a line's SEG flag (R136, R146). -/
def execSegSet (n : Fin 4) (s : State) : Host.Outcome State Fault Refusal :=
  .next (s.setupAccess controlOffset (setClearWord n.val true))

/-- SEG_CLEAR: a write to CONTROL that clears a line's SEG flag (R136, R146). -/
def execSegClear (n : Fin 4) (s : State) : Host.Outcome State Fault Refusal :=
  .next (s.setupAccess controlOffset (setClearWord n.val false))

/-- CLOCK_RUN: a write to CONTROL that sets or clears CLOCK_RUN (R50). -/
def execClockRun (on : Bool) (s : State) : Host.Outcome State Fault Refusal :=
  .next (s.setupAccess controlOffset (setClearWord 4 on))

/-- MINUTE_SRC: a write to CONTROL that sets or clears MINUTE_SRC (R49). -/
def execMinuteSrc (on : Bool) (s : State) : Host.Outcome State Fault Refusal :=
  .next (s.setupAccess controlOffset (setClearWord 5 on))

/-- QUIET: a write to CONTROL that sets or clears QUIET (R113). -/
def execQuiet (on : Bool) (s : State) : Host.Outcome State Fault Refusal :=
  .next (s.setupAccess controlOffset (setClearWord 6 on))

/-- CACHE_OFF: a write to CONTROL that sets or clears CACHE_OFF (R78). -/
def execCacheOff (on : Bool) (s : State) : Host.Outcome State Fault Refusal :=
  .next (s.setupAccess controlOffset (setClearWord 7 on))

/-- ENABLE: a set/clear write to ENABLE (R180 to R182). -/
def execEnable (v : Word) (s : State) : Host.Outcome State Fault Refusal := .next (s.setupAccess enableOffset v)

/-- MATRIX: a word write to MATRIX (R8). -/
def execMatrix (v : Word) (s : State) : Host.Outcome State Fault Refusal := .next (s.setupAccess matrixOffset v)

/-- STYLE: a word write to a style word (R65). -/
def execStyle (st : RoomState) (v : Word) (s : State) : Host.Outcome State Fault Refusal :=
  .next (s.setupAccess (styleOffset st) v)

/-- KIND: a word write to a KIND word (R105). -/
def execKind (k : SignKind) (v : Word) (s : State) : Host.Outcome State Fault Refusal :=
  .next (s.setupAccess (kindOffset k) v)

/-- SETUP_WORD_WRITE: a word write to a LINE, SWEEP, RETAIN or INSIST word (R187). -/
def execSetupWordWrite (w : PlainSetup) (v : Word) (s : State) : Host.Outcome State Fault Refusal :=
  .next (s.setupAccess (plainOffset w) v)

end Sys2Proof.Machine
end

