-- ==== Sys2Proof/Machine/ExecStart.lean ====
section
/-! DEFINITION. Meanings of the power, reset pin and restart commands (Chapter 11): POWER_ON, POWER_ON_END, RESET_ASSERT,
RESET_RELEASE, RESTART, SETUP_READ, PGOOD_FALL. -/

namespace Sys2Proof.Machine

/-- POWER_ON: PGOOD rises and power-on begins; every block is held in its starting state (R192). -/
def execPowerOn (s : State) : Host.Outcome State Fault Refusal :=
  let t := s.blocksReset
  .next { t with pins := { t.pins with pgood := true, powerOnEnded := false } }

/-- Power-on is under way: PGOOD is high and power-on has not ended. -/
def State.poweringOn (s : State) : Bool := s.pins.pgood && !s.pins.powerOnEnded

/-- POWER_ON_END: the straps are sampled and the part starts, or stays held by the reset pin (R163, R192). -/
def execPowerOnEnd (straps : Fin 16) (minute : Bool) (s : State) : Host.Outcome State Fault Refusal :=
  if s.poweringOn then
    let t := { s with pins := { s.pins with powerOnEnded := true }, path := { s.path with base := straps } }
    .next (if s.pins.resetLow then t else t.start straps minute)
  else .next s

/-- A post write cut short: each byte of its word is old or new, a free choice (R176; log entry 2). -/
def State.cutPostWrite (s : State) : State :=
  match s.path.postQueue with
  | [] => s
  | e :: _ =>
    let a := s.regionAddress e.offset
    let m := if Config.cutLow s.freeIndex then writeByte s.mem a (loByte e.value) else s.mem
    let m' := if Config.cutHigh s.freeIndex then writeByte m (a + 1) (hiByte e.value) else m
    { s with mem := m' }.useFree

/-- RESET_ASSERT: the reset pin is taken. `ownAccess` says whether an own access was on the bus; it is ended, and a post
write so ended may leave its word half written (R176, R192). -/
def execResetAssert (ownAccess : Bool) (s : State) : Host.Outcome State Fault Refusal :=
  let cut := if ownAccess && s.ownChoice = some .postWrite then s.cutPostWrite else s
  let t := cut.blocksReset
  .next { t with pins := { t.pins with resetLow := true } }

/-- RESET_RELEASE: the straps are sampled and the part starts, or stays held until power-on ends (R163, R192). -/
def execResetRelease (straps : Fin 16) (minute : Bool) (s : State) : Host.Outcome State Fault Refusal :=
  if s.pins.pgood && s.pins.resetLow then
    let t := { s with pins := { s.pins with resetLow := false }, path := { s.path with base := straps } }
    .next (if s.pins.powerOnEnded then t.start straps minute else t)
  else .next { s with pins := { s.pins with resetLow := false } }

/-- RESTART: a host word write of 1 to the RESTART word (R190). -/
def execRestart (s : State) : Host.Outcome State Fault Refusal :=
  .next (s.hostWriteWith (s.regionAddress restartOffset) (.both 1) fun t => t.setupWrite restartOffset (.both 1))

/-- SETUP_READ: one own read of the reload, if it is the own access that may be made (R173, R191). -/
def execSetupRead (s : State) : Host.Outcome State Fault Refusal :=
  .next (if s.ownChoice = some .setupRead then s.makeSetupRead else s)

/-- PGOOD_FALL: power is no longer good; the part stops until PGOOD rises again (R192). -/
def execPgoodFall (s : State) : Host.Outcome State Fault Refusal :=
  .next { s with pins := { s.pins with pgood := false } }

end Sys2Proof.Machine
end

