-- ==== Sys2Proof/Machine/Dispatch.lean ====
section
/-! DEFINITION. The dispatch: one arm per command. -/

namespace Sys2Proof.Machine

def exec (i : Instr) (s : State) : Host.Outcome State Fault Refusal :=
  match i with
  | .powerOn => Sys2Proof.Machine.execPowerOn s
  | .powerOnEnd straps minute => Sys2Proof.Machine.execPowerOnEnd straps minute s
  | .resetAssert ownAccess => Sys2Proof.Machine.execResetAssert ownAccess s
  | .resetRelease straps minute => Sys2Proof.Machine.execResetRelease straps minute s
  | .restart => Sys2Proof.Machine.execRestart s
  | .setupRead => Sys2Proof.Machine.execSetupRead s
  | .entryWordWrite lane k v => Sys2Proof.Machine.execEntryWordWrite lane k v s
  | .entryByteWrite lane k high v => Sys2Proof.Machine.execEntryByteWrite lane k high v s
  | .postWord lane sequence endOffset => Sys2Proof.Machine.execPostWord lane sequence endOffset s
  | .discard lane sequence endOffset => Sys2Proof.Machine.execDiscard lane sequence endOffset s
  | .batchDecode => Sys2Proof.Machine.execBatchDecode s
  | .putSession => Sys2Proof.Machine.execPutSession s
  | .dropSession => Sys2Proof.Machine.execDropSession s
  | .cancelSession => Sys2Proof.Machine.execCancelSession s
  | .moveSession => Sys2Proof.Machine.execMoveSession s
  | .shiftSession => Sys2Proof.Machine.execShiftSession s
  | .putRoom => Sys2Proof.Machine.execPutRoom s
  | .roomState => Sys2Proof.Machine.execRoomState s
  | .setClock => Sys2Proof.Machine.execSetClock s
  | .putSign => Sys2Proof.Machine.execPutSign s
  | .dropSign => Sys2Proof.Machine.execDropSign s
  | .checkEnd => Sys2Proof.Machine.execCheckEnd s
  | .apply => Sys2Proof.Machine.execApply s
  | .laneResult => Sys2Proof.Machine.execLaneResult s
  | .minuteEdge => Sys2Proof.Machine.execMinuteEdge s
  | .timebaseExpiry => Sys2Proof.Machine.execTimebaseExpiry s
  | .minuteSignal => Sys2Proof.Machine.execMinuteSignal s
  | .refill => Sys2Proof.Machine.execRefill s
  | .dirtyComposition => Sys2Proof.Machine.execDirtyComposition s
  | .sendTimeComposition => Sys2Proof.Machine.execSendTimeComposition s
  | .fillRead => Sys2Proof.Machine.execFillRead s
  | .snoop line w d => Sys2Proof.Machine.execSnoop line w d s
  | .engineChoose n => Sys2Proof.Machine.execEngineChoose n s
  | .sweepTimerExpiry n => Sys2Proof.Machine.execSweepTimerExpiry n s
  | .loneBreakEnd n => Sys2Proof.Machine.execLoneBreakEnd n s
  | .frameSent n => Sys2Proof.Machine.execFrameSent n s
  | .reply n r => Sys2Proof.Machine.execReply n r s
  | .answerTimeout n => Sys2Proof.Machine.execAnswerTimeout n s
  | .replyGap n => Sys2Proof.Machine.execReplyGap n s
  | .slotsEnd n marks => Sys2Proof.Machine.execSlotsEnd n marks s
  | .quietTimeEnd n => Sys2Proof.Machine.execQuietTimeEnd n s
  | .callPress n => Sys2Proof.Machine.execCallPress n s
  | .refreshTimerExpiry slot => Sys2Proof.Machine.execRefreshTimerExpiry slot s
  | .ackMerge d => Sys2Proof.Machine.execAckMerge d s
  | .readCountWrite d => Sys2Proof.Machine.execReadCountWrite d s
  | .guardedWrite w d => Sys2Proof.Machine.execGuardedWrite w d s
  | .segSet n => Sys2Proof.Machine.execSegSet n s
  | .segClear n => Sys2Proof.Machine.execSegClear n s
  | .clockRun on => Sys2Proof.Machine.execClockRun on s
  | .minuteSrc on => Sys2Proof.Machine.execMinuteSrc on s
  | .quiet on => Sys2Proof.Machine.execQuiet on s
  | .cacheOff on => Sys2Proof.Machine.execCacheOff on s
  | .enable v => Sys2Proof.Machine.execEnable v s
  | .matrix v => Sys2Proof.Machine.execMatrix v s
  | .style st v => Sys2Proof.Machine.execStyle st v s
  | .kind k v => Sys2Proof.Machine.execKind k v s
  | .setupWordWrite w v => Sys2Proof.Machine.execSetupWordWrite w v s
  | .hostWrite a d => Sys2Proof.Machine.execHostWrite a d s
  | .insistStall => Sys2Proof.Machine.execInsistStall s
  | .postWrite => Sys2Proof.Machine.execPostWrite s
  | .recordEnqueue => Sys2Proof.Machine.execRecordEnqueue s
  | .flagRaise => Sys2Proof.Machine.execFlagRaise s
  | .pgoodFall => Sys2Proof.Machine.execPgoodFall s
  | .minuteFall => Sys2Proof.Machine.execMinuteFall s
  | .hostRead a upper lower => Sys2Proof.Machine.execHostRead a upper lower s

end Sys2Proof.Machine
end

