-- ==== Sys2Proof/Machine/Panel.lean ====
section
/-! DEFINITION. A sign on a plate line, as every sign behaves (R121, R123, R125, R127, R130 to R134): functions of the
sign's own state. Signs are agents outside the part and no field of State; what they send reaches the part as operands of
REPLY and SLOTS_END (log entry 12). -/

namespace Sys2Proof.Machine

/-- A frame as a sign reads it: its bytes, and whether any carried a framing error (R120). -/
structure ReadFrame where
  bytes : List Byte
  framing : Bool
  deriving DecidableEq, Repr

/-- What a sign is receiving (R121, R123): nothing until the next BREAK; the bytes of a frame since its BREAK; nothing more of
a whole frame whose reply it has not begun; or the slots of a sweep it answers in. -/
inductive Reception where
  | waiting
  | reading (f : ReadFrame)
  | replying (r : Reply)
  | counting
  deriving DecidableEq, Repr

/-- A sign: its address, flags (R132), last accepted sequence and refreshing (R133), the face body on its panel, and what it is
receiving (R121). -/
structure Panel where
  address : Byte
  flags : SignFlags
  last : Byte
  refreshing : Bool
  shown : List Byte
  reception : Reception
  deriving DecidableEq, Repr

/-- A sign that has never accepted a face: its last accepted sequence is 0 (R133). It has set no flag yet, and its panel shows
no face. -/
def Panel.fresh (address : Byte) : Panel :=
  { address := address, flags := SignFlags.none, last := 0, refreshing := false, shown := [], reception := .waiting }

/-- Byte `i` of a frame. -/
def ReadFrame.at (f : ReadFrame) (i : Nat) : Byte := f.bytes.getD i 0

/-- The body length field (R122). -/
def ReadFrame.bodyLength (f : ReadFrame) : Nat := (f.at 6).toNat + 256 * (f.at 7).toNat

/-- The body bytes (R122). -/
def ReadFrame.body (f : ReadFrame) : List Byte := (f.bytes.drop 8).take f.bodyLength

/-- A text whose length byte leads, its length between `lo` and 64; what follows it. -/
def skipText (lo : Nat) : List Byte → Option (List Byte)
  | [] => none
  | n :: t => if lo ≤ n.toNat && n.toNat ≤ 64 && n.toNat ≤ t.length then some (t.drop n.toNat) else none

/-- `k` lines of a face body; what follows them (R89). -/
def skipLines : Nat → List Byte → Option (List Byte)
  | 0, b => some b
  | k + 1, b => if b.length < 8 then none else ((skipText 1 (b.drop 8)).bind (skipText 0)).bind (skipLines k)

/-- A well-formed face body (R89, R123). -/
def faceBodyOk (b : List Byte) : Bool :=
  match skipText 0 (b.drop 1) with
  | some (n :: t) => n.toNat ≤ 8 && skipLines n.toNat t = some []
  | _ => false

/-- The body length is the one the kind fixes (R122, R123). -/
def lengthOk (f : ReadFrame) : Bool :=
  if f.at 0 = sweepKind then f.bodyLength = 2
  else if f.at 0 = faceKind then f.bodyLength ≤ 1171 && faceBodyOk f.body
  else (f.at 0 = queryKind || f.at 0 = clearKind) && f.bodyLength = 0

/-- A frame is well formed for a sign (R123). -/
def Panel.accepts (p : Panel) (f : ReadFrame) : Bool :=
  !f.framing && f.bytes.length = 10 + f.bodyLength && f.at 2 = ~~~(f.at 1) && f.at 4 = ~~~(f.at 3)
    && f.at 1 = (if f.at 0 = sweepKind then 0x7F#8 else p.address) && lengthOk f
    && crc (f.bytes.take (8 + f.bodyLength)) = joinBytes (f.at (8 + f.bodyLength)) (f.at (9 + f.bodyLength))

/-- A flag answers its place in a sweep's polarity (R131). -/
def flagMatches (polarity flags : Nat) (i : Nat) : Bool := polarity / 2 ^ i % 2 = flags / 2 ^ i % 2

/-- Whether a sign qualifies in a sweep (R131). -/
def Panel.qualifies (p : Panel) (all : Bool) (mask polarity : Nat) : Bool :=
  let selected := [0, 1, 2, 3].filter fun i => mask / 2 ^ i % 2 = 1
  let matching := flagMatches polarity (signFlagsCode p.flags)
  p.flags.pwr || (if all then selected.all matching else selected.any matching)

/-- The sign answers in its slot (R130, R131). -/
def Panel.answersSlot (p : Panel) (f : ReadFrame) : Bool :=
  p.accepts f && f.at 0 = sweepKind
    && p.qualifies ((f.at 5).getLsbD 0) (f.body.getD 0 0).toNat (f.body.getD 1 0).toNat

/-- The reply of a sign (R127). -/
def Panel.replyOf (p : Panel) (kind sequence : Byte) : Reply :=
  let flags := byteOf (signFlagsCode p.flags)
  let c := crc [kind, p.address, sequence, flags]
  { sync := replySync, kind := kind, address := p.address, sequence := sequence, flags := flags
    crcHigh := hiByte c, crcLow := loByte c, framing := false }

/-- A sign after a CLEAR (R125). -/
def Panel.cleared (p : Panel) (mask : Byte) : Panel :=
  { p with flags := { p.flags with btn := p.flags.btn && !mask.getLsbD 0, jam := p.flags.jam && !mask.getLsbD 3 } }

/-- A sign that accepts a FACE with a refresh (R134). The new body stands on the panel from the ACCEPT on, during the redraw and
after one that fails: what a panel shows then the manual does not say (DESIGN CHOICE, log entry 34). -/
def Panel.refreshed (p : Panel) (sequence : Byte) (body : List Byte) : Panel :=
  { p with last := sequence, flags := { p.flags with pwr := false }, refreshing := true, shown := body }

/-- What a sign does with a FACE (R134). -/
def Panel.onFace (p : Panel) (sequence : Byte) (resync : Bool) (body : List Byte) : Panel × Reply :=
  if p.refreshing then (p, p.replyOf busyKind sequence)
  else if !resync && sequence = p.last then (p, p.replyOf acceptKind sequence)
  else (p.refreshed sequence body, (p.refreshed sequence body).replyOf acceptKind sequence)

/-- A sign reads a frame: what it becomes and what it replies, if anything (R123, R125, R134). -/
def Panel.onFrame (p : Panel) (f : ReadFrame) : Panel × Option Reply :=
  if !p.accepts f then (p, none)
  else if f.at 0 = queryKind then (p, some (p.replyOf statusKind p.last))
  else if f.at 0 = clearKind then
    (p.cleared (f.at 5), some ((p.cleared (f.at 5)).replyOf statusKind p.last))
  else if f.at 0 = faceKind then
    let r := p.onFace (f.at 3) ((f.at 5).getLsbD 0) f.body
    (r.1, some r.2)
  else (p, none)

/-! ## Reception (R121, R123) -/

/-- A BREAK: it aborts whatever the sign was receiving, a frame half read, a frame whose reply is not yet begun, or the slots of
a sweep, and the sign reads a new frame (R121). -/
def Panel.broken (p : Panel) : Panel := { p with reception := .reading { bytes := [], framing := false } }

/-- A span of space on the line: one of at least 20 bit times is a BREAK (R121). -/
def Panel.spaced (p : Panel) (bitTimes : Nat) : Panel := if 20 ≤ bitTimes then p.broken else p

/-- The bytes read so far, with one more. -/
def ReadFrame.add (f : ReadFrame) (b : Byte) (framing : Bool) : ReadFrame :=
  { bytes := f.bytes ++ [b], framing := f.framing || framing }

/-- The body length of a frame whose length field has been read. -/
def ReadFrame.lengthRead (f : ReadFrame) : Option Nat := if 8 ≤ f.bytes.length then some f.bodyLength else none

/-- A whole frame has been read: the sign acts on it, and its reply or its slot is yet to come (R121, R123, R131). The reply is
built now, so that a flag set before its first character is sent is not in it: the manual does not say when a sign builds its
reply (R127; DESIGN CHOICE, log entry 38). -/
def Panel.readWhole (p : Panel) (f : ReadFrame) : Panel :=
  let r := p.onFrame f
  { r.1 with
    reception := match r.2 with
      | some reply => .replying reply
      | none => if p.answersSlot f then .counting else .waiting }

/-- A byte on the line: a sign that is reading takes it, stops reading at a body length above 1,171, and acts when the frame is
whole; any other sign ignores it until the next BREAK (R121, R123). -/
def Panel.hears (p : Panel) (b : Byte) (framing : Bool) : Panel :=
  match p.reception with
  | .reading f =>
    let g := f.add b framing
    match g.lengthRead with
    | some n =>
      if 1171 < n then { p with reception := .waiting }
      else if g.bytes.length = 10 + n then p.readWhole g
      else { p with reception := .reading g }
    | none => { p with reception := .reading g }
  | _ => p

/-- A frame on the line after its BREAK, byte by byte, with no framing error. -/
def Panel.hearsFrame (p : Panel) (bytes : List Byte) : Panel := bytes.foldl (fun q b => q.hears b false) p.broken

/-- The sign begins its reply, if it has one to make (R121, R127). -/
def Panel.begins (p : Panel) : Panel × Option Reply :=
  match p.reception with
  | .replying r => ({ p with reception := .waiting }, some r)
  | _ => (p, none)

/-- What a sign drives at a bit time after a SWEEP's last stop bit: space for the first 16 bit times of the slot numbered by its
address, if it answers, and else nothing (R130). -/
def Panel.slotLevel (p : Panel) (t : Nat) : Level :=
  let start := slotStart p.address.toNat
  if p.reception = .counting && start ≤ t && t < start + 16 then .space else .mark

/-! ## What else befalls a sign (R132, R133) -/

/-- Power comes back to a sign (R133). What it was receiving is lost with the power. -/
def Panel.powerUp (p : Panel) : Panel :=
  { p with flags := { p.flags with pwr := true }, refreshing := false, reception := .waiting }

/-- The call button is pressed (R132). -/
def Panel.press (p : Panel) : Panel := { p with flags := { p.flags with btn := true } }

/-- The battery's level against the sign's own low level (R132). -/
def Panel.battery (p : Panel) (low : Bool) : Panel := { p with flags := { p.flags with lowb := low } }

/-- The sign finds its panel at fault (R132). -/
def Panel.faulted (p : Panel) : Panel := { p with flags := { p.flags with jam := true } }

/-- A redraw ends, well or in a failure that sets JAM; the sequence recorded is kept (R132 to R134). That a sign whose redraw
fails stops refreshing too is the model's choice (R133; DEDUCED, log entry 37). -/
def Panel.redrawn (p : Panel) (failed : Bool) : Panel :=
  { p with refreshing := false, flags := { p.flags with jam := p.flags.jam || failed } }

end Sys2Proof.Machine
end

