-- ==== Sys2Proof/Safety.lean ====
section
/-! DEFINITION. What counts as a safe state: the invariants the manual states of the part, and the frames the statements
are said with. -/

namespace Sys2Proof.Machine

/-! ## Invariants -/

/-- Memory is in its one form (log entry 3). -/
def State.memoryCanonical (s : State) : Bool := Memory.wf s.mem

/-- The post queue holds at most 64 entries (R169). -/
def State.postQueueFits (s : State) : Bool := decide (s.path.postQueue.length ≤ Config.postQueueSize)

/-- A kind's refresh time, cap and period lie in their ranges (R187). -/
def KindParams.inRange (k : KindParams) : Bool :=
  1 ≤ k.refresh && k.refresh ≤ 60 && 1 ≤ k.cap && k.cap ≤ 15 && 1 ≤ k.period && k.period ≤ 60

/-- A line's rate code and answer timeout lie in their ranges (R187). -/
def LineParams.inRange (l : LineParams) : Bool := l.rate ≤ 2 && 1 ≤ l.timeout && l.timeout ≤ 50

/-- Every effective setup value lies in its range, and the restart count is 16 bits wide (R187, R190). -/
def SetupLogic.inRange (u : SetupLogic) : Bool :=
  u.kinds.door.inRange && u.kinds.corridor.inRange && u.kinds.lobby.inRange
    && u.lines.q0.inRange && u.lines.q1.inRange && u.lines.q2.inRange && u.lines.q3.inRange
    && 1 ≤ u.sweepPeriod && u.sweepPeriod ≤ 60 && 1 ≤ u.presenceInterval && u.presenceInterval ≤ 16
    && u.retain ≤ 240 && u.insistT ≤ 255 && u.restartCount < 65536

/-- The check whose working copy may yet be applied (R37, R41). -/
def Batch.check : Batch → Option Check
  | .checking c => some c
  | .applyRequested c => some c
  | _ => Option.none

/-- A session record the store may hold: its room and a room it was moved from are defined, and differ (R1, R3, R5). -/
def sessionOk (rooms : Tab Room) (e : Nat × Session) : Bool :=
  1 ≤ e.1 && e.1 ≤ 65535 && e.2.start < e.2.fin && e.2.fin ≤ 65535 && requiredOk e.2.title && optionalOk e.2.presenter
    && Tab.has rooms e.2.room && e.2.movedFrom.all (Tab.has rooms) && e.2.movedFrom ≠ some e.2.room

/-- A session table the store may hold beside a room table (R3): ids in order with none twice, at most 1,024 records. -/
def sessionsOk (rooms : Tab Room) (t : Tab Session) : Bool :=
  Tab.sorted t && t.length ≤ Config.maxSessions && t.all (sessionOk rooms)

/-- A room slot the store may hold (R5). -/
def roomOk (e : Nat × Room) : Bool := e.1 < 256 && requiredOk e.2.name && e.2.zone ≤ 15 && e.2.changeover ≤ 60

/-- A room table the store may hold (R5). -/
def roomsOk (t : Tab Room) : Bool := Tab.sorted t && t.all roomOk

/-- A working copy whose session and room tables the store may take, with entries whose fields fit their words. -/
def Check.storeOk (c : Check) : Bool :=
  sessionsOk c.work.rooms c.work.sessions && roomsOk c.work.rooms && c.entries.all fun e => entryWf e.2

/-- The store in force and the working copy of a check in progress hold what the store may hold (R1, R3, R5). -/
def State.storeOk (s : State) : Bool :=
  sessionsOk s.store.rooms s.store.sessions && roomsOk s.store.rooms && s.lane.batch.check.all Check.storeOk

/-- A sign definition the sign table may hold (R138, R139). -/
def signDefOk (e : Nat × SignDef) : Bool :=
  e.1 < 512 && e.2.address ≤ 127 && 1 ≤ e.2.lines && e.2.lines ≤ 8 && e.2.lookahead ≤ 720

/-- No two signs share a plate line and an address (R139). -/
def distinctAddresses : Tab SignDef → Bool
  | [] => true
  | e :: t => (t.all fun f => e.2.line ≠ f.2.line || e.2.address ≠ f.2.address) && distinctAddresses t

/-- A table of sign definitions the part may hold. -/
def signDefsOk (t : Tab SignDef) : Bool := Tab.sorted t && t.all signDefOk && distinctAddresses t

/-- The definitions of the sign table. -/
def State.signDefs (s : State) : Tab SignDef := s.signs.map fun (e : Nat × Sign) => (e.1, e.2.defn)

/-- A working copy's sign definitions: such a table, differing from the sign table's only in slots the batch has named. -/
def Check.signsOk (defs : Tab SignDef) (c : Check) : Bool :=
  signDefsOk c.work.signs
    && (Tab.keys defs ++ Tab.keys c.work.signs).all fun i =>
      c.work.named.contains i || Tab.get defs i = Tab.get c.work.signs i

/-- The sign table and the working copy of a check in progress hold sign definitions as R138 and R139 give. -/
def State.signsOk (s : State) : Bool :=
  signDefsOk s.signDefs && s.lane.batch.check.all (Check.signsOk s.signDefs)

/-- Every defined sign's credits lie between 0 and the current cap of its kind (R104). -/
def State.creditsOk (s : State) : Bool :=
  s.signs.all fun (e : Nat × Sign) => decide (e.2.credits ≤ (s.setup.paramsOf e.2.defn).cap)

/-- No element stands twice. -/
def noRepeat : List Nat → Bool
  | [] => true
  | x :: t => !t.contains x && noRepeat t

/-- The text cache's list holds at most 64 lines, none twice (R68); at most 4 fills are pending, no two for one line; and
the fill queue holds each fill that is not HOLDING, and no other (R71, R175). -/
def State.cacheOk (s : State) : Bool :=
  s.cache.lines.length ≤ Config.cacheSize && noRepeat (s.cache.lines.map (·.line))
    && s.cache.fills.length ≤ Config.fillSetSize && noRepeat (s.cache.fills.map (·.line)) && noRepeat s.path.fillQueue
    && (s.path.fillQueue.all fun l => (s.cache.fill l).any fun f => f.state ≠ .holding)
    && s.cache.fills.all fun f => f.state = .holding || s.path.fillQueue.contains f.line

/-- The unconsumed entries' places run on from the read count (R159). -/
def placesFrom : Nat → List RingEntry → Bool
  | _, [] => true
  | n, e :: t => e.place = n % Config.ringSize && placesFrom (n + 1) t

/-- The call ring: at most 32 unconsumed entries, as many as the counts say, in their places, never two for one sign, each
with a count of 1 to 255 (R159). -/
def PostUnit.ringOk (p : PostUnit) : Bool :=
  p.ring.length ≤ Config.ringSize && p.ring.length = ringDistance p.ringRead p.ringWrite
    && placesFrom p.ringRead.toNat p.ring && noRepeat (p.ring.map (·.sign))
    && p.ring.all fun e => 1 ≤ e.count && e.count ≤ 255

/-- The tables and index sets that blocks keep in order are in order, with no key twice: each lane's shadow (R25), each
engine's owed list (R149), the dirty set (R95), and the rooms touched and the slots named by a check's entries (R11, R141). A
composition wants no line twice (R69). -/
def State.orderOk (s : State) : Bool :=
  (allFour.all fun n => Tab.sorted (s.laneAt n).shadow && Tab.sorted (s.engine n).owed) && sortedIndices s.comp.dirty
    && (s.comp.composition.all fun c => noRepeat c.wanted)
    && s.lane.batch.check.all fun c => Tab.sorted c.work.touched && sortedIndices c.work.named

/-- The commit queue holds each lane that is not OPEN once, and no other; only its head may be APPLYING (R34, R35). -/
def State.lanesOk (s : State) : Bool :=
  noRepeat (s.lane.commit.map (·.val))
    && (allFour.all fun n => ((s.laneAt n).state != .opened) == s.lane.commit.contains n)
    && (s.lane.commit.drop 1).all fun n => (s.laneAt n).state = .queued

/-- The face queue lists of a line: no sign stands twice, and each is a sign of the line, PENDING or REFRESHING, that does
not carry the DEFERRED mark (R110, R114). -/
def State.lineListsOk (s : State) (n : Fin 4) : Bool :=
  let l := s.lists.get n
  let all := l.urgent ++ l.content ++ l.tick
  noRepeat all
    && all.all fun i => (s.sign i).any fun g =>
      g.defn.line = n && (g.state = .pending || g.state = .refreshing) && !g.deferred

/-- The slot an engine works for: its request's, or that of an exchange chosen or in flight and not to be ignored. -/
def Engine.servesSlot (e : Engine) : Option Nat :=
  match e.state with
  | .requesting i => some i
  | .ready x => exchangeSlot x
  | .running x false => exchangeSlot x
  | _ => Option.none

/-- An engine has chosen a FACE, or has one in flight that is not to be ignored. -/
def Engine.sendsFace (e : Engine) : Bool :=
  match e.state with
  | .ready (.face _ _ _ _ _ _) => true
  | .running (.face _ _ _ _ _ _) false => true
  | _ => false

/-- An engine works for a defined sign of its own line; one it sends a FACE is SENDING and carries no mark (R142, R144). -/
def State.engineWorkOk (s : State) (n : Fin 4) : Bool :=
  (s.engine n).servesSlot.all fun i => (s.sign i).any fun g =>
    g.defn.line = n && (!(s.engine n).sendsFace || (g.state = .sending && !g.deferred))

/-- The face queue lists and the engines' work fit the signs' states, and no SENDING sign is composed from the dirty set
(R98, R114). -/
def State.listsOk (s : State) : Bool :=
  (allFour.all fun n => s.lineListsOk n && s.engineWorkOk n)
    && s.comp.composition.all fun c => c.engine.isSome || (s.sign c.slot).all fun g => g.state ≠ .sending

/-! ## The status area and memory -/

/-- The number a record names its place by lies in its range (section 12.2). -/
def Rec.inRange : Rec → Bool
  | .ringEntry place _ _ _ _ => place < 32
  | .ringCount place _ => place < 32
  | .room i => i < 256
  | .health slot => slot < 512
  | _ => true

/-- The records of the start-up fill that wait: the record the fill is at, and only while there is a fill (R193). -/
def State.fillOk (s : State) : Bool :=
  let fills := s.post.waiting.filter fun it => it.producer = .fill
  (s.post.backlog.all fun it => it.producer ≠ .fill)
    && match s.setup.phase with
      | .fill k => fills.length ≤ 1 && fills.all fun it => it.record = fillRecord k
      | _ => fills.isEmpty

/-- Every queued post names a word of the posted span, and every record on its way to the queue a place of its area
(section 12.2, R165, R169). -/
def State.postsOk (s : State) : Bool :=
  (s.path.postQueue.all fun e => 0x500 ≤ e.offset && e.offset < 0x2800 && e.offset % 2 = 0)
    && ((s.post.waiting ++ s.post.backlog).all fun it => it.record.inRange) && s.fillOk

/-- A lane's captured words are the entry words memory holds: all of them while it is QUEUED or APPLYING, and while it is OPEN
those with no partial mark (R26, R27, R28). -/
def State.laneMirrors (s : State) (n : Fin 4) : Bool :=
  (s.laneAt n).shadow.all fun e => e.1 < 127
    && (((s.laneAt n).state = .opened && e.2.partMark)
      || e.2.value = readWord s.mem (s.regionAddress (0x100 + n.val * 0x100 + 2 * e.1)))

/-- A cached line holds the bytes its pool line has in memory (R68, R74). -/
def State.lineMirrors (s : State) (e : CacheLine) : Bool :=
  e.line < 1536 && e.data = (List.range 32).map fun i => readByte s.mem (s.regionAddress (0x4000 + 0x20 * e.line + i))

/-- A fill that is not spoiled has read the words its pool line has in memory; one that is HOLDING has read all sixteen, any
other fewer (R71, R72, R76). -/
def State.fillMirrors (s : State) (f : Fill) : Bool :=
  f.line < 1536 && (if f.state = .holding then f.data.length = 16 else f.data.length < 16)
    && (f.spoiled
      || f.data = (List.range f.data.length).map fun i => readWord s.mem (s.regionAddress (0x4000 + 0x20 * f.line + 2 * i)))

/-- The copies the part keeps of words the host writes are those words as memory holds them: captured entry words, cached
lines, and what pending fills have read. A composition wants lines of the pool alone. While the part is held with power
good, when the host's writes cross unclassified, it keeps no copy (R164, R192). -/
def State.mirrorsOk (s : State) : Bool :=
  (allFour.all s.laneMirrors) && s.cache.lines.all s.lineMirrors && s.cache.fills.all s.fillMirrors
    && (s.comp.composition.all fun c => c.wanted.all fun l => l < 1536)
    && (!s.pins.pgood || s.active
      || ((allFour.all fun n => (s.laneAt n).shadow.isEmpty) && s.cache.lines.isEmpty && s.cache.fills.isEmpty))

/-- The queue holds the words a record shows, each the newest value queued for its word (R169, R172). -/
def State.posted (s : State) (r : Rec) : Bool :=
  let l := recordLayout s r
  (List.range l.2.1.length).all fun k => s.queuedValue (l.1 + 2 * k + if l.2.2 then 2 else 0) = l.2.1[k]?

/-- A record has been handed: it is on its way to the queue, where it will take the values it shows as it enters, or it has
entered with the values it shows (R169). -/
def State.handed (s : State) (r : Rec) : Bool :=
  ((s.post.waiting ++ s.post.backlog).any fun it => it.record = r) || s.posted r

/-- A step from `s` to `t` hands one record of a block anew: it joins the tail of the post queue, with the values it then shows,
or it joins the records on their way there (R169, R170). -/
def State.handsOne (s t : State) (p : Producer) (r : Rec) : Prop :=
  let l := recordLayout t r
  let stamp := s.stamp l.1
  let onTheWay := fun (u : State) =>
    ((u.post.waiting ++ u.post.backlog).filter fun it => it.producer = p && it.record = r).length
  t.path.postQueue = s.path.postQueue
      ++ entriesFrom l.1 (if l.2.2 then [stamp + 1] ++ l.2.1 ++ [stamp + 2] else l.2.1)
    ∨ onTheWay t = onTheWay s + 1

/-- A step from `s` to `t` hands no record of a stamped place: as many are on their way as before, and the place's stamp is as
it was, or one of them has entered the queue, which advances the stamp (R169, R170). -/
def State.handsNone (s t : State) (r : Rec) : Prop :=
  let off := (recordLayout s r).1
  let onTheWay := fun (u : State) => ((u.post.waiting ++ u.post.backlog).filter fun it => it.record = r).length
  (t.stamp off = s.stamp off ∧ onTheWay t = onTheWay s)
    ∨ (t.stamp off = s.stamp off + 2 ∧ onTheWay t + 1 = onTheWay s)

/-! ## Frames -/

/-- Every block but setup, clock timebase, pins, path base and the waiting records is in its starting state (R190); of a port
nothing is said here of what it still drives of a frame cut off (R136). The values an OFF port holds are the model's choice,
log entry 33. -/
def State.blocksAtStart (s : State) : Prop :=
  s.path.postQueue = [] ∧ s.path.fillQueue = [] ∧ s.path.insist = 0 ∧ s.path.stretchNext = false
    ∧ s.path.lastChoicePost = false ∧ s.path.hold = .none
    ∧ s.setup.control = 0 ∧ s.setup.enable = 0 ∧ s.setup.pendingMatrix = false ∧ s.setup.ready = false
    ∧ s.clock = .start s.clock.timebase
    ∧ s.store = { sessions := [], rooms := [] }
    ∧ s.lane = { lanes := .all .empty, commit := [], batch := .none }
    ∧ s.cache = { lines := [], fills := [] }
    ∧ s.comp = { composition := none, dirty := [], servicePos := 511, lastServed := 3 }
    ∧ s.signs = [] ∧ s.lists = .all { urgent := [], content := [], tick := [] }
    ∧ s.engines = .all .stopped ∧ (∀ n, s.port n = { Port.stopped with cut := (s.port n).cut })
    ∧ { s.post with waiting := [] } = PostUnit.empty

/-- The part has started afresh from `s`: the straps sampled, every setup word at its default, the start-up fill at its
first record (R163, R192). -/
def State.startedFrom (s t : State) (straps : Fin 16) (minute : Bool) : Prop :=
  t.active = true ∧ t.blocksAtStart ∧ t.path.base = straps ∧ t.pins.minute = minute ∧ t.setup = SetupLogic.default
    ∧ t.post.waiting = [.firstFill] ∧ t.clock.timebase = s.clock.timebase + 1 ∧ t.mem = s.mem ∧ t.attn = false
    ∧ ∀ n, (t.port n).cut = []

/-- What a port goes on driving, from the start of its BREAK, when its line is stopped (R136): of a BREAK some first part, or the
BREAK and whole characters of the frame. Which of them is open (log entry 36). A port that is not SENDING drives no more than
before. -/
def Port.cutsTo (p : Port) (l : List Level) : Prop :=
  (p.state = .sending →
    (∃ i, i ≤ 35 ∧ l = breakLevels.take i) ∨ ∃ k, k ≤ p.frame.length ∧ l = frameLevels (p.frame.take k))
  ∧ (p.state ≠ .sending → l = if p.state = .off then p.cut else [])

/-- A text handle valid as a required handle (R2): ceil(length / 32) lines from its line lie in the pool. -/
def handleValid (h : Handle) : Prop :=
  1 ≤ h.len ∧ h.len ≤ 64 ∧ h.line ≤ 1535 ∧ h.line + (h.len + 31) / 32 ≤ 1536

/-- A room of the working copy is HELD (R58). -/
def Work.roomHeld (w : Work) (i : Nat) : Prop := ∃ r, Tab.get w.rooms i = some r ∧ r.state = .held

/-- A room of the working copy is UNDEFINED (R5). -/
def Work.noRoom (w : Work) (i : Nat) : Prop := Tab.get w.rooms i = none

/-- The check of a batch ends in a refusal of the entry at an offset (R37). -/
def State.refuses (s : State) (c : Check) (off : Nat) (code : Code) (first : Nat := 0) : State :=
  s.setBatch (.checking { c with refusal := some { code := code, failing := off, first := first, second := 0 } })

/-- The entry at hand passes, and the check goes on with a working copy (R37). -/
def State.passes (s : State) (c : Check) (w : Work) : State :=
  s.setBatch (.checking { c with passed := c.passed + 1, work := w })

/-- The working copy `t` is `w` but for its sessions and its touched rooms: those of the list are touched by the entry at
`off`, and no other (R11). -/
def Work.changesSessions (w t : Work) (off : Nat) (rooms : List Nat) : Prop :=
  t = { w with sessions := t.sessions, touched := t.touched }
    ∧ ∀ r, Tab.get t.touched r = if rooms.contains r then some off else Tab.get w.touched r

/-- The working copy `t` is `w` but for one room slot, which the entry at `off` touches (R11). -/
def Work.changesRoom (w t : Work) (off room : Nat) (r : Room) : Prop :=
  t = { w with rooms := t.rooms, touched := t.touched }
    ∧ (∀ i, Tab.get t.rooms i = if i = room then some r else Tab.get w.rooms i)
    ∧ ∀ i, Tab.get t.touched i = if i = room then some off else Tab.get w.touched i

/-- Session `x` precedes session `y` in chain order: by start, then by id (R3). -/
def chainPrecedes (x y : Nat × Session) : Prop := x.2.start < y.2.start ∨ (x.2.start = y.2.start ∧ x.1 < y.1)

/-- Sessions `x` and `y` of a working copy, in chain order in a room, conflict under a matrix (R9). -/
def Work.conflict (w : Work) (m : BitVec 10) (room : Nat) (x y : Nat × Session) : Prop :=
  x ∈ w.sessions ∧ y ∈ w.sessions ∧ x.2.room = room ∧ y.2.room = room ∧ chainPrecedes x y
    ∧ x.2.cancelled = false ∧ y.2.cancelled = false ∧ x.2.start < y.2.fin ∧ y.2.start < x.2.fin
    ∧ m.getLsbD (pairBit x.2.cls y.2.cls) = true

/-- A touched room of a working copy is STRICT (R10). -/
def Work.touchedStrict (w : Work) (room off : Nat) : Prop :=
  (room, off) ∈ w.touched ∧ ∃ r, Tab.get w.rooms room = some r ∧ r.policy = .strict

/-- No STRICT room of a working copy holds two sessions in conflict (R10). -/
def Work.strictFree (w : Work) (m : BitVec 10) : Prop :=
  ∀ i r, Tab.get w.rooms i = some r → r.policy = .strict → ∀ x y, ¬ w.conflict m i x y

/-- A room no entry of a check has touched is the store's: the policies are equal, and the sessions are (R11, R12). -/
def Check.agrees (s : State) (c : Check) : Prop :=
  ∀ i, Tab.get c.work.touched i = none →
    (Tab.get c.work.rooms i).map (·.policy) = (s.room i).map (·.policy)
      ∧ ∀ e : Nat × Session, e.2.room = i → (e ∈ c.work.sessions ↔ e ∈ s.store.sessions)

/-- No STRICT room of the store in force holds two sessions in conflict (R10), nor does one of a working copy whose apply
step has been asked for; a check's working copy agrees with the store in the rooms its entries have not touched; and while
the matrix is still to be read the store is empty and no batch is in work (R190). -/
def State.strictOk (s : State) : Prop :=
  s.workingCopy.strictFree s.setup.matrix
    ∧ (∀ c, s.lane.batch.check = some c → c.agrees s)
    ∧ (∀ c, s.lane.batch = .applyRequested c → c.work.strictFree s.setup.matrix)
    ∧ (s.reloading = true →
      s.store.sessions = [] ∧ s.lane.batch.check = none ∧ ∀ n, (s.laneAt n).state ≠ .applying)

/-- An apply takes the defined sign of a slot from its place on line `n`: an entry named the slot, and the sign is dropped, made
new, or moved to another line or address (R118, R141, R158). -/
def State.leavesLine (s : State) (w : Work) (n : Fin 4) (i : Nat) : Bool :=
  w.named.contains i && (s.sign i).any fun g => g.defn.line = n
    && (w.dropped.contains i || match Tab.get w.signs i with
      | none => true
      | some d => g.defn.line ≠ d.line || g.defn.address ≠ d.address)

/-- A new sign of a definition (R92, R107, R141): UNSEEN, with nothing recorded of it, a blank shown record in the OPEN style,
and its credits at its kind's cap. -/
def SetupLogic.unseenSign (u : SetupLogic) (d : SignDef) : Sign :=
  { defn := d, state := .unseen, sequence := 0, failures := 0, seen := .none, unconfirmed := none, timer := none
    credits := (u.kinds.get d.kind).cap, deferred := false
    shown :=
      { fullDigest := 0, structDigest := 0, style := u.styles.opened, noted := [], textLines := [], resync := true } }

/-- A batch's result is handed to the post unit at the end of the waiting records, with the lane's flag to raise after
it; the lane stays APPLYING until it is enqueued (R43, R45). -/
def State.resultHanded (s : State) (p : Producer) (n : Fin 4) (r : LaneResult) : State :=
  (s.setBatch .resulting).setWaiting
    (s.post.waiting ++ [{ producer := p, record := .laneResult n r true, raises := (Event.lane n).mask }])

/-- A handed record raises the flags once it is taken (R178, R179). -/
def Item.carries (it : Item) (f : BitVec 13) : Bool :=
  it.raises &&& f = f || (match it.record with
    | .raise g => g &&& f = f
    | _ => false)

/-- The flags are on their way to the internal copy: some record that waits, or that a block has still to hand, raises
them. -/
def State.raising (s : State) (f : BitVec 13) : Bool := (s.post.waiting ++ s.post.backlog).any fun it => it.carries f

/-- From `s` to `t` exactly the events that meet `p` have been raised; what was on its way to the internal copy still is. -/
def State.raisesOnly (s t : State) (p : Event → Prop) : Prop :=
  ∀ e : Event, t.raising e.mask = true ↔ s.raising e.mask = true ∨ p e

/-- The state with the insist count and the mark of the stretch that follows from it put aside (R174). -/
def State.uncounted (s : State) : State := { s with path := { s.path with insist := 0, stretchNext := false } }

/-- `t` is `u` but for the insist count and the mark of the stretch that follows from it (R174). -/
def State.countsOnly (u t : State) : Prop := t.uncounted = u.uncounted

/-- The state with the post queue, the stamps, the records on their way to the queue and the insist count put aside. -/
def State.bare (s : State) : State :=
  { s with
    path := { s.path with postQueue := [], insist := 0, stretchNext := false }
    post := { s.post with stamps := [], waiting := [], backlog := [] } }

/-- `t` is `u` but for the post queue and the records on their way to it, and the insist count (R169, R174). -/
def State.postsOnly (u t : State) : Prop := t.bare = u.bare

/-- The state with all that a composition, an exchange or the marking of signs works on put aside: the text cache, the
compositor, the sign table, the face queues, the engines and the ports, the fill queue, and what `bare` puts aside. -/
def State.resting (s : State) : State :=
  { s.bare with
    path := { s.bare.path with fillQueue := [] }
    cache := { lines := [], fills := [] }
    comp := { composition := none, dirty := [], servicePos := 0, lastServed := 0 }
    signs := [], lists := .all { urgent := [], content := [], tick := [] }
    engines := .all .stopped, ports := .all .stopped }

/-- `t` is `u` but for what compositions, exchanges and the marking of signs work on, and the records they hand. -/
def State.worksOnly (u t : State) : Prop := t.resting = u.resting

/-- As `postsOnly`, with one engine's state as `t` has it: an engine that waits for its records may become IDLE (R144). -/
def State.postsOnlyAt (n : Fin 4) (u t : State) : Prop :=
  State.postsOnly (u.setEngine n { u.engine n with state := (t.engine n).state }) t

/-- The commands that are one host access (section 9.1). -/
def isHostAccess : Instr → Bool
  | .restart | .entryWordWrite .. | .entryByteWrite .. | .postWord .. | .discard .. | .snoop .. | .ackMerge _
  | .readCountWrite _ | .guardedWrite .. | .segSet _ | .segClear _ | .clockRun _ | .minuteSrc _ | .quiet _ | .cacheOff _
  | .enable _ | .matrix _ | .style .. | .kind .. | .setupWordWrite .. | .hostWrite .. | .hostRead .. => true
  | _ => false

/-- The byte address and the data of the write a command is, where it is a host write (sections 9.1, 12.2, 12.3). -/
def State.busWrite (s : State) : Instr → Option (Nat × Drive)
  | .entryWordWrite n k v => some (s.regionAddress (0x100 + n.val * 0x100 + 2 * k.val), .both v)
  | .entryByteWrite n k high v =>
    some (s.regionAddress (0x100 + n.val * 0x100 + 2 * k.val), if high then .high v else .low v)
  | .postWord n q e => some (s.regionAddress (0x1FE + n.val * 0x100), .both (postWordOf q false e))
  | .discard n q e => some (s.regionAddress (0x1FE + n.val * 0x100), .both (postWordOf q true e))
  | .snoop l w d => some (s.regionAddress (0x4000 + 0x20 * l.val + 2 * w.val), d)
  | .ackMerge d => some (s.regionAddress 0x580, d)
  | .readCountWrite d => some (s.regionAddress 0x682, d)
  | .guardedWrite w d => some (s.regionAddress (0x500 + 2 * w.val), d)
  | .segSet n => some (s.regionAddress 0, .both (wordOf (0x8000 + 2 ^ n.val)))
  | .segClear n => some (s.regionAddress 0, .both (wordOf (2 ^ n.val)))
  | .clockRun on => some (s.regionAddress 0, .both (wordOf ((if on then 0x8000 else 0) + 0x10)))
  | .minuteSrc on => some (s.regionAddress 0, .both (wordOf ((if on then 0x8000 else 0) + 0x20)))
  | .quiet on => some (s.regionAddress 0, .both (wordOf ((if on then 0x8000 else 0) + 0x40)))
  | .cacheOff on => some (s.regionAddress 0, .both (wordOf ((if on then 0x8000 else 0) + 0x80)))
  | .enable v => some (s.regionAddress 2, .both v)
  | .restart => some (s.regionAddress 4, .both 1)
  | .matrix v => some (s.regionAddress 6, .both v)
  | .style st v => some (s.regionAddress (styleOffset st), .both v)
  | .kind k v => some (s.regionAddress (kindOffset k), .both v)
  | .setupWordWrite w v => some (s.regionAddress (plainOffset w), .both v)
  | .hostWrite a d => some (2 * a.toNat, d)
  | _ => none

/-- A reply is good for a STATUS, an ACCEPT or a BUSY of a sign (R127, R128): no framing error, the sync value, the kind,
the address and the CRC. -/
def goodReply (r : Reply) (kind : Byte) (address : Nat) : Prop :=
  r.framing = false ∧ r.sync = 0x9B#8 ∧ r.kind = kind ∧ r.address = byteOf address
    ∧ crc [r.kind, r.address, r.sequence, r.flags] = joinBytes r.crcHigh r.crcLow

/-- The four flags a reply carries (R127, section 12.7). -/
def replyShows (r : Reply) : SignFlags :=
  { btn := r.flags.getLsbD 0, pwr := r.flags.getLsbD 1, lowb := r.flags.getLsbD 2, jam := r.flags.getLsbD 3 }

/-- Whether a reply is a good answer to an exchange (R128). -/
def answers (x : Exchange) (r : Reply) : Prop :=
  match x with
  | .sweep _ _ _ _ => False
  | .query _ address => goodReply r 0x61#8 address
  | .clear _ address _ => goodReply r 0x61#8 address
  | .face _ address sequence _ _ _ => r.sequence = sequence ∧ (goodReply r 0x62#8 address ∨ goodReply r 0x63#8 address)

/-- The commands that may raise an event: the end of a batch, a refused post word and a held result raise LANEn; a press CALL; a
bad reply LOST; a presence sweep BACK; a good reply POWERUP, LOWBAT and FAULT; a dropped write GUARD; a counted minute and an
apply CLOCK_END; the last record of the start-up fill READY (R30, R33, R43, R50, R54, R148, R150, R151, R160, R166, R194). -/
def mayRaise (c : Instr) : Event → Prop
  | .lane _ => c = .batchDecode ∨ c = .checkEnd ∨ c = .apply ∨ c = .recordEnqueue ∨ isHostAccess c = true
  | .call => ∃ n, c = .callPress n
  | .lost => ∃ n, c = .answerTimeout n ∨ c = .replyGap n ∨ ∃ r, c = .reply n r
  | .back => ∃ n m, c = .slotsEnd n m
  | .powerup | .lowbat | .fault => ∃ n r, c = .reply n r
  | .guard => isHostAccess c = true
  | .clockEnd => c = .timebaseExpiry ∨ c = .minuteEdge ∨ c = .apply
  | .ready => c = .recordEnqueue

/-- The owed list with work owed to an address: a new entry, or the flags added to the entry it has (R149). -/
def owedWith (t : Tab ClearMask) (address : Nat) (m : ClearMask) : Tab ClearMask :=
  let old := (Tab.get t address).getD { btn := false, jam := false }
  Tab.set t address { btn := old.btn || m.btn, jam := old.jam || m.jam }

/-- A host write has been dropped: the last guarded address is its address and width, memory and every block are as they
were, and the record of the address is in the queue or on its way to it. GUARD is raised, unless a record of a write dropped
before it still waits; then that record carries the newer address, and the raise it carries tells of both (R166, R179). -/
def State.droppedAt (u t : State) (addr : Nat) (byte : Bool) : Prop :=
  State.postsOnly { u with post := { u.post with guardAddress := addr, guardByte := byte } } t
    ∧ ((t.path.postQueue.any fun e => e.offset = guardOffset && e.value = wordOf addr) || t.post.waiting.any Item.isGuard)
      = true
    ∧ ((∀ it ∈ u.post.waiting, it.isGuard = true → it.carries Event.guard.mask = true) →
      t.raising Event.guard.mask = true)
    ∧ ∀ e, e ≠ Event.guard → (t.raising e.mask = true ↔ u.raising e.mask = true)

end Sys2Proof.Machine
end

