-- ==== Sys2Proof/Certificates/Slice0/Obligations.lean ====
section
/-! DEFINITION. The statements of the model, each citing the rule or section of the manual it says. -/

open Sys2Proof Sys2Proof.Machine

/-! ## The step -/

/-- The queue's front command is run on the state with the queue's rest. The model's own here: the queue of commands, log
entry 4. -/
def Obligations.StepRunsFrontCommand : Prop :=
  ∀ (c : Instr) (rest : List Instr) (s : State), s.pending = c :: rest → step s = exec c { s with pending := rest }

/-- Every command answers a next state, and none touches the queue of commands. The model's own here: the queue of
commands and the absence of stops, log entries 4 and 11. -/
def Obligations.CommandsLeaveTheQueue : Prop :=
  ∀ (c : Instr) (s : State), ∃ t, exec c s = .next t ∧ t.pending = s.pending

/-- Section 12.4, R36: an entry's words decode to the entry, whatever words follow. A batch of whole entries decodes to them,
each with the offset of its first word; one whose entry at an offset has an unknown kind, or runs past the words, fails with
FORMAT at that offset with the count of the entries before it. -/
def Obligations.EntryDecodeInvertsEncode : Prop :=
  (∀ (e : Entry) (rest : List Word), entryWf e = true → decodeEntry (encodeEntry e ++ rest) = some (e, rest))
  ∧ ∀ es : List Entry, (∀ e ∈ es, entryWf e = true) →
    decodeBatch (es.flatMap encodeEntry)
        = .entries (es.mapIdx fun i e => (((es.take i).flatMap encodeEntry).length, e))
    ∧ ∀ (w : Word) (tail : List Word), (∀ n, entryLength w = some n → tail.length + 1 < n) →
      decodeBatch (es.flatMap encodeEntry ++ w :: tail) = .format (es.flatMap encodeEntry).length es.length

/-! ## Invariants -/

/-- The state after reset meets every invariant stated below. -/
def Obligations.ResetMeetsTheInvariants : Prop :=
  State.reset.memoryCanonical = true ∧ State.reset.postQueueFits = true ∧ State.reset.setup.inRange = true
    ∧ State.reset.storeOk = true ∧ State.reset.signsOk = true ∧ State.reset.creditsOk = true
    ∧ State.reset.cacheOk = true ∧ State.reset.post.ringOk = true ∧ State.reset.path.insist ≤ 255
    ∧ State.reset.orderOk = true ∧ State.reset.strictOk
    ∧ State.reset.lanesOk = true ∧ State.reset.listsOk = true
    ∧ State.reset.postsOk = true ∧ State.reset.mirrorsOk = true

/-- R187, R190: every effective setup value stays in its range. R104: every defined sign's credits stay between 0 and the
current cap of its kind. -/
def Obligations.StepKeepsSetupAndCreditsInRange : Prop :=
  ∀ s t : State, step s = .next t →
    (s.setup.inRange = true → t.setup.inRange = true) ∧ (s.creditsOk = true → t.creditsOk = true)

/-- R1, R3, R5: the session and room tables in force, and those of a check's working copy, hold what the store may hold: a
session's room is defined, and so is the room it was moved from. -/
def Obligations.StepKeepsStoreTables : Prop :=
  ∀ s t : State, s.storeOk = true → step s = .next t → t.storeOk = true

/-- R139: no two defined signs share a plate line and an address, in the sign table and in a check's working copy. -/
def Obligations.StepKeepsSignAddressesDistinct : Prop :=
  ∀ s t : State, s.signsOk = true → step s = .next t → t.signsOk = true

/-- R34, R68, R71, R159, R169, R174, R175: the commit queue, the text cache, its pending fills and the fill queue, the call
ring, the post queue and the insist count stay within their bounds, with nothing held twice. -/
def Obligations.StepKeepsQueuesBounded : Prop :=
  ∀ s t : State, s.postQueueFits = true → s.cacheOk = true → s.post.ringOk = true → s.path.insist ≤ 255 →
    s.lanesOk = true → step s = .next t →
    t.postQueueFits = true ∧ t.cacheOk = true ∧ t.post.ringOk = true ∧ t.path.insist ≤ 255 ∧ t.lanesOk = true

/-- Every step keeps memory in its one form (log entry 3), and the shadows, the owed lists, the dirty set and the rooms
touched by a check in order with no key twice; a composition wants no line twice (R25, R69, R95, R149). The order and the
form in which the model holds them are its own. -/
def Obligations.StepKeepsTablesInOrder : Prop :=
  ∀ s t : State, s.memoryCanonical = true → s.orderOk = true → step s = .next t →
    t.memoryCanonical = true ∧ t.orderOk = true

/-- R9, R10, R40, R41: no step puts two sessions in conflict in force in a STRICT room: neither an entry, nor an apply, nor a
change of policy, nor a restart under another matrix. -/
def Obligations.StepKeepsStrictRoomsFree : Prop :=
  ∀ s t : State, s.storeOk = true → s.orderOk = true → s.strictOk → step s = .next t → t.strictOk

/-- R114: a sign is on at most one face queue list, of its own plate line, and only while it is PENDING or REFRESHING. R110,
R142, R144: a listed sign carries no mark, and an engine works for a sign of its own line, SENDING while it holds its FACE.
-/
def Obligations.StepKeepsFaceListsDisjoint : Prop :=
  ∀ s t : State, s.signsOk = true → s.listsOk = true → step s = .next t → t.listsOk = true

/-- R28, R68, R74: while a lane is QUEUED or APPLYING its shadow equals its entry words in memory, and every cached line
equals its pool line in memory; so do the words with no partial mark of an OPEN lane, and what a pending fill that is not
spoiled has read. Every queued post names a word of the posted span, every record on its way to the queue a place of its area
(R165, R169). -/
def Obligations.StepKeepsMemoryMirrors : Prop :=
  ∀ s t : State, s.storeOk = true → s.signsOk = true → s.cacheOk = true → s.orderOk = true → s.post.ringOk = true →
    s.postsOk = true → s.mirrorsOk = true → step s = .next t → t.postsOk = true ∧ t.mirrorsOk = true

/-! ## Power, reset and restart -/

/-- R192, R176: at POWER_ON every block is held in its starting state until power-on ends; at PGOOD_FALL power is no longer
good and nothing else changes. That memory and the region base keep their values over a fall of PGOOD is the model's choice
(log entries 3 and 20); so are the rate, the timeout and the quiet kind an OFF port holds (log entry 33). The reset pin taken
puts every block in its starting state, and a port drives nothing more. Memory keeps every byte, but for the word of a post
write cut short on the bus: each of its two bytes is old or new (log entry 2). -/
def Obligations.PowerAndResetHoldEveryBlock : Prop :=
  ∀ s : State,
    (∃ t, exec .powerOn s = .next t ∧ t.pins = { s.pins with pgood := true, powerOnEnded := false } ∧ t.blocksAtStart
      ∧ t.post.waiting = [] ∧ t.attn = false ∧ t.active = false ∧ t.mem = s.mem ∧ t.path.base = s.path.base
      ∧ ∀ n, (t.port n).cut = [])
    ∧ (∃ t, exec .pgoodFall s = .next t ∧ t = { s with pins := { s.pins with pgood := false } } ∧ t.attn = false)
    ∧ ∀ own : Bool, ∃ t, exec (.resetAssert own) s = .next t ∧ t.pins = { s.pins with resetLow := true } ∧ t.blocksAtStart
      ∧ t.post.waiting = [] ∧ t.attn = false ∧ t.path.base = s.path.base ∧ t.setup.matrix = s.setup.matrix
      ∧ (∀ n, (t.port n).cut = [])
      ∧ (own = false ∨ s.ownChoice ≠ some .postWrite → t.mem = s.mem)
      ∧ ∀ e q, s.path.postQueue = e :: q →
        (∀ a, a ≠ s.regionAddress e.offset → a ≠ s.regionAddress e.offset + 1 → readByte t.mem a = readByte s.mem a)
        ∧ (readByte t.mem (s.regionAddress e.offset) = readByte s.mem (s.regionAddress e.offset)
          ∨ readByte t.mem (s.regionAddress e.offset) = loByte e.value)
        ∧ (readByte t.mem (s.regionAddress e.offset + 1) = readByte s.mem (s.regionAddress e.offset + 1)
          ∨ readByte t.mem (s.regionAddress e.offset + 1) = hiByte e.value)

/-- R163, R192: the end of power-on, and the release of the reset pin, sample the straps, take every default and begin the
start-up fill; while the other still holds the part, the straps are sampled and the part stays held. The model's own here:
the count of timebase intervals, log entry 6; that the fill's records wait to enter one by one, log entry 25; that the MINUTE
level the part starts with comes with the command, log entry 28; and the rate, the timeout and the quiet kind an OFF port
holds, log entry 33. -/
def Obligations.StartTakesDefaults : Prop :=
  ∀ (straps : Fin 16) (minute : Bool) (s : State), s.pins.pgood = true →
    (s.pins.powerOnEnded = false → s.pins.resetLow = false →
      ∃ t, exec (.powerOnEnd straps minute) s = .next t ∧ State.startedFrom s t straps minute)
    ∧ (s.pins.powerOnEnded = true → s.pins.resetLow = true →
      ∃ t, exec (.resetRelease straps minute) s = .next t ∧ State.startedFrom s t straps minute)
    ∧ (s.pins.powerOnEnded = false → s.pins.resetLow = true →
      (exec (.powerOnEnd straps minute) s
        = .next { s with pins := { s.pins with powerOnEnded := true }, path := { s.path with base := straps } })
      ∧ exec (.resetRelease straps minute) s
        = .next { s with pins := { s.pins with resetLow := false }, path := { s.path with base := straps } })

/-- R190: a word write of 1 to RESTART, once an insisting own access has been made, is forwarded, puts every block in its
starting state, raises the restart count modulo 65,536 and begins the reload; the region base, the pins and the setup
values but for CONTROL and ENABLE are kept. A frame being sent is cut off after the character in progress (R136). The model's
own here: the count of timebase intervals, log entry 6; that the access of the restart itself is not counted, so that the
insist count is 0 after it, log entry 23; the rate, the timeout and the quiet kind an OFF port holds, log entry 33; and the
place of the cut, log entry 36. -/
def Obligations.RestartBeginsTheReload : Prop :=
  ∀ s : State, s.active = true →
    ∃ t, exec .restart s = .next t ∧ t.blocksAtStart ∧ t.post.waiting = [] ∧ t.attn = false
      ∧ t.setup = { s.beginHost.setup with
          control := 0, enable := 0, pendingMatrix := false, ready := false, phase := .reload 0
          restartCount := (s.beginHost.setup.restartCount + 1) % 65536 }
      ∧ t.path.base = s.path.base ∧ t.pins = s.pins ∧ t.clock.timebase = s.beginHost.clock.timebase + 1
      ∧ t.mem = writeWord s.beginHost.mem (s.regionAddress 0x0004) 1
      ∧ ∀ n, (s.beginHost.port n).cutsTo (t.port n).cut

/-- R191: the reload's read of word `k`, when an own access may be made, takes the word memory holds, each field clamped, as
the effective value; MATRIX is taken as the matrix in force. The next word follows, or after the seventeenth the start-up
fill. The model's own here: codes past a range, log entry 30. -/
def Obligations.ReloadTakesTheWordInMemory : Prop :=
  ∀ (k : Nat) (s : State), s.active = true → s.setup.phase = .reload k → k ≤ 16 → s.path.hold ≠ .granted →
    ∃ t, exec .setupRead s = .next t ∧ t.mem = s.mem ∧ t.path.insist = 0
      ∧ (k = 0 → t.setup = { s.setup with
          matrix := matrixOf (readWord s.mem (s.regionAddress 0x0006)), pendingMatrix := false, phase := .reload 1 })
      ∧ (∀ st, setupWordAt (6 + 2 * k) = some (.style st) → t.setup = { s.setup with
          styles := s.setup.styles.set st (styleOf (readWord s.mem (s.regionAddress (6 + 2 * k))))
          phase := .reload (k + 1) })
      ∧ (∀ kd, setupWordAt (6 + 2 * k) = some (.kind kd) → t.setup = { s.setup with
          kinds := s.setup.kinds.set kd (kindOf (readWord s.mem (s.regionAddress (6 + 2 * k))))
          phase := .reload (k + 1) })
      ∧ ∀ p, setupWordAt (6 + 2 * k) = some (.plain p) → t.setup =
          { s.setup.takePlain p (readWord s.mem (s.regionAddress (6 + 2 * k))) with
            phase := if k < 16 then .reload (k + 1) else .fill 0 }

/-- R164: while the part is held, by power-on or by the reset pin, every host access crosses unclassified: a write is written
to memory on its enabled bytes and does nothing else, so a RESTART of 1 requests nothing; a read returns memory's bytes on
the enabled ones. -/
def Obligations.HeldPartForwardsUnclassified : Prop :=
  ∀ s : State, s.pins.pgood = true → s.active = false →
    (∀ c, isHostAccess c = true → (s.busWrite c).isSome = true ∨ ∃ a upper lower, c = .hostRead a upper lower)
    ∧ (∀ c a d, s.busWrite c = some (a, d) → exec c s = .next { s with mem := writeDrive s.mem a d })
    ∧ ∀ a upper lower, exec (.hostRead a upper lower) s = .next { s with path := { s.path with
        hostData :=
          { upper := if upper then some (readByte s.mem (2 * a.toNat + 1)) else none
            lower := if lower then some (readByte s.mem (2 * a.toNat)) else none } } }

/-! ## Edit lanes -/

/-- R26, R27: a word write to an entry word of an OPEN lane is forwarded and captured whole; a byte write is forwarded as a
byte and captured into its byte of the slot, with the partial mark, the other byte of a slot that holds a word kept. Of the
other byte of a slot that held nothing, nothing is said (log entry 1).
R32: a post word with DISCARD set is forwarded and empties the lane's capture; its sequence and end offset are not
examined. -/
def Obligations.EntryWritesAreCaptured : Prop :=
  ∀ (n : Fin 4) (k : Fin 127) (s : State), s.active = true → (s.laneAt n).state = .opened →
    let b := s.beginHost
    let l := s.laneAt n
    let a := s.regionAddress (0x100 + n.val * 0x100 + 2 * k.val)
    (∀ q e, ∃ t, exec (.discard n q e) s = .next t ∧
      State.countsOnly
        ({ b with mem := writeWord b.mem (s.regionAddress (0x1FE + n.val * 0x100)) (postWordOf q true e) }.setLane n
          { l with shadow := [] }) t)
    ∧ (∀ v, ∃ t, exec (.entryWordWrite n k v) s = .next t ∧
      State.countsOnly
        ({ b with mem := writeWord b.mem a v }.setLane n
          { l with shadow := Tab.set l.shadow k.val { value := v, partMark := false } }) t)
    ∧ ∀ high v, ∃ t x, exec (.entryByteWrite n k high v) s = .next t ∧
      State.countsOnly
        ({ b with mem := writeByte b.mem (if high then a + 1 else a) v, freeIndex := t.freeIndex }.setLane n
          { l with shadow := Tab.set l.shadow k.val { value := x, partMark := true } }) t
      ∧ (if high then hiByte x else loByte x) = v
      ∧ ∀ y, Tab.get l.shadow k.val = some y →
        (if high then loByte x else hiByte x) = if high then loByte y.value else hiByte y.value

/-- R28, R166: a write, word or byte, to any word of a QUEUED or APPLYING lane is dropped: memory, the lanes and every block
but the post unit are as they were, the written address is the last guarded address, and GUARD is raised. The model's own
here: the list of waiting records and raises, log entries 15 and 16. -/
def Obligations.ClosedLaneWritesAreDropped : Prop :=
  ∀ (n : Fin 4) (s : State), s.active = true → (s.laneAt n).state ≠ .opened →
    let b := s.beginHost
    let a := fun k => s.regionAddress (0x100 + n.val * 0x100 + 2 * k)
    (∀ (k : Fin 127) v, ∃ t, exec (.entryWordWrite n k v) s = .next t ∧ State.droppedAt b t (a k.val) false)
    ∧ (∀ (k : Fin 127) high v, ∃ t, exec (.entryByteWrite n k high v) s = .next t ∧
      State.droppedAt b t (if high then a k.val + 1 else a k.val) true)
    ∧ (∀ q e, ∃ t, exec (.postWord n q e) s = .next t ∧ State.droppedAt b t (a 127) false)
    ∧ (∀ q e, ∃ t, exec (.discard n q e) s = .next t ∧ State.droppedAt b t (a 127) false)
    ∧ ∀ w : BitVec 19, 2 * w.toNat = a 127 → ∀ v,
      (∃ t, exec (.hostWrite w (.low v)) s = .next t ∧ State.droppedAt b t (a 127) true)
        ∧ ∃ t, exec (.hostWrite w (.high v)) s = .next t ∧ State.droppedAt b t (a 127 + 1) true

/-- R29, R30, R33, R44: a post word of an OPEN lane is forwarded and refused with PARTIAL at the lowest partial word of
its span, else with MISMATCH at the failing offset R30 gives. The result is handed to the post unit, or held while the
part is RESTARTING (log entry 19), and the lane is else as it was. The model's own here: the list of waiting records, log
entry 15. -/
def Obligations.BadPostsAreRefused : Prop :=
  ∀ (n : Fin 4) (q : Byte) (e : BitVec 7) (s : State),
    s.active = true → (s.laneAt n).state = .opened → Tab.sorted (s.laneAt n).shadow = true →
    let b := s.beginHost
    let l := s.laneAt n
    let u : State := { b with mem := writeWord b.mem (s.regionAddress (0x1FE + n.val * 0x100)) (postWordOf q false e) }
    let refused := fun (code : Code) (failing : Nat) =>
      let r : LaneResult :=
        { sequence := q, expected := l.expected, code := code, endOffset := e.toNat, failing := failing
          entries := 0, passed := 0, starts := 0, first := 0, second := 0 }
      ∃ t, exec (.postWord n q e) s = .next t ∧
        State.countsOnly
          (if b.setup.phase = .running then
            u.setWaiting
              (u.post.waiting ++ [{ producer := .post, record := .laneResult n r false, raises := (Event.lane n).mask }])
          else u.setLane n { l with heldResult := some r }) t
    let partialAt := fun (k : Nat) => ∃ x, Tab.get l.shadow k = some x ∧ x.partMark = true
    let written := fun (k : Nat) => (Tab.get l.shadow k).isSome = true
    (∀ k, k ≤ e.toNat → partialAt k → (∀ j, j < k → ¬ partialAt j) → refused .partialWord k)
    ∧ ((∀ k, k ≤ e.toNat → ¬ partialAt k) →
      (q ≠ l.expected ∨ e.toNat = 127 → refused .mismatch 127)
      ∧ (q = l.expected → e.toNat ≠ 127 →
        (∀ k, k ≤ e.toNat → ¬ written k → (∀ j, j < k → written j) → refused .mismatch k)
        ∧ ((∀ k, k ≤ e.toNat → written k) →
          ∀ k, e.toNat < k → written k → (∀ j, e.toNat < j → j < k → ¬ written j) → refused .mismatch k)))

/-- R31, R35: a post word whose sequence is the expected one, whose span is written whole with no partial word, and beyond
which nothing is written, is accepted: the expected sequence advances, the lane joins the tail of the commit queue, and it
is QUEUED, or APPLYING when the queue was empty and the part is RUNNING. Its capture is kept. -/
def Obligations.GoodPostIsQueued : Prop :=
  ∀ (n : Fin 4) (e : BitVec 7) (s : State),
    s.active = true → (s.laneAt n).state = .opened → e.toNat ≠ 127 →
    (∀ m ∈ s.lane.commit.head?, (s.laneAt m).state = .applying ∨ s.setup.phase ≠ .running) →
    (∀ k, k ≤ e.toNat → ∃ x, Tab.get (s.laneAt n).shadow k = some x ∧ x.partMark = false) →
    (∀ x ∈ (s.laneAt n).shadow, x.1 ≤ e.toNat ∧ x.2.partMark = false) →
    let b := s.beginHost
    let l := s.laneAt n
    let q := l.expected
    ∃ t, exec (.postWord n q e) s = .next t ∧
      State.countsOnly
        { b with
          mem := writeWord b.mem (s.regionAddress (0x1FE + n.val * 0x100)) (postWordOf q false e)
          lane := { b.lane with
            commit := b.lane.commit ++ [n]
            lanes := b.lane.lanes.set n
              { l with
                state := if s.lane.commit = [] ∧ b.setup.phase = .running then .applying else .queued
                expected := q + 1
                accepted := some (q, e.toNat) } } } t

/-! ## Decode and check -/

/-- R35, R36: the head of the commit queue is APPLYING and its batch is decoded from its shadow once the part is RUNNING.
Whole entries begin the check on a working copy of the state in force; a fault of layout ends the batch with FORMAT. The
model's own here: the list of waiting records, log entry 15. -/
def Obligations.HeadBatchIsDecoded : Prop :=
  ∀ (n : Fin 4) (rest : List (Fin 4)) (s : State),
    s.active = true → s.setup.phase = .running → s.lane.commit = n :: rest → (s.laneAt n).state ≠ .opened →
    s.lane.batch = .none →
    let l := s.laneAt n
    let u := s.setLane n { l with state := .applying }
    let p := l.accepted.getD (0, 0)
    let words := (List.range (p.2 + 1)).map fun k => ((Tab.get l.shadow k).map (·.value)).getD 0
    (∀ es, decodeBatch words = .entries es →
      exec .batchDecode s = .next (u.setBatch (.checking
        { entries := es, passed := 0, refusal := none, starts := 0
          work :=
            { sessions := s.store.sessions, rooms := s.store.rooms, now := s.clock.now, origin := s.clock.origin
              clock := s.clock.state, signs := s.signDefs, touched := [], named := [], dropped := []
              setClock := false } })))
    ∧ ∀ failing count, decodeBatch words = .format failing count →
      exec .batchDecode s = .next ((u.setBatch .resulting).setWaiting (s.post.waiting ++
        [ { producer := .post
            record := .laneResult n
              { sequence := p.1, expected := l.expected, code := .format, endOffset := p.2, failing := failing
                entries := count, passed := 0, starts := 0, first := 0, second := 0 } true
            raises := (Event.lane n).mask } ]))

/-! ## The ten entry kinds, each on the working copy `c.work` of the check that has come to it -/

/-- R14, R15: a PUT SESSION entry is tested in R14's order; one that passes makes the record its fields give, replacing any
record of its id. The rooms touched are R11's; that an entry that leaves its record as it was touches them too is the model's
choice, log entry 35. -/
def Obligations.PutSessionIsTestedAndPut : Prop :=
  ∀ (c : Check) (off cls id room start fin : Nat) (title presenter : Handle) (s : State),
    s.active = true → s.nextEntry = some (c, off, .putSession cls id room start fin title presenter) →
    let w := c.work
    let old := Tab.get w.sessions id
    let range := id = 0 ∨ 3 < cls ∨ fin ≤ start ∨ ¬ handleValid title
      ∨ (presenter.len ≠ 0 ∧ ¬ handleValid presenter) ∨ fin + s.setup.retain ≤ w.now
    let full := old = none ∧ 1024 ≤ w.sessions.length
    let held := (∃ o, old = some o ∧ w.roomHeld o.room) ∨ w.roomHeld room
    (range → exec .putSession s = .next (s.refuses c off .range))
    ∧ (¬ range → w.noRoom room → exec .putSession s = .next (s.refuses c off .unknownRoom))
    ∧ (¬ range → ¬ w.noRoom room → full → exec .putSession s = .next (s.refuses c off .full))
    ∧ (¬ range → ¬ w.noRoom room → ¬ full → held → exec .putSession s = .next (s.refuses c off .held))
    ∧ (¬ range → ¬ w.noRoom room → ¬ full → ¬ held → ∃ t k, exec .putSession s = .next (s.passes c t)
      ∧ classOf cls = some k
      ∧ w.changesSessions t off
          (room :: ((old.map (·.room)).toList ++ (old.bind (·.movedFrom)).toList))
      ∧ ∀ i, Tab.get t.sessions i = if i = id then
          some { room := room, cls := k, start := start, fin := fin, title := title, presenter := presenter
                 movedFrom := none, cancelled := false }
        else Tab.get w.sessions i)

/-- R16, R17: a DROP SESSION entry is tested in R16's order; one that passes removes the record. A CANCEL SESSION entry is
tested in R17's order; one that passes cancels the record, or changes nothing where it is cancelled already. R18: a MOVE
SESSION entry is tested in R18's order; one that passes moves the record, whose moved-from becomes the room left, or absent
when the move takes it back to the room it was moved from. -/
def Obligations.DropCancelAndMoveSession : Prop :=
  ∀ (c : Check) (off id : Nat) (s : State), s.active = true →
    let w := c.work
    (s.nextEntry = some (c, off, .dropSession id) →
      (Tab.get w.sessions id = none → exec .dropSession s = .next (s.refuses c off .unknownId))
      ∧ ∀ e, Tab.get w.sessions id = some e →
        (w.roomHeld e.room → exec .dropSession s = .next (s.refuses c off .held))
        ∧ (¬ w.roomHeld e.room → ∃ t, exec .dropSession s = .next (s.passes c t)
          ∧ w.changesSessions t off (e.room :: e.movedFrom.toList)
          ∧ ∀ i, Tab.get t.sessions i = if i = id then none else Tab.get w.sessions i))
    ∧ (s.nextEntry = some (c, off, .cancelSession id) →
      (Tab.get w.sessions id = none → exec .cancelSession s = .next (s.refuses c off .unknownId))
      ∧ ∀ e, Tab.get w.sessions id = some e →
        (w.roomHeld e.room → exec .cancelSession s = .next (s.refuses c off .held))
        ∧ (¬ w.roomHeld e.room → e.cancelled = true → exec .cancelSession s = .next (s.passes c w))
        ∧ (¬ w.roomHeld e.room → e.cancelled = false → ∃ t, exec .cancelSession s = .next (s.passes c t)
          ∧ w.changesSessions t off (e.room :: e.movedFrom.toList)
          ∧ ∀ i, Tab.get t.sessions i = if i = id then some { e with cancelled := true } else Tab.get w.sessions i))
    ∧ ∀ room, s.nextEntry = some (c, off, .moveSession id room) →
      (Tab.get w.sessions id = none → exec .moveSession s = .next (s.refuses c off .unknownId))
      ∧ ∀ e, Tab.get w.sessions id = some e →
        (room = e.room → exec .moveSession s = .next (s.refuses c off .range))
        ∧ (room ≠ e.room → w.noRoom room → exec .moveSession s = .next (s.refuses c off .unknownRoom))
        ∧ (room ≠ e.room → ¬ w.noRoom room → w.roomHeld e.room ∨ w.roomHeld room →
          exec .moveSession s = .next (s.refuses c off .held))
        ∧ (room ≠ e.room → ¬ w.noRoom room → ¬ w.roomHeld e.room → ¬ w.roomHeld room →
          ∃ t, exec .moveSession s = .next (s.passes c t)
            ∧ w.changesSessions t off (e.room :: room :: e.movedFrom.toList)
            ∧ ∀ i, Tab.get t.sessions i = if i = id then
                some { e with room := room, movedFrom := if e.movedFrom = some room then none else some e.room }
              else Tab.get w.sessions i)

/-- R19, R20: a SHIFT SESSION entry is tested in R19's order; one that passes adds the delta to the start and the end of the
target, or with CASCADE of every session of its room that starts no earlier, and changes no other session. -/
def Obligations.ShiftSessionShiftsTheSet : Prop :=
  ∀ (c : Check) (off : Nat) (cascade : Bool) (id : Nat) (delta : Int) (s : State),
    s.active = true → s.nextEntry = some (c, off, .shiftSession cascade id delta) → Tab.sorted c.work.sessions = true →
    let w := c.work
    let range := delta = 0 ∨ delta < -240 ∨ 240 < delta
    (range → exec .shiftSession s = .next (s.refuses c off .range))
    ∧ (¬ range → Tab.get w.sessions id = none → exec .shiftSession s = .next (s.refuses c off .unknownId))
    ∧ ∀ e, ¬ range → Tab.get w.sessions id = some e →
      let inSet := fun (i : Nat) (x : Session) => Tab.get w.sessions i = some x
        ∧ if cascade then x.room = e.room ∧ e.start ≤ x.start else i = id
      let tooFar := ∃ i x, inSet i x ∧ ((x.start : Int) + delta < 0 ∨ 65535 < (x.fin : Int) + delta)
      (tooFar → exec .shiftSession s = .next (s.refuses c off .range))
      ∧ (¬ tooFar → w.roomHeld e.room → exec .shiftSession s = .next (s.refuses c off .held))
      ∧ (¬ tooFar → ¬ w.roomHeld e.room → ∃ t, exec .shiftSession s = .next (s.passes c t)
        ∧ t = { w with sessions := t.sessions, touched := t.touched }
        ∧ (∀ i x, inSet i x → ∃ y, Tab.get t.sessions i = some y
          ∧ (y.start : Int) = x.start + delta ∧ ((y.fin : Int) = x.fin + delta ∨ (x.fin : Int) + delta < 0)
          ∧ y = { x with start := y.start, fin := y.fin })
        ∧ (∀ i, (∀ x, ¬ inSet i x) → Tab.get t.sessions i = Tab.get w.sessions i)
        ∧ (∀ r, r = e.room ∨ (∃ i x, inSet i x ∧ x.movedFrom = some r) → Tab.get t.touched r = some off)
        ∧ ∀ r, r ≠ e.room → (∀ i x, inSet i x → x.movedFrom ≠ some r) → Tab.get t.touched r = Tab.get w.touched r)

/-- R21: a PUT ROOM entry is tested once; one that passes defines an UNDEFINED slot as CLOSED, or replaces a defined slot's
name, zone, policy and changeover and keeps its other fields, with no change where all four are equal.
R53: a SET CLOCK entry is tested once; one that passes sets the working copy's now, origin and clock state, and touches no
room. -/
def Obligations.PutRoomAndSetClock : Prop :=
  ∀ (c : Check) (off : Nat) (s : State), s.active = true →
    (∀ (policy room : Nat) (name : Handle) (zone changeover : Nat),
      s.nextEntry = some (c, off, .putRoom policy room name zone changeover) →
      let w := c.work
      let range := ¬ handleValid name ∨ 15 < zone ∨ 1 < policy ∨ 60 < changeover
      (range → exec .putRoom s = .next (s.refuses c off .range))
      ∧ (¬ range → ∃ p, policyOf policy = some p
        ∧ (w.noRoom room → ∃ t, exec .putRoom s = .next (s.passes c t)
          ∧ w.changesRoom t off room
            { name := name, zone := zone, policy := p, changeover := changeover, state := .closed, current := 0, next := 0
              overlap := false })
        ∧ ∀ r, Tab.get w.rooms room = some r →
          let new := { r with name := name, zone := zone, policy := p, changeover := changeover }
          (new = r → exec .putRoom s = .next (s.passes c w))
          ∧ (new ≠ r → ∃ t, exec .putRoom s = .next (s.passes c t) ∧ w.changesRoom t off room new)))
    ∧ ∀ minute origin, s.nextEntry = some (c, off, .setClock minute origin) →
      (1439 < origin → exec .setClock s = .next (s.refuses c off .range))
      ∧ (origin ≤ 1439 → exec .setClock s = .next (s.passes c { c.work with
          now := minute, origin := origin, clock := if minute = 65535 then .ended else .running, setClock := true }))

/-- R59, R60: a ROOM STATE entry (actions 0 OPEN, 1 CLOSE, 2 HOLD, 3 RELEASE) is tested in R59's order; one that passes
changes the room's state as R60's table gives, or changes nothing. -/
def Obligations.RoomStateFollowsTheTable : Prop :=
  ∀ (c : Check) (off action room : Nat) (s : State),
    s.active = true → s.nextEntry = some (c, off, .roomState action room) →
    let w := c.work
    (3 < action → exec .roomState s = .next (s.refuses c off .range))
    ∧ (action ≤ 3 → w.noRoom room → exec .roomState s = .next (s.refuses c off .unknownRoom))
    ∧ ∀ r, action ≤ 3 → Tab.get w.rooms room = some r →
      let becomes := fun (st : RoomState) =>
        ∃ t, exec .roomState s = .next (s.passes c t) ∧ w.changesRoom t off room { r with state := st }
      let stays := exec .roomState s = .next (s.passes c w)
      (action = 0 → if r.state = .closed then becomes .opened else stays)
      ∧ (action = 1 → if r.state = .closed then stays else becomes .closed)
      ∧ (action = 2 → if r.state = .held then stays else becomes .held)
      ∧ (action = 3 → if r.state = .held then becomes .opened else stays)

/-- R139: a PUT SIGN entry is tested in R139's order; one that passes gives the slot its definition, lines and lookahead
clamped, and touches no room. CLASH names the other sign's slot. -/
def Obligations.PutSignDefinesTheSlot : Prop :=
  ∀ (c : Check) (off kind slot line lines address lookahead : Nat) (targets : List Nat) (s : State),
    s.active = true → s.nextEntry = some (c, off, .putSign kind slot line lines address lookahead targets) →
    Tab.sorted c.work.signs = true →
    let w := c.work
    let n := targets.length
    let range := 511 < slot ∨ 2 < kind ∨ 3 < line ∨ 127 < address
      ∨ (kind ≠ 2 ∧ ∃ r ∈ targets, 255 < r) ∨ (kind = 0 ∧ n ≠ 1) ∨ (kind = 1 ∧ (n < 1 ∨ 8 < n)) ∨ (kind = 2 ∧ n ≠ 1)
    let unknown := kind ≠ 2 ∧ ∃ r ∈ targets, w.noRoom r
    let holds := fun (i : Nat) => ∃ d, Tab.get w.signs i = some d ∧ i ≠ slot ∧ d.line.val = line ∧ d.address = address
    (range → exec .putSign s = .next (s.refuses c off .range))
    ∧ (¬ range → unknown → exec .putSign s = .next (s.refuses c off .unknownRoom))
    ∧ (¬ range → ¬ unknown → ∀ i, holds i → (∀ j, j < i → ¬ holds j) →
      exec .putSign s = .next (s.refuses c off .clash i))
    ∧ (¬ range → ¬ unknown → (∀ i, ¬ holds i) → ∃ (t : Work) (d : SignDef), exec .putSign s = .next (s.passes c t)
      ∧ t = { w with signs := t.signs, named := t.named }
      ∧ (∀ i, Tab.get t.signs i = if i = slot then some d else Tab.get w.signs i)
      ∧ (∀ i, i ∈ t.named ↔ i = slot ∨ i ∈ w.named)
      ∧ d.line.val = line ∧ d.address = address
      ∧ d.lines = max 1 (min 8 lines) ∧ d.lookahead = min 720 lookahead
      ∧ (kind = 0 → targets.map Targets.door = [d.targets])
      ∧ (kind = 1 → d.targets = .corridor targets)
      ∧ (kind = 2 → targets.map (fun m => Targets.lobby (wordOf m)) = [d.targets]))

/-- R140: a DROP SIGN entry is tested in R140's order; one that passes makes the slot EMPTY in the working copy, and the
batch has named and dropped it. -/
def Obligations.DropSignEmptiesTheSlot : Prop :=
  ∀ (c : Check) (off slot : Nat) (s : State), s.active = true → s.nextEntry = some (c, off, .dropSign slot) →
    let w := c.work
    (511 < slot → exec .dropSign s = .next (s.refuses c off .range))
    ∧ (slot ≤ 511 → Tab.get w.signs slot = none → exec .dropSign s = .next (s.refuses c off .unknownSign))
    ∧ (slot ≤ 511 → Tab.get w.signs slot ≠ none → ∃ t : Work, exec .dropSign s = .next (s.passes c t)
      ∧ t = { w with signs := t.signs, named := t.named, dropped := t.dropped }
      ∧ (∀ i, Tab.get t.signs i = if i = slot then none else Tab.get w.signs i)
      ∧ (∀ i, i ∈ t.named ↔ i = slot ∨ i ∈ w.named)
      ∧ ∀ i, i ∈ t.dropped ↔ i = slot ∨ i ∈ w.dropped)

/-! ## The end of a batch -/

/-- R37, R43, R44: a check that found a refusal ends the batch with its code, failing offset, counts and ids, and nothing
else changes but that the result is handed to the post unit. R9, R10, R40: after every entry has passed, the touched
STRICT rooms are judged. With no conflict in them the batch asks for the apply step. Else it ends with OVERLAP, for the
lowest room in conflict, the first session in chain order that conflicts with a later one and the first such later one, at
the offset of the last entry that touched the room. The model's own here: the list of waiting records, log entry 15. -/
def Obligations.CheckEndJudgesTheBatch : Prop :=
  ∀ (n : Fin 4) (c : Check) (s : State),
    s.active = true → s.lane.batch = .checking c → s.applyingLane = some n → s.clock.storeSignals = 0 →
    let w := c.work
    let conflict := w.conflict s.setup.matrix
    let l := s.laneAt n
    let p := l.accepted.getD (0, 0)
    (∀ r, c.refusal = some r → exec .checkEnd s = .next (s.resultHanded .post n
      { sequence := p.1, expected := l.expected, code := r.code, endOffset := p.2, failing := r.failing
        entries := c.entries.length, passed := c.passed, starts := c.starts, first := r.first, second := r.second }))
    ∧ (c.refusal = none → c.passed = c.entries.length → Tab.sorted w.touched = true → Tab.sorted w.sessions = true →
      ((∀ i off, w.touchedStrict i off → ∀ x y, ¬ conflict i x y) →
        exec .checkEnd s = .next (s.setBatch (.applyRequested c)))
      ∧ ∀ i off x y, w.touchedStrict i off → conflict i x y →
        (∀ j o, w.touchedStrict j o → j < i → ∀ u v, ¬ conflict j u v) →
        (∀ u v, conflict i u v → ¬ chainPrecedes u x) →
        (∀ v, conflict i x v → ¬ chainPrecedes v y) →
        exec .checkEnd s = .next (s.resultHanded .post n
          { sequence := p.1, expected := l.expected, code := .overlap, endOffset := p.2, failing := off
            entries := c.entries.length, passed := c.passed, starts := c.starts, first := x.1, second := y.1 }))

/-- R41, R42, R54, R61, R97: the apply step puts the working copy's sessions, rooms, clock and sign definitions in force;
after a SET CLOCK sessions that have ended retain minutes ago leave; touched rooms are derived, and every room in use when
the clock differs; signs that target a touched room or that an entry named are dirty; the APPLIED result is handed, behind
the room records.
R107, R118, R141, R158: of the slots an entry named, one left EMPTY loses its sign and its dirty mark; one EMPTY before, or
that a DROP SIGN named, has a new sign; one moved is UNSEEN, or DEFERRED where it carried the mark; one redefined keeps its
state; the credits of each are its cap. A sign dropped, made new or moved leaves its list, its owed entry is removed, and its
engine's work is withdrawn or its outcome to be ignored.
Memory, setup and every other block are as they were. The model's own here: that the step waits for the records of the rooms,
the sign table and the credit logic before it, the retire after a SET CLOCK that changes nothing, the count of timebase
intervals, the lists of records on their way, the waiting raise and the style of a blank record, log entries 13, 17, 6, 15,
16 and 27; and that the counts of the step and of its retire are posted once (ChangedValuesAreHanded), log entry 41. -/
def Obligations.ApplyPutsTheBatchInForce : Prop :=
  ∀ (n : Fin 4) (c : Check) (s : State), s.active = true →
    s.lane.batch = .applyRequested c → s.applyingLane = some n → s.clock.storeSignals = 0 →
    s.comp.composition = none → s.effectsBusy = false → s.signsOk = true → s.orderOk = true →
    let w := c.work
    let differs := s.clock.now ≠ w.now ∨ s.clock.origin ≠ w.origin ∨ s.clock.state ≠ w.clock
    let l := s.laneAt n
    let p := l.accepted.getD (0, 0)
    let fresh := s.setup.unseenSign
    ∃ t, exec .apply s = .next t
      ∧ (differs → t.clock =
          { s.clock with now := w.now, origin := w.origin, state := w.clock, timebase := s.clock.timebase + 1 })
      ∧ (¬ differs → t.clock = s.clock)
      ∧ t.store.sessions
          = (if w.setClock then w.sessions.filter fun e => t.clock.now < e.2.fin + s.setup.retain else w.sessions)
      ∧ (∀ i, Tab.get w.rooms i = none → Tab.get t.store.rooms i = none)
      ∧ (∀ i r, Tab.get w.rooms i = some r →
        let fixed := r.state = .closed ∨ r.state = .held
        let touched := Tab.get w.touched i ≠ none
        (fixed → touched → Tab.get t.store.rooms i = some { r with current := 0, next := 0, overlap := false })
        ∧ (¬ fixed → touched ∨ differs →
          Tab.get t.store.rooms i = some (deriveRoom (chainOf t.store.sessions i) t.clock.now r))
        ∧ (¬ touched → fixed ∨ ¬ differs → Tab.get t.store.rooms i = some r))
      ∧ t.signDefs = w.signs
      ∧ (∀ i, i ∉ w.named → t.sign i = s.sign i)
      ∧ (∀ i, i ∈ w.named → ∀ d, Tab.get w.signs i = some d →
        (s.sign i = none ∨ i ∈ w.dropped → t.sign i = some (fresh d))
        ∧ ∀ g, s.sign i = some g → i ∉ w.dropped →
          (g.defn.line ≠ d.line ∨ g.defn.address ≠ d.address → t.sign i
            = some { fresh d with deferred := g.deferred, state := if g.deferred then .deferred else .unseen })
          ∧ (g.defn.line = d.line → g.defn.address = d.address → t.sign i
            = some { g with defn := d, credits := (s.setup.kinds.get d.kind).cap }))
      ∧ (∀ m r, (t.lists.get m).get r = ((s.lists.get m).get r).filter fun i => !s.leavesLine w m i)
      ∧ (∀ m,
        let e := s.engine m
        let f := t.engine m
        f = { e with state := f.state, owed := f.owed }
        ∧ (∀ a, (∃ i g, s.leavesLine w m i = true ∧ s.sign i = some g ∧ g.defn.address = a) → Tab.get f.owed a = none)
        ∧ (∀ a, (∀ i g, s.leavesLine w m i = true → s.sign i = some g → g.defn.address ≠ a) →
          Tab.get f.owed a = Tab.get e.owed a)
        ∧ (∀ i, s.leavesLine w m i = true →
          (e.state = .requesting i → f.state = .idle)
          ∧ (∀ x, exchangeSlot x = some i → e.state = .ready x → f.state = .idle)
          ∧ ∀ x ignored, exchangeSlot x = some i → e.state = .running x ignored → f.state = .running x true)
        ∧ ((∀ i, s.leavesLine w m i = true → e.servesSlot ≠ some i) → f.state = e.state))
      ∧ (∀ i g, s.sign i = some g → t.sign i = none → i ∉ t.comp.dirty)
      ∧ (∀ i, i ∈ s.comp.dirty → s.sign i = none ∨ t.sign i ≠ none → i ∈ t.comp.dirty)
      ∧ (∀ i g, t.sign i = some g →
        i ∈ w.named ∨ differs
          ∨ (∃ r, Tab.get w.touched r ≠ none
            ∧ targetsRoom g.defn r (zoneOf s.store.rooms r ++ zoneOf t.store.rooms r) = true) →
        i ∈ t.comp.dirty)
      ∧ State.raisesOnly s t (fun e =>
          (e = .clockEnd ∧ differs ∧ w.clock = .ended ∧ s.clock.state ≠ .ended) ∨ e = .lane n)
      ∧ t.lane = { s.lane with batch := .resulting }
      ∧ (∃ (before behind : List Item) (it : Item), t.post.waiting ++ t.post.backlog = before ++ it :: behind
        ∧ (∀ x ∈ behind, x.producer = .rooms → ∀ i, x.record ≠ .room i)
        ∧ it =
          { producer := .rooms
            raises := (Event.lane n).mask
            record := .laneResult n
              { sequence := p.1, expected := l.expected, code := .applied, endOffset := p.2, failing := 255
                entries := c.entries.length, passed := c.passed, starts := c.starts, first := 0, second := 0 } true })
      ∧ State.postsOnly
          { s with
            clock := t.clock, store := t.store, lane := t.lane, signs := t.signs, lists := t.lists, engines := t.engines
            comp := { s.comp with dirty := t.comp.dirty } } t

/-- R44, R45, R170, R42, R43, R35: a lane result that heads the waiting records enters a post queue that has its 16 places
whole, between the stamps of its block, and raises its lane's flag. One that ends a batch opens its lane with its capture
cleared, and the next lane of the commit queue is the head, APPLYING while the part is RUNNING. Without the 16 places it
waits, and every lane stays as it is (R45, R169). The model's own here: waits that change nothing, the list of waiting
records and raises, log entries 9, 15 and 16. -/
def Obligations.LaneResultEntersAndFreesTheLane : Prop :=
  ∀ (p : Producer) (n : Fin 4) (r : LaneResult) (ends : Bool) (rest : List Item) (s : State),
    s.active = true → p = .post ∨ p = .rooms →
    s.post.waiting = { producer := p, record := .laneResult n r ends, raises := (Event.lane n).mask } :: rest →
    let off := 0x600 + 0x20 * n.val
    let stamp := s.stamp off
    (64 < s.path.postQueue.length + 16 → exec .laneResult s = .next s)
    ∧ (s.path.postQueue.length + 16 ≤ 64 → ∃ t, exec .laneResult s = .next t
      ∧ t.path.postQueue = s.path.postQueue ++ entriesFrom off
          ([ stamp + 1
           , wordOf (r.sequence.toNat + 256 * r.expected.toNat)
           , wordOf (resultCode r.code + 256 * r.endOffset)
           , wordOf (r.failing + 256 * r.starts)
           , wordOf (r.entries + 256 * r.passed)
           , wordOf r.first
           , wordOf r.second
           , 0, 0, 0, 0, 0, 0, 0, 0, stamp + 2 ])
      ∧ t.stamp off = stamp + 2
      ∧ t.raising (Event.lane n).mask = true
      ∧ State.raisesOnly s t (fun _ => False)
      ∧ State.postsOnly { s with lane := t.lane } t
      ∧ (ends = false → t.lane = s.lane)
      ∧ (ends = true → t.lane.batch = .none ∧ t.lane.commit = s.lane.commit.filter (· ≠ n)
        ∧ t.laneAt n = { s.laneAt n with state := .opened, shadow := [], accepted := none }
        ∧ ∀ m, m ≠ n → t.laneAt m =
          if s.setup.phase = .running ∧ t.lane.commit.head? = some m ∧ (s.laneAt m).state = .queued then
            { s.laneAt m with state := .applying }
          else s.laneAt m))

/-! ## Clock, rooms and credit -/

/-- R49, R50, R51, R96, R177: an expiry of the timebase begins its next interval, and while MINUTE_SRC is clear it is a
minute event; an edge of MINUTE from a low level is one while MINUTE_SRC is set. A counted minute event advances now, ends
the clock at 65,535 with CLOCK_END, hands on its signal and marks every defined sign dirty; one that is not counted
changes nothing more. A level held high gives no second edge, and a fall only brings the level down. The model's own here:
the count of timebase intervals, steps not due, the waiting raise and the level as an operand, log entries 6, 9, 16 and
28. -/
def Obligations.MinuteEventsAreCounted : Prop :=
  ∀ s : State, s.active = true →
    let counted := s.clock.state = .running ∧ s.setup.clockRun = true
    let advanced := fun (u t : State) =>
      t.clock =
        { u.clock with
          now := s.clock.now + 1
          state := if s.clock.now + 1 = 65535 then .ended else .running
          storeSignals := s.clock.storeSignals + 1
          creditSignals := s.clock.creditSignals + 1 }
      ∧ (∀ i, i ∈ t.comp.dirty ↔ i ∈ s.comp.dirty ∨ (s.sign i).isSome = true)
      ∧ State.postsOnly { u with clock := t.clock, comp := { s.comp with dirty := t.comp.dirty } } t
      ∧ State.raisesOnly s t (fun e => e = .clockEnd ∧ s.clock.now + 1 = 65535)
    let expired : State := { s with clock := { s.clock with timebase := s.clock.timebase + 1 } }
    let risen : State := { s with pins := { s.pins with minute := true } }
    (counted → s.setup.minuteSrc = false → ∃ t, exec .timebaseExpiry s = .next t ∧ advanced expired t)
    ∧ (¬ counted ∨ s.setup.minuteSrc = true → exec .timebaseExpiry s = .next expired)
    ∧ (s.pins.minute = false → counted → s.setup.minuteSrc = true → ∃ t, exec .minuteEdge s = .next t ∧ advanced risen t)
    ∧ (s.pins.minute = false → ¬ counted ∨ s.setup.minuteSrc = false → exec .minuteEdge s = .next risen)
    ∧ (s.pins.minute = true → exec .minuteEdge s = .next s)
    ∧ exec .minuteFall s = .next { s with pins := { s.pins with minute := false } }

/-- R22, R38, R51, R63: the answer to a minute signal retires the sessions whose end + retain is not above now, derives
every room in use in what is left, starts a check in progress over on a fresh working copy, and marks dirty every sign
that targets a room whose state changed. That it waits for the room records of the answer before it is R62's.
R106, R112: a refill gives one credit to every sign below its cap whose kind's period divides now, marks dirty each sign that
carries the mark and so goes from 0 to 1, and changes nothing else of any sign. The model's own here: the list of waiting
records, log entry 15; that a refill waits for the credit logic's own records before it, and reads the period as it stands
then, log entries 29 and 32. -/
def Obligations.MinuteSignalsAreAnswered : Prop :=
  ∀ s : State, s.active = true →
    (0 < s.clock.storeSignals → s.roomsBusy = false →
      ∃ t, exec .minuteSignal s = .next t
        ∧ t.clock = { s.clock with storeSignals := s.clock.storeSignals - 1 }
        ∧ t.store.sessions = s.store.sessions.filter (fun e => s.clock.now < e.2.fin + s.setup.retain)
        ∧ (∀ i, Tab.get t.store.rooms i = (Tab.get s.store.rooms i).map fun r =>
            if r.state = .closed ∨ r.state = .held then r
            else deriveRoom (chainOf t.store.sessions i) s.clock.now r)
        ∧ (∀ c, s.lane.batch.check = some c → t.lane = { s.lane with
            batch := .checking { c with
              passed := 0, work := t.workingCopy, refusal := none, starts := min 255 (c.starts + 1) } })
        ∧ (s.lane.batch.check = none → t.lane = s.lane)
        ∧ (∀ i g r x y, s.sign i = some g → Tab.get s.store.rooms r = some x → Tab.get t.store.rooms r = some y →
          x.state ≠ y.state → targetsRoom g.defn r [y.zone] = true → i ∈ t.comp.dirty)
        ∧ (∀ i, i ∈ s.comp.dirty → i ∈ t.comp.dirty)
        ∧ State.postsOnly
            { s with clock := t.clock, store := t.store, lane := t.lane, comp := { s.comp with dirty := t.comp.dirty } } t)
    ∧ (0 < s.clock.creditSignals → s.producerBusy .credit = false →
      let refilled := fun (g : Sign) =>
        s.clock.now % (s.setup.paramsOf g.defn).period = 0 ∧ g.credits < (s.setup.paramsOf g.defn).cap
      ∃ t, exec .refill s = .next t
        ∧ t.clock = { s.clock with creditSignals := s.clock.creditSignals - 1 }
        ∧ (∀ i g, s.sign i = some g →
          (refilled g → t.sign i = some { g with credits := g.credits + 1 }) ∧ (¬ refilled g → t.sign i = some g))
        ∧ (∀ i, s.sign i = none → t.sign i = none)
        ∧ (∀ i, i ∈ s.comp.dirty → i ∈ t.comp.dirty)
        ∧ (∀ i g, s.sign i = some g → refilled g → g.deferred = true → g.credits = 0 → i ∈ t.comp.dirty)
        ∧ (∀ i, i ∈ t.comp.dirty → i ∈ s.comp.dirty
          ∨ ∃ g, (i, g) ∈ s.signs ∧ refilled g ∧ g.deferred = true ∧ g.credits = 0)
        ∧ State.postsOnly
            { s with clock := t.clock, signs := t.signs, comp := { s.comp with dirty := t.comp.dirty } } t)

/-- R56, R57: a derived room's state, current session, next session and overlap flag follow from its chain at now; its
definition is kept. R3: the chain of a room holds exactly the room's sessions, ordered by start and, among equal starts, by
id. -/
def Obligations.DerivedRoomFollowsItsChain : Prop :=
  ∀ (sessions : Tab Session) (i now : Nat) (r : Room), Tab.sorted sessions = true →
    let d := deriveRoom (chainOf sessions i) now r
    let ofRoom := fun (k : Nat) (x : Session) => (k, x) ∈ sessions ∧ x.room = i ∧ x.cancelled = false
    let running := fun k x => ofRoom k x ∧ x.start ≤ now ∧ now < x.fin
    let turning := ∃ k x, ofRoom k x ∧ x.fin ≤ now ∧ now < x.fin + r.changeover
    let later := fun k x => ofRoom k x ∧ now < x.start
    (∀ e, e ∈ chainOf sessions i ↔ e ∈ sessions ∧ e.2.room = i)
    ∧ (chainOf sessions i).Pairwise chainPrecedes
    ∧ (∀ k x, running k x → (∀ j y, running j y → ¬ chainPrecedes (j, y) (k, x)) → d.state = .inSession ∧ d.current = k)
    ∧ ((∀ k x, ¬ running k x) → turning → d.state = .changeover ∧ d.current = 0)
    ∧ ((∀ k x, ¬ running k x) → ¬ turning → d.state = .opened ∧ d.current = 0)
    ∧ (∀ k x, later k x → (∀ j y, later j y → ¬ chainPrecedes (j, y) (k, x)) → d.next = k)
    ∧ ((∀ k x, ¬ later k x) → d.next = 0)
    ∧ (d.overlap = true ↔ ∃ j y k x, j ≠ k ∧ running j y ∧ running k x)
    ∧ d = { r with state := d.state, current := d.current, next := d.next, overlap := d.overlap }

/-! ## Faces -/

/-- R82 to R87: what the candidate rules give a sign. A DOOR has its room's style and name, and, unless the room is CLOSED or
HELD, the first lines of the sessions in the window that are in the room or moved away from it, by start and id; a CORRIDOR
the first session in the window of each room in use of its list, in the list's order, each room at its first place; a LOBBY
the sessions in the window of rooms in use of its zones, by start, room and id. Each line has its time, note, title and extra
text. An IN line shows a number of minutes no more than the true one, and at most 4 less. -/
def Obligations.FacesFollowTheCandidateRules : Prop :=
  ∀ (v : Selection) (d : SignDef), Tab.sorted v.sessions = true →
    let inWindow := fun (x : Nat × Session) => x ∈ v.sessions ∧ v.now < x.2.fin ∧ x.2.start ≤ v.now + d.lookahead
    let open_ := fun (i : Nat) => ∃ r, Tab.get v.rooms i = some r ∧ r.state ≠ .closed ∧ r.state ≠ .held
    let absent : Handle := { line := 0, len := 0 }
    let nameOf := fun (i : Nat) => match Tab.get v.rooms i with
      | some r => r.name
      | none => absent
    let own := fun (e : Session) =>
      if e.cancelled then Note.cancelled else if e.movedFrom = none then .none else .movedHere
    let line := fun (x : Nat × Session) (note : Note) (extra : Handle) =>
      let away := x.2.start - v.now
      let clock := v.origin + x.2.start
      let time : TimeKind × Nat × Nat × Nat :=
        if x.2.start ≤ v.now then (.now, 0, 0, 0)
        else if away ≤ 5 then (.starting, 0, 0, 0)
        else if away ≤ 60 then (.inMinutes, 5 * (away / 5), 0, 0)
        else (.at, clock % 1440 / 60, clock % 1440 % 60, min 9 (clock / 1440 - (v.origin + v.now) / 1440))
      ({ id := x.1, room := x.2.room, note := note, time := time.1, a := time.2.1, b := time.2.2.1, k := time.2.2.2
         title := x.2.title, extra := extra } : LineRec)
    let board := fun (x : Nat × Session) => line x (own x.2) (nameOf x.2.room)
    let f := composeFace v d
    (∀ room r, d.targets = .door room → Tab.get v.rooms room = some r →
      f.style = v.styles.get r.state ∧ f.header = r.name
        ∧ (r.state = .closed ∨ r.state = .held → f.lines = [])
        ∧ (r.state ≠ .closed → r.state ≠ .held → ∃ xs : List (Nat × Session),
          xs.Pairwise chainPrecedes
            ∧ (∀ x, x ∈ xs ↔ inWindow x ∧ (x.2.room = room ∨ x.2.movedFrom = some room))
            ∧ f.lines = (xs.take d.lines).map fun x =>
                if x.2.room = room then
                  line x (own x.2) (if x.2.cancelled = false ∧ x.2.start ≤ v.now then x.2.presenter else absent)
                else if x.2.cancelled then line x .cancelled absent
                else line x .movedAway (nameOf x.2.room)))
    ∧ (∀ rooms, d.targets = .corridor rooms →
      f.style = v.styles.opened ∧ f.header = absent ∧ ∃ xs : List (Nat × Session),
        (xs.map fun x => x.2.room).Sublist rooms.eraseDups
          ∧ (∀ x, x ∈ xs ↔ x.2.room ∈ rooms ∧ open_ x.2.room ∧ inWindow x
            ∧ ∀ y, inWindow y → y.2.room = x.2.room → ¬ chainPrecedes y x)
          ∧ f.lines = (xs.take d.lines).map board)
    ∧ (∀ mask, d.targets = .lobby mask →
      f.style = v.styles.opened ∧ f.header = absent ∧ ∃ xs : List (Nat × Session),
        (xs.Pairwise fun x y => x.2.start < y.2.start
            ∨ (x.2.start = y.2.start ∧ (x.2.room < y.2.room ∨ (x.2.room = y.2.room ∧ x.1 < y.1))))
          ∧ (∀ x, x ∈ xs ↔ inWindow x ∧ open_ x.2.room
            ∧ ∃ r, Tab.get v.rooms x.2.room = some r ∧ mask.getLsbD r.zone = true)
          ∧ f.lines = (xs.take d.lines).map board)
    ∧ ∀ l ∈ f.lines, l.time = .inMinutes →
      ∃ e, (l.id, e) ∈ v.sessions ∧ v.now < e.start ∧ l.a ≤ e.start - v.now ∧ e.start - v.now ≤ l.a + 4

/-- R67, R69, R89, R91, R123: a face's text lines are those its header, and each line's title and extra text, cover, each at
its first place in reading order, 34 at most. A text is the first bytes of the run of its lines. The body's bytes are those
the layout gives, at most 1,171, and a sign finds it well formed. The structure digest is taken over the body of a face whose
lines show no time but NOW or IN, with a, b and k at 0. -/
def Obligations.FaceBodyCarriesTheFace : Prop :=
  ∀ (taken : Tab (List Byte)) (f : Face),
    let covers := fun (h : Handle) => List.range' h.line ((h.len + 31) / 32)
    let handles := f.header :: f.lines.flatMap fun l => [l.title, l.extra]
    textLinesOf f = (handles.flatMap covers).eraseDups
    ∧ (f.lines.length ≤ 8 → (∀ h ∈ handles, h.len ≤ 64) → (textLinesOf f).length ≤ 34)
    ∧ ((∀ h ∈ handles, h.len ≤ 64 ∧ ∀ l ∈ covers h, ∃ b, Tab.get taken l = some b ∧ b.length = 32) →
      let style := (match f.style.ink with | .black => 0 | .red => 1 | .yellow => 2)
        + (match f.style.banner with | .none => 0 | .stripe => 4 | .full => 8) + if f.style.invert then 16 else 0
      (∀ h ∈ handles, (textOf taken h).length = h.len
        ∧ ∀ j, j < h.len → ∃ b, Tab.get taken (h.line + j / 32) = some b ∧ (textOf taken h)[j]? = b[j % 32]?)
      ∧ faceBody taken f = [byteOf style, byteOf f.header.len] ++ textOf taken f.header ++ [byteOf f.lines.length]
          ++ f.lines.flatMap (fun l =>
            [ byteOf (l.id % 256), byteOf (l.id / 256), byteOf l.room
            , match l.note with | .none => 0 | .cancelled => 1 | .movedHere => 2 | .movedAway => 3
            , match l.time with | .now => 0 | .starting => 1 | .inMinutes => 2 | .at => 3
            , byteOf l.a, byteOf l.b, byteOf l.k, byteOf l.title.len ]
              ++ textOf taken l.title ++ [byteOf l.extra.len] ++ textOf taken l.extra)
      ∧ (faceBody taken f).length = 3 + f.header.len + (f.lines.map fun l => 10 + l.title.len + l.extra.len).sum
      ∧ (f.lines.length ≤ 8 → (faceBody taken f).length ≤ 1171
        ∧ ((∀ l ∈ f.lines, 1 ≤ l.title.len) → faceBodyOk (faceBody taken f) = true)))
    ∧ structBody taken f = faceBody taken { f with lines := f.lines.map fun l =>
        { l with time := if l.time = .now then .now else .inMinutes, a := 0, b := 0, k := 0 } }

/-! ## Compositions and text -/

/-- R48, R69, R88, R98, R100: with no composition in progress, no apply step pending, the clock set and no engine's request
pending, the first dirty sign after the service position, round the 512 slots, that is neither SENDING nor LOST is taken:
LOST signs met leave the dirty set, and the sign's composition begins on the face its selection gives, its present lines
moved to the recent end of the cache. Without such a sign only LOST signs leave the set. -/
def Obligations.DirtySignIsComposedInTurn : Prop :=
  ∀ s : State, s.active = true → s.comp.composition = none → s.applyPending = false → s.clock.state ≠ .unset →
    (∀ n i, (s.engine n).state ≠ .requesting i) → sortedIndices s.comp.dirty = true →
    let before := fun (j i : Nat) => if s.comp.servicePos < j then i ≤ s.comp.servicePos ∨ j < i
      else i ≤ s.comp.servicePos ∧ j < i
    let sending := fun (j : Nat) => (s.sign j).any fun g => g.state = .sending
    let passed := fun (j : Nat) => ∀ h, s.sign j = some h → h.state = .sending ∨ h.state = .lost
    (∀ slot g, slot ∈ s.comp.dirty → s.sign slot = some g → g.state ≠ .sending → g.state ≠ .lost →
      (∀ j ∈ s.comp.dirty, before j slot → passed j) →
      let face := composeFace s.selection g.defn
      let ls := textLinesOf face
      ∃ (u t : State), exec .dirtyComposition s = .next t ∧ State.postsOnly u.advance t
        ∧ (∀ j, j ∈ u.comp.dirty ↔ j ∈ s.comp.dirty ∧ j ≠ slot ∧ (before j slot → sending j = true))
        ∧ u = { s with
            comp := { s.comp with
              composition := some
                { slot := slot, engine := none, orphan := false, face := face, wanted := ls, taken := [] }
              dirty := u.comp.dirty
              servicePos := slot }
            cache := { s.cache with
              lines := ls.filterMap s.cache.entry ++ s.cache.lines.filter fun e => !ls.contains e.line } })
    ∧ ((∀ j ∈ s.comp.dirty, passed j) → ∃ t, exec .dirtyComposition s = .next t
      ∧ (∀ j, j ∈ t.comp.dirty ↔ j ∈ s.comp.dirty ∧ sending j = true)
      ∧ t = { s with comp := { s.comp with dirty := t.comp.dirty } })

/-- R100, R101: a pending request is served before dirty work, that of the plate line next after the line last served; the
sign leaves the dirty set and its send-time composition begins. While the clock is UNSET, a composition is in progress or
an apply step is pending, no composition of either kind begins. The model's own here: steps not due, log entry 9. -/
def Obligations.RequestsAreServedRoundRobin : Prop :=
  ∀ s : State, s.active = true →
    (s.comp.composition ≠ none ∨ s.applyPending = true ∨ s.clock.state = .unset →
      exec .sendTimeComposition s = .next s ∧ exec .dirtyComposition s = .next s)
    ∧ (s.comp.composition = none → s.applyPending = false → s.clock.state ≠ .unset →
      ∀ n slot g, (s.engine n).state = .requesting slot → s.sign slot = some g →
        (∀ m : Fin 4, (m - s.comp.lastServed - 1).val < (n - s.comp.lastServed - 1).val →
          ∀ i, (s.engine m).state ≠ .requesting i) →
        let face := composeFace s.selection g.defn
        let ls := textLinesOf face
        exec .dirtyComposition s = .next s
        ∧ ∃ (u t : State), exec .sendTimeComposition s = .next t ∧ State.postsOnly u.advance t
          ∧ u = { s with
              comp := { s.comp with
                composition := some
                  { slot := slot, engine := some n, orphan := false, face := face, wanted := ls, taken := [] }
                dirty := s.comp.dirty.filter (· ≠ slot)
                lastServed := n }
              cache := { s.cache with
                lines := ls.filterMap s.cache.entry ++ s.cache.lines.filter fun e => !ls.contains e.line } })

/-- R70, R71, R73: a composition in progress takes the lines of its list in order while their bytes are available, from the
cache, whose entry becomes the most recent, or from a HOLDING fill, which leaves the set; the other fills are kept. Where the
set is full and the first absent line it still wants has no fill, the HOLDING fill of the line latest in the list yields its
place. Fills, WAITING and unspoiled, are issued in list order for the absent lines it still wants that have none, at the tail
of the fill queue, until four are pending. After its last line it ends. The model's own here: that a composition waits to end
while a record of the credit logic waits, log entry 29. -/
def Obligations.CompositionTakesItsLinesInOrder : Prop :=
  ∀ (s : State) (c : Composition), s.comp.composition = some c → noRepeat c.wanted = true →
    let bytes := fun (l : Nat) => match s.cache.entry l with
      | some e => some e.data
      | none => s.cache.held l
    ∃ (pre post : List Nat) (c' : Composition) (left : List Fill),
      let kept := s.cache.fills.filter fun f => !(pre.contains f.line && (s.cache.entry f.line).isNone)
      let holding := fun (l : Nat) => ∃ f, (kept.find? fun x => x.line = l) = some f ∧ f.state = .holding
      let yields := fun (m : Nat) => ∃ present first between later, post = present ++ first :: between ++ m :: later
        ∧ (∀ l ∈ present, s.cache.entry l ≠ none) ∧ s.cache.entry first = none ∧ (∀ f ∈ kept, f.line ≠ first)
        ∧ 4 ≤ kept.length ∧ holding m ∧ ∀ l ∈ later, ¬ holding l
      let issued :=
        (post.filter fun l => (s.cache.entry l).isNone && left.all fun f => f.line ≠ l).take (4 - left.length)
      let u : State := { s with
        comp := { s.comp with composition := some c' }
        cache :=
          { lines := pre.reverse.filterMap s.cache.entry ++ s.cache.lines.filter fun e => !pre.contains e.line
            fills := left ++ issued.map fun l => { line := l, state := .waiting, spoiled := false, data := [] } }
        path := { s.path with fillQueue := s.path.fillQueue ++ issued } }
      c.wanted = pre ++ post ∧ (∀ l ∈ pre, (bytes l).isSome = true) ∧ (∀ l, post.head? = some l → bytes l = none)
      ∧ c' = { c with wanted := post, taken := c'.taken }
      ∧ (∀ l, Tab.get c'.taken l = if l ∈ pre then bytes l else Tab.get c.taken l)
      ∧ (∀ m, yields m → left = kept.filter fun f => f.line ≠ m)
      ∧ ((∀ m, ¬ yields m) → left = kept)
      ∧ (post = [] → s.producerBusy .credit = false → State.postsOnly (u.endComposition c') s.advance)
      ∧ (post ≠ [] ∨ s.producerBusy .credit = true → s.advance = u)

/-- R93, R94, R99, R109, R110, R111, R114, R151: a dirty composition of a sign that is not LOST ends in its class, judged by
QUIET and the sign's credits: the sign is enqueued, deferred, unmarked or left as it is. A LOST sign's class is dropped; that
one that has come back before its composition ends is judged like any other is the model's choice, log entry 39. -/
def Obligations.DirtyClassMeetsTheBudget : Prop :=
  ∀ (s : State) (c : Composition) (g : Sign), c.engine = none → c.orphan = false → s.sign c.slot = some g →
    let full := crc (faceBody c.taken c.face)
    let struct := crc (structBody c.taken c.face)
    let noted := notedOf c.face
    let equal := g.shown.resync = false ∧ g.shown.fullDigest = full
    let urgent := ¬ equal ∧ (g.shown.resync = true ∨ g.shown.style ≠ c.face.style ∨ ¬ ∀ x, x ∈ g.shown.noted ↔ x ∈ noted)
    let content := ¬ equal ∧ ¬ urgent ∧ g.shown.structDigest ≠ struct
    let tick := ¬ equal ∧ ¬ urgent ∧ ¬ content
    let u := s.setComposition none
    let n := g.defn.line
    let l := s.lists.get n
    let enqueued := fun (r : Rank) (stays : Prop) (t : State) =>
      (stays → t.lists = s.lists)
      ∧ (¬ stays → t.lists = s.lists.set n ((l.without c.slot).set r ((l.without c.slot).get r ++ [c.slot])))
      ∧ t = { u with
          signs := Tab.set s.signs c.slot { g with
            deferred := false
            state := if g.state = .synced ∨ g.state = .deferred ∨ g.state = .unseen then .pending else g.state }
          lists := t.lists }
    let unmarked : State := u.setSign c.slot { g with
      deferred := false, state := if g.state = .deferred then .synced else g.state }
    let quiet := s.setup.quiet = true
    (g.state = .lost → s.endComposition c = u)
    ∧ (g.state ≠ .lost →
      (equal → s.endComposition c = if g.deferred then unmarked else u)
      ∧ (urgent → enqueued .urgent (c.slot ∈ l.urgent) (s.endComposition c))
      ∧ (content → ¬ quiet → 1 ≤ g.credits →
        enqueued .content (c.slot ∈ l.urgent ∨ c.slot ∈ l.content) (s.endComposition c))
      ∧ (content → quiet ∨ g.credits = 0 → s.endComposition c = (u.setSign c.slot { g with
          deferred := true, state := if g.state = .refreshing then .refreshing else .deferred }).setLists n
            (l.without c.slot))
      ∧ (tick → ¬ quiet → 2 ≤ g.credits →
        enqueued .tick (c.slot ∈ l.urgent ∨ c.slot ∈ l.content ∨ c.slot ∈ l.tick) (s.endComposition c))
      ∧ (tick → quiet ∨ g.credits ≤ 1 → s.endComposition c = if g.deferred then unmarked else u))

/-- R101, R116, R120, R126, R144, R154: a send-time composition's fresh class, QUIET and the sign's credits judge the send.
One that goes ahead makes the sign SENDING with its sequence and the engine READY with the FACE, which an IDLE port takes at
once; else the sign is let go SYNCED, or deferred, and the engine is IDLE. A request withdrawn meanwhile, or a composition
with no requester left, is judged by no one. -/
def Obligations.SendTimeClassDecidesTheSend : Prop :=
  ∀ (s : State) (c : Composition) (g : Sign) (n : Fin 4), c.engine = some n → s.sign c.slot = some g →
    let body := faceBody c.taken c.face
    let record : FaceRecord :=
      { fullDigest := crc body, structDigest := crc (structBody c.taken c.face), style := c.face.style
        noted := notedOf c.face, textLines := textLinesOf c.face, resync := g.shown.resync }
    let equal := g.shown.resync = false ∧ g.shown.fullDigest = record.fullDigest
    let urgent := ¬ equal ∧ (g.shown.resync = true ∨ g.shown.style ≠ record.style
      ∨ ¬ ∀ x, x ∈ g.shown.noted ↔ x ∈ record.noted)
    let content := ¬ equal ∧ ¬ urgent ∧ g.shown.structDigest ≠ record.structDigest
    let tick := ¬ equal ∧ ¬ urgent ∧ ¬ content
    let u := s.setComposition none
    let e := s.engine n
    let left := (s.lists.get g.defn.line).without c.slot
    let repeats := g.unconfirmed.any fun v => v.2.fullDigest = record.fullDigest
    let sequence := if repeats then g.sequence else g.sequence + 1
    let sent := fun (rank : Rank) (t : State) =>
      let x : Exchange := .face c.slot g.defn.address sequence rank record body
      let v := (u.setSign c.slot { g with deferred := false, state := .sending, sequence := sequence }).setLists
        g.defn.line left
      ((s.port n).state ≠ .idle → t = v.setEngine n { e with state := .ready x })
      ∧ ((s.port n).state = .idle → t = (v.setEngine n { e with state := .running x false }).setPort n { s.port n with
          state := .sending
          rate := (s.setup.lines.get n).rate
          frame := frameOf 0x53#8 (byteOf g.defn.address) sequence (if record.resync then 1 else 0) body })
    let letGo : State := ((u.setSign c.slot { g with deferred := false, state := .synced }).setLists
      g.defn.line left).setEngine n { e with state := .idle }
    let t := s.endComposition c
    (c.orphan = true ∨ e.state ≠ .requesting c.slot → t = u)
    ∧ (c.orphan = false → e.state = .requesting c.slot →
      (equal → t = letGo)
      ∧ (urgent → sent .urgent t)
      ∧ (content → s.setup.quiet = false → 1 ≤ g.credits → sent .content t)
      ∧ (content → s.setup.quiet = true ∨ g.credits = 0 → t = ((u.setSign c.slot { g with
          deferred := true, state := if g.state = .refreshing then .refreshing else .deferred }).setLists
            g.defn.line left).setEngine n { e with state := .idle })
      ∧ (tick → s.setup.quiet = false → 2 ≤ g.credits → sent .tick t)
      ∧ (tick → s.setup.quiet = true ∨ g.credits ≤ 1 → t = letGo))

/-- R72, R73, R76, R173, R175: a fill read, when it is the own access due, reads the next word of the line at the head of
the fill queue. At the sixteenth the fill arrives: a spoiled one is issued again at the queue's tail, under CACHE_OFF it
holds its data, else its line joins the cache at the recent end, the 64th leaving a full list; and the composition in
progress goes on. The model's own here: the remembered choice of own access, log entry 21. -/
def Obligations.FillReadsWordsAndArrives : Prop :=
  ∀ (l : Nat) (rest : List Nat) (f : Fill) (s : State),
    s.active = true → s.reloading = false → s.path.hold ≠ .granted → s.path.fillQueue = l :: rest → l ∉ rest →
    s.path.postQueue = [] ∨ s.path.lastChoicePost = true → s.cache.fill l = some f →
    let w := readWord s.mem (s.regionAddress (0x4000 + 0x20 * l + 2 * f.data.length))
    let path := { s.path with
      insist := 0, stretchNext := false, hold := if s.path.hold = .waiting then .granted else s.path.hold
      lastChoicePost := if s.path.postQueue = [] then s.path.lastChoicePost else false }
    let onFill := fun (k : Fill → Fill) => s.cache.fills.map fun x => if x.line = l then k x else x
    (f.data.length < 15 → exec .fillRead s = .next { s with
      path := path
      cache := { s.cache with fills := onFill fun x => { x with state := .reading, data := x.data ++ [w] } } })
    ∧ (15 ≤ f.data.length →
      let arrived : State :=
        if f.spoiled then
          { s with
            path := { path with fillQueue := rest ++ [l] }
            cache := { s.cache with
              fills := onFill fun _ => { line := l, state := .waiting, spoiled := false, data := [] } } }
        else if s.setup.cacheOff then
          { s with
            path := { path with fillQueue := rest }
            cache := { s.cache with fills := onFill fun x => { x with state := .holding, data := x.data ++ [w] } } }
        else
          { s with
            path := { path with fillQueue := rest }
            cache :=
              { lines :=
                  { line := l, data := (f.data ++ [w]).flatMap fun v => [loByte v, hiByte v] }
                    :: (s.cache.lines.filter fun e => e.line ≠ l).take 63
                fills := s.cache.fills.filter fun x => x.line ≠ l } }
      ∃ t, exec .fillRead s = .next t ∧ State.postsOnly arrived.advance t)

/-- R66, R75, R76, R77: a host write in the pool, word or byte, is forwarded; its line leaves the cache, a pending fill of it
is spoiled, a HOLDING one issued again at once, and the signs R77 names are marked dirty; the composition in progress goes
on. -/
def Obligations.PoolWritesAreSnooped : Prop :=
  ∀ (line : Fin 1536) (w : Fin 16) (d : Drive) (s : State), s.active = true → d ≠ .neither →
    let b := s.beginHost
    let l := line.val
    ∃ (v t : State), exec (.snoop line w d) s = .next t ∧ State.countsOnly v.advance t
      ∧ v = { b with
          mem := writeDrive b.mem (s.regionAddress (0x4000 + 0x20 * l + 2 * w.val)) d
          cache := v.cache
          path := { b.path with fillQueue := v.path.fillQueue }
          comp := { b.comp with dirty := v.comp.dirty } }
      ∧ v.cache.lines = b.cache.lines.filter (fun e => e.line ≠ l)
      ∧ (b.cache.fill l = none → v.cache.fills = b.cache.fills ∧ v.path.fillQueue = b.path.fillQueue)
      ∧ (∀ f, b.cache.fill l = some f → f.state ≠ .holding →
        v.cache.fills = b.cache.fills.map (fun x => if x.line = l then { x with spoiled := true } else x)
          ∧ v.path.fillQueue = b.path.fillQueue)
      ∧ (∀ f, b.cache.fill l = some f → f.state = .holding →
        v.cache.fills = b.cache.fills.map (fun x =>
            if x.line = l then { line := l, state := .waiting, spoiled := false, data := [] } else x)
          ∧ v.path.fillQueue = b.path.fillQueue ++ [l])
      ∧ ∀ i, i ∈ v.comp.dirty ↔ i ∈ b.comp.dirty ∨ ∃ g, (i, g) ∈ b.signs
        ∧ (l ∈ g.shown.textLines
          ∨ (∃ c, b.comp.composition = some c ∧ c.slot = i ∧ Tab.has c.taken l = true)
          ∨ (g.state = .sending ∧ ∃ n r, (b.engine n).faceRecord = some (i, r) ∧ l ∈ r.textLines))

/-! ## Segment engines and line ports -/

/-- R115, R144, R145, R147, R149: an IDLE engine takes the owed entry of lowest address that holds a sign of its line that
is not LOST, removing the entries before it; else the front of the URGENT list; else a due sweep, a presence sweep when one
is pending or N says so; else the front of CONTENT; else of TICK. An exchange goes to an IDLE port at once, at the line's
rate, as the frame its kind gives. -/
def Obligations.EngineTakesWorkInOrder : Prop :=
  ∀ (n : Fin 4) (s : State), s.active = true → (s.engine n).state = .idle → Tab.sorted (s.engine n).owed = true →
    let e := s.engine n
    let p := s.port n
    let takes := fun (x : Exchange) (frame : List Byte) (e' : Engine) =>
      exec (.engineChoose n) s = .next
        (if p.state = .idle then
          (s.setEngine n { e' with state := .running x false }).setPort n
            { p with state := .sending, rate := (s.setup.lines.get n).rate, frame := frame }
        else s.setEngine n { e' with state := .ready x })
    let due := fun (a slot : Nat) => ∃ g, s.signAt n a = some (slot, g) ∧ g.state ≠ .lost
    let front := fun (l : List Nat) => l.find? fun i => (s.sign i).any fun g => g.state = .pending
    let l := s.lists.get n
    let clear : Engine := { e with owed := [] }
    (∀ a m slot, (a, m) ∈ e.owed → due a slot → (∀ b k, (b, k) ∈ e.owed → b < a → ∀ i, ¬ due b i) →
      let left : Engine := { e with owed := e.owed.filter fun x => a < x.1 }
      (m.btn = false → m.jam = false → takes (.query slot a) (frameOf 0x52#8 (byteOf a) 0 0 []) left)
      ∧ (m.btn = true ∨ m.jam = true →
        takes (.clear slot a m)
          (frameOf 0x54#8 (byteOf a) 0 (byteOf ((if m.btn then 1 else 0) + if m.jam then 8 else 0)) []) left))
    ∧ ((∀ a m, (a, m) ∈ e.owed → ∀ i, ¬ due a i) →
      let asks := fun (i : Nat) => exec (.engineChoose n) s = .next (s.setEngine n { clear with state := .requesting i })
      let presence := e.presence = true ∨ s.setup.presenceInterval ≤ e.routine + 1
      let swept : Engine := { clear with due := false }
      (∀ i, front l.urgent = some i → asks i)
      ∧ (front l.urgent = none → e.due = true →
        (presence → takes (.sweep true .none .none true) (frameOf 0x51#8 0x7F#8 0 1 [0, 0]) swept)
        ∧ (¬ presence →
          takes (.sweep false s.setup.sweepMask s.setup.sweepPolarity s.setup.sweepAll)
            (frameOf 0x51#8 0x7F#8 0 (if s.setup.sweepAll then 1 else 0)
              [byteOf (signFlagsCode s.setup.sweepMask), byteOf (signFlagsCode s.setup.sweepPolarity)]) swept))
      ∧ (front l.urgent = none → e.due = false →
        (∀ i, front l.content = some i → asks i)
        ∧ (front l.content = none → ∀ i, front l.tick = some i → asks i)
        ∧ (front l.content = none → front l.tick = none → exec (.engineChoose n) s = .next (s.setEngine n clear))))

/-- R121, R128, R129, R130, R135, R136, R143, R144, R147: the timers and the port's own moves. The sweep timer sets the
due flag and begins its next interval at the period as it stands; a port that ends its lone BREAK or its quiet time is
IDLE and takes a READY engine's exchange; a frame sent leaves it sampling slots after a SWEEP, else awaiting a reply under
the answer timeout as it stands; a refresh timer stops, and a REFRESHING sign is DEFERRED, PENDING or SYNCED. The model's
own here: expiries at any moment, log entry 6. -/
def Obligations.TimersAndPortMoves : Prop :=
  ∀ (n : Fin 4) (s : State), s.active = true →
    let e := s.engine n
    let p := s.port n
    let idles := fun (c : Instr) =>
      ((∀ x, e.state ≠ .ready x) → exec c s = .next (s.setPort n { p with state := .idle }))
      ∧ ∀ x, e.state = .ready x → exec c s = .next ((s.setEngine n { e with state := .running x false }).setPort n
          { p with state := .sending, rate := (s.setup.lines.get n).rate, frame := exchangeFrame x })
    (e.sweepTimer ≠ none → exec (.sweepTimerExpiry n) s
      = .next (s.setEngine n { e with due := true, sweepTimer := some s.setup.sweepPeriod }))
    ∧ (p.state = .sending → p.frame = [] → idles (.loneBreakEnd n))
    ∧ (p.state = .quiet → idles (.quietTimeEnd n))
    ∧ (p.state = .sending → p.frame ≠ [] → e.sweeping = true →
      exec (.frameSent n) s = .next (s.setPort n { p with state := .slots }))
    ∧ (p.state = .sending → p.frame ≠ [] → e.sweeping = false →
      exec (.frameSent n) s
        = .next (s.setPort n { p with state := .awaiting, timeout := (s.setup.lines.get n).timeout }))
    ∧ ∀ (slot : Fin 512) g, s.sign slot.val = some g → g.timer ≠ none →
      let l := s.lists.get g.defn.line
      let listed := slot.val ∈ l.urgent ∨ slot.val ∈ l.content ∨ slot.val ∈ l.tick
      ∃ t, exec (.refreshTimerExpiry slot) s = .next t
        ∧ State.postsOnlyAt g.defn.line (s.setSign slot.val { g with
            timer := none
            state := if g.state ≠ .refreshing then g.state
              else if g.deferred then .deferred
              else if listed then .pending else .synced }) t
        ∧ ((t.engine g.defn.line).state = (s.engine g.defn.line).state
          ∨ ((s.engine g.defn.line).state = .finishing ∧ (t.engine g.defn.line).state = .idle))

/-- R127, R128, R129, R143, R144, R150, R152, R153, R155, R156, R158: a good reply in its time brings the port to the quiet
time after a good reply. Where its outcome is to be ignored, nothing but the engine's end follows. Else it is acted on whole:
STATUS settles an unconfirmed send, and the sign's health record is handed whether or not anything in it changed; ACCEPT
debits a credit, places the candidate record and starts the refresh timer; BUSY returns the sign to the head of its class and
starts the timer; and the four flags are handled: a press is handed on unless a CLEAR of BTN is owed, PWR sets resync and
marks the sign dirty, and flags newly set raise POWERUP, LOWBAT and FAULT, the last owing a CLEAR of JAM. The model's own
here: the lists of waiting records and raises, log entries 15 and 16. -/
def Obligations.GoodRepliesAreActedOn : Prop :=
  ∀ (n : Fin 4) (x : Exchange) (ignored : Bool) (r : Reply) (s : State),
    s.active = true → (s.engine n).state = .running x ignored → (s.port n).state = .awaiting →
    let e := s.engine n
    let f := replyShows r
    let quiet : State := s.setPort n { s.port n with state := .quiet, quiet := .afterGood }
    (ignored = true → answers x r → exec (.reply n r) s = .next (quiet.setEngine n { e with
      state :=
        if e.presses = [] ∧ s.producerBusy (.engine n) = false ∧ s.producerBusy (.ring n) = false then .idle
        else .finishing }))
    ∧ (ignored = false → ∀ slot address g, s.sign slot = some g →
      let acted := fun (mask : ClearMask) (g' : Sign) (lists : Quad FaceLists) (settles always : Bool) =>
        let press := f.btn = true ∧ ¬ ∃ m, Tab.get e.owed address = some m ∧ m.btn = true
        let jams := f.jam = true ∧ (g.seen.jam = false ∨ mask.jam = true)
        ∃ t, exec (.reply n r) s = .next t
          ∧ (press → (t.engine n).presses = e.presses ++ [{ slot := slot, address := address }]
            ∧ (t.engine n).state = .finishing)
          ∧ (¬ press → (t.engine n).presses = e.presses)
          ∧ (jams → (t.engine n).owed = owedWith e.owed address { btn := false, jam := true })
          ∧ (¬ jams → (t.engine n).owed = e.owed)
          ∧ ((t.engine n).state = .finishing ∨ (t.engine n).state = .idle)
          ∧ (∀ i, i ∈ t.comp.dirty ↔ i ∈ s.comp.dirty ∨ (i = slot ∧ (f.pwr = true ∨ settles = true)))
          ∧ State.postsOnlyAt n
              { quiet.setEngine n { e with presses := (t.engine n).presses, owed := (t.engine n).owed } with
                signs := Tab.set s.signs slot
                  { g' with seen := f, shown := if f.pwr then { g'.shown with resync := true } else g'.shown }
                lists := lists
                comp := { s.comp with dirty := t.comp.dirty } } t
          ∧ State.raisesOnly s t (fun e => (e = .powerup ∧ f.pwr = true ∧ g.seen.pwr = false)
            ∨ (e = .lowbat ∧ f.lowb = true ∧ g.seen.lowb = false) ∨ (e = .fault ∧ jams))
          ∧ (always = true → Tab.sorted s.signs = true → State.handsOne s t (.engine n) (.health slot))
      let status := fun (mask : ClearMask) =>
        (g.unconfirmed = none → acted mask { g with failures := 0 } s.lists false true)
        ∧ ∀ q record, g.unconfirmed = some (q, record) → acted mask
            { g with
              failures := 0, unconfirmed := none
              shown := if q = r.sequence then { record with resync := false } else g.shown } s.lists (q = r.sequence) true
      let refreshing : Sign :=
        { g with failures := 0, timer := some (s.setup.kinds.get g.defn.kind).refresh, state := .refreshing }
      (x = .query slot address → goodReply r 0x61#8 address → status { btn := false, jam := false })
      ∧ (∀ mask, x = .clear slot address mask → goodReply r 0x61#8 address → status mask)
      ∧ ∀ sequence rank record body, x = .face slot address sequence rank record body → r.sequence = sequence →
        (goodReply r 0x62#8 address → acted { btn := false, jam := false }
          { refreshing with credits := g.credits - 1, shown := { record with resync := false }, unconfirmed := none }
          s.lists false false)
        ∧ (goodReply r 0x63#8 address →
          let l := (s.lists.get g.defn.line).without slot
          acted { btn := false, jam := false } refreshing (s.lists.set g.defn.line (l.set rank (slot :: l.get rank))) false
            false))

/-- R128, R129, R144, R151, R153, R157, R158: a bad reply, a late one or one with a gap brings the port to the quiet time
after a bad reply. The failure count rises; a QUERY or CLEAR is owed again, a FACE's record becomes the unconfirmed send,
its sign is PENDING at the head of its class and a QUERY is owed. The third in a row makes the sign LOST, off its list,
with nothing owed and LOST raised. An outcome to be ignored changes no sign. The model's own here: the waiting raises, log
entry 16. -/
def Obligations.BadRepliesAreCounted : Prop :=
  ∀ (n : Fin 4) (x : Exchange) (ignored : Bool) (c : Instr) (s : State),
    s.active = true → (s.engine n).state = .running x ignored → (s.port n).state = .awaiting →
    (c = .answerTimeout n ∨ c = .replyGap n ∨ ∃ r, c = .reply n r ∧ ¬ answers x r) →
    let e := s.engine n
    let u := s.setPort n { s.port n with state := .quiet, quiet := .afterBad }
    let ends := fun (u : State) (loses : Bool) => ∃ t, exec c s = .next t ∧ State.postsOnlyAt n u t
      ∧ ((t.engine n).state = .finishing ∨ (t.engine n).state = .idle)
      ∧ State.raisesOnly s t (fun e => e = .lost ∧ loses = true)
    (ignored = true → ends u false)
    ∧ (ignored = false → ∀ slot address g, s.sign slot = some g →
      let l := (s.lists.get g.defn.line).without slot
      let lost : State := ((u.setSign slot
        { g with state := .lost, failures := 3, deferred := false, timer := none, unconfirmed := none }).setLists
          g.defn.line l).setEngine n { e with owed := Tab.del e.owed address }
      let again := fun (mask : ClearMask) => (u.setSign slot { g with failures := g.failures + 1 }).setEngine n
        { e with owed := owedWith e.owed address mask }
      (x = .query slot address →
        (2 ≤ g.failures → ends lost true)
        ∧ (g.failures < 2 → ends (again { btn := false, jam := false }) false))
      ∧ (∀ mask, x = .clear slot address mask →
        (2 ≤ g.failures → ends lost true) ∧ (g.failures < 2 → ends (again mask) false))
      ∧ ∀ sequence rank record body, x = .face slot address sequence rank record body →
        (2 ≤ g.failures → ends lost true)
        ∧ (g.failures < 2 → ends (((u.setSign slot
          { g with failures := g.failures + 1, unconfirmed := some (sequence, record), state := .pending }).setLists
            g.defn.line (l.set rank (slot :: l.get rank))).setEngine n
              { e with owed := owedWith e.owed address { btn := false, jam := false } }) false))

/-- R129, R130, R148: the slot map of a sweep is gone through. A presence sweep owes a QUERY to every sign of the line
that is not LOST and brings back the LOST ones that answered, UNSEEN with a blank record, dirty, with BACK raised; a
routine sweep owes one to each that answered. The counts of the next sweep follow. The model's own here: the waiting
raises and the style of a blank record, log entries 16 and 27. -/
def Obligations.SlotMapIsGoneThrough : Prop :=
  ∀ (n : Fin 4) (marks : BitVec 128) (presence ignored all : Bool) (mask polarity : SignFlags) (s : State),
    s.active = true → (s.engine n).state = .running (.sweep presence mask polarity all) ignored →
    (s.port n).state = .slots → signDefsOk s.signDefs = true →
    let e := s.engine n
    let owesTo := fun (g : Sign) => g.defn.line = n ∧ g.state ≠ .lost ∧ (presence = true ∨ marks.getLsbD g.defn.address = true)
    let comesBack := fun (g : Sign) =>
      g.defn.line = n ∧ g.state = .lost ∧ presence = true ∧ marks.getLsbD g.defn.address = true
    ∃ t, exec (.slotsEnd n marks) s = .next t
      ∧ (∀ i g, s.sign i = some g →
        (comesBack g → t.sign i = some { g with
          state := .unseen, failures := 0, seen := .none, unconfirmed := none
          shown :=
            { fullDigest := 0, structDigest := 0, style := s.setup.styles.opened, noted := [], textLines := []
              resync := true } })
        ∧ (¬ comesBack g → t.sign i = some g))
      ∧ (∀ i, s.sign i = none → t.sign i = none)
      ∧ State.raisesOnly s t (fun e => e = .back ∧ ∃ i g, s.sign i = some g ∧ comesBack g)
      ∧ (∀ i, i ∈ t.comp.dirty ↔ i ∈ s.comp.dirty ∨ ∃ g, s.sign i = some g ∧ comesBack g)
      ∧ (∀ a, (∃ i g, s.sign i = some g ∧ g.defn.address = a ∧ owesTo g) →
        Tab.get (t.engine n).owed a = some ((Tab.get e.owed a).getD { btn := false, jam := false }))
      ∧ (∀ a, (∀ i g, s.sign i = some g → g.defn.address = a → ¬ owesTo g) →
        Tab.get (t.engine n).owed a = Tab.get e.owed a)
      ∧ ((t.engine n).state = .finishing ∨ (t.engine n).state = .idle)
      ∧ State.postsOnlyAt n
          { (s.setPort n { s.port n with state := .quiet, quiet := .afterSweep }).setEngine n
              { e with
                owed := (t.engine n).owed
                presence := e.presence && !presence
                routine := if presence then 0 else min 15 (e.routine + 1) } with
            signs := t.signs
            comp := { s.comp with dirty := t.comp.dirty } } t

/-- R144, R159, R160, R169: the oldest press an engine has handed is taken by the first case that holds. An unconsumed entry
of the sign counts it, up to 255; a full ring leaves it; else a new entry is made at the write count, which rises. But for
the full ring, a CLEAR of BTN is owed and CALL is raised. The engine that waited is IDLE once its presses have been taken and
their records and its own have entered. While a ring record of a press before it waits, the press is not taken. The model's
own here: the waiting raise, the presses of a line stopped and started and of a sign dropped or moved, the wait for the ring
records, and that the write count rises before them, log entries 16, 24, 29 and 40. -/
def Obligations.PressReachesTheCallRing : Prop :=
  ∀ (n : Fin 4) (p : Press) (later : List Press) (s : State), s.active = true → (s.engine n).presses = p :: later →
    let e := s.engine n
    let ring := s.post.ring
    let left : Engine := { e with presses := later }
    let owing : Engine := { left with owed := owedWith e.owed p.address { btn := true, jam := false } }
    let taken := fun (u : State) (raises : Bool) => ∃ t, exec (.callPress n) s = .next t ∧ State.postsOnlyAt n u t
      ∧ State.raisesOnly s t (fun e => e = .call ∧ raises = true)
      ∧ (t.engine n).state =
        if e.state = .finishing ∧ later = [] ∧ t.producerBusy (.engine n) = false ∧ t.producerBusy (.ring n) = false then
          .idle
        else e.state
    (s.ringBusy = true → exec (.callPress n) s = .next s)
    ∧ (s.ringBusy = false →
      (∀ x, (ring.find? fun y => y.sign = p.slot) = some x →
        taken ({ s with post := { s.post with
          ring := ring.map fun (y : RingEntry) =>
            if y.sign = p.slot then { y with count := min 255 (x.count + 1) } else y } }.setEngine n owing) true)
      ∧ ((∀ x ∈ ring, x.sign ≠ p.slot) → 32 ≤ ring.length → taken (s.setEngine n left) false)
      ∧ ((∀ x ∈ ring, x.sign ≠ p.slot) → ring.length < 32 →
        let made : RingEntry :=
          { place := s.post.ringWrite.toNat % 32
            sign := p.slot
            room := (s.sign p.slot).bind fun g => match g.defn.targets with
              | .door room => some room
              | _ => none
            minute := s.clock.now
            count := 1 }
        taken ({ s with post := { s.post with
          ringWrite := s.post.ringWrite + 1, ring := ring ++ [made] } }.setEngine n owing) true))

/-- R120 to R128, R130, R131, R133, R134: a character on the line reads back as its byte, no run of characters is at space
for 10 bit times together, and a port drives a BREAK before its frame while it is SENDING, and then only what its stop has
left it of them (R136). A sign that hears the frame of an exchange addressed to it, whatever it was receiving, answers as the
part finds good: with its flags and last sequence to a QUERY or a CLEAR, with ACCEPT or BUSY to a FACE; one that hears a
frame for another does not answer. A SWEEP's slot map shows the sign at its own address and no other, where it qualifies. The
model's own here: the signs are outside the part, log entry 12; that the panel shows a face from its ACCEPT on, before its
redraw has ended, log entry 34; and that a reply is built as the frame's last byte is read, log entry 38. -/
def Obligations.SignsAnswerTheFramesSent : Prop :=
  (∀ b, readChar (charLevels b) = (b, false))
  ∧ (∀ (bytes : List Byte) (i : Nat), i + 10 ≤ 10 * bytes.length →
    ∃ j, i ≤ j ∧ j < i + 10 ∧ (bytes.flatMap charLevels)[j]? = some .mark)
  ∧ (∀ p : Port,
    (p.state = .sending → p.drives
      = some (List.replicate 25 .space ++ List.replicate 10 .mark ++ p.frame.flatMap charLevels))
    ∧ (p.state ≠ .sending → p.drives = if p.state = .off ∧ p.cut ≠ [] then some p.cut else none))
  ∧ ∀ (p : Panel) (address : Nat) (x : Exchange), address < 128 → p.address = byteOf address →
    let q := p.hearsFrame (exchangeFrame x)
    let answered := fun (p' : Panel) (o : ReplyOutcome) =>
      ∃ r, q.begins = ({ p' with reception := .waiting }, some r) ∧ judgeReply x r = o
    (∀ slot, x = .query slot address → answered p (.status p.flags p.last))
    ∧ (∀ slot mask, x = .clear slot address mask →
      let f : SignFlags := { p.flags with btn := p.flags.btn && !mask.btn, jam := p.flags.jam && !mask.jam }
      answered { p with flags := f } (.status f p.last))
    ∧ (∀ slot sequence rank record body, x = .face slot address sequence rank record body →
      body.length ≤ 1171 → faceBodyOk body = true →
      let f : SignFlags := { p.flags with pwr := false }
      (p.refreshing = true → answered p (.busy p.flags))
      ∧ (p.refreshing = false → record.resync = false → sequence = p.last → answered p (.accept p.flags))
      ∧ (p.refreshing = false → record.resync = true ∨ sequence ≠ p.last →
        answered { p with last := sequence, flags := f, refreshing := true, shown := body } (.accept f)))
    ∧ (∀ slot other mask sequence rank record body, other < 128 → other ≠ address → body.length ≤ 1171 →
      x = .query slot other ∨ x = .clear slot other mask ∨ x = .face slot other sequence rank record body →
      q = { p with reception := .waiting })
    ∧ ∀ presence mask polarity all, x = .sweep presence mask polarity all →
      let places := [ (mask.btn, polarity.btn, p.flags.btn), (mask.pwr, polarity.pwr, p.flags.pwr)
                    , (mask.lowb, polarity.lowb, p.flags.lowb), (mask.jam, polarity.jam, p.flags.jam) ]
      let qualifies := p.flags.pwr = true
        ∨ if all then ∀ z ∈ places, z.1 = true → z.2.1 = z.2.2 else ∃ z ∈ places, z.1 = true ∧ z.2.1 = z.2.2
      (q.reception = .counting ↔ qualifies)
        ∧ ∀ i, i < 128 → ((slotMap q.slotLevel).getLsbD i = true ↔ i = address ∧ qualifies)

/-! ## The memory path and status posting -/

/-- R167, R182: a host write to the event flags word merges: in the enabled bytes the internal copy is ANDed with the written
data, every queued post to the word leaves the queue, and memory takes the whole merged copy. ATTN follows it. R161, R166,
R168: a word write to the read count word is taken when it consumes no entry the write count has not covered: it is
forwarded, the entries leave the ring and queued posts to the word leave the queue. Any other write to it is dropped, and so
is every write to a word of the posted span but that and the flags word; GUARD is raised. The model's own here: the list of
waiting records and raises, and that the write count covers an entry whose record still waits, log entries 15, 16 and 40. -/
def Obligations.StatusSpanWritesAreJudged : Prop :=
  ∀ s : State, s.active = true →
    let b := s.beginHost
    (∀ d : Drive, d ≠ .neither →
      let written := fun (i : Nat) => match d with
        | .both v => v.getLsbD i
        | .low v => decide (8 ≤ i) || v.getLsbD i
        | .high v => decide (i < 8) || v.getLsbD (i - 8)
        | .neither => true
      ∃ (m : BitVec 13) (t : State), exec (.ackMerge d) s = .next t
        ∧ (∀ i, i < 13 → m.getLsbD i = (s.post.flags.getLsbD i && written i))
        ∧ State.countsOnly
            { b with
              mem := writeWord b.mem (s.regionAddress 0x580) (m.setWidth 16)
              path := { b.path with postQueue := b.path.postQueue.filter fun e => e.offset ≠ 0x580 }
              post := { b.post with flags := m } } t
        ∧ t.attn = ((m &&& b.setup.enable) != 0))
    ∧ (let a := s.regionAddress 0x682
      let consumed := fun (v : Word) => ((v.setWidth 8 : Byte) - b.post.ringRead).toNat
      let unconsumed := (b.post.ringWrite - b.post.ringRead).toNat
      (∀ v, consumed v ≤ unconsumed → ∃ t, exec (.readCountWrite (.both v)) s = .next t ∧ State.countsOnly
        { b with
          mem := writeWord b.mem a v
          path := { b.path with postQueue := b.path.postQueue.filter fun e => e.offset ≠ 0x682 }
          post := { b.post with ringRead := v.setWidth 8, ring := b.post.ring.drop (consumed v) } } t)
      ∧ (∀ v, unconsumed < consumed v → ∃ t, exec (.readCountWrite (.both v)) s = .next t ∧ State.droppedAt b t a false)
      ∧ (∀ v, ∃ t, exec (.readCountWrite (.low v)) s = .next t ∧ State.droppedAt b t a true)
      ∧ (∀ v, ∃ t, exec (.readCountWrite (.high v)) s = .next t ∧ State.droppedAt b t (a + 1) true)
      ∧ ∀ (w : Fin 4480), 0x500 + 2 * w.val ≠ 0x580 → 0x500 + 2 * w.val ≠ 0x682 →
        let g := s.regionAddress (0x500 + 2 * w.val)
        (∀ v, ∃ t, exec (.guardedWrite w (.both v)) s = .next t ∧ State.droppedAt b t g false)
        ∧ (∀ v, ∃ t, exec (.guardedWrite w (.low v)) s = .next t ∧ State.droppedAt b t g true)
        ∧ ∀ v, ∃ t, exec (.guardedWrite w (.high v)) s = .next t ∧ State.droppedAt b t (g + 1) true)

/-- R164, R165, R180: a host write is sorted by the area of its address. Outside the region, in the unposted span, at an
unnamed setup word, a byte write to a setup word or to the post word of an OPEN lane, a word write other than 1 to RESTART,
and with no byte enable, it is forwarded with no effect on the part; in an area with an owner it is the owner's command,
whichever row names the word and the data it drives; and a word write to CONTROL sets or clears every flag its word names at
once. The model's own here: HOST_WRITE at an owned address, log entry 22. -/
def Obligations.HostWritesAreSortedByArea : Prop :=
  ∀ (a : BitVec 19) (d : Drive) (s : State), s.active = true →
    let b := s.beginHost
    let addr := 2 * a.toNat
    let forwards := ∃ t, exec (.hostWrite a d) s = .next t ∧ State.countsOnly { b with mem := writeDrive b.mem addr d } t
    (∀ c, s.busWrite c = some (addr, d) → exec (.hostWrite a d) s = exec c s)
    ∧ (d = .neither → forwards)
    ∧ (addr / 0x10000 ≠ s.path.base.val → forwards)
    ∧ ∀ o, addr = s.regionAddress o → o < 0x10000 →
      (0x2800 ≤ o → o < 0x4000 → forwards)
      ∧ (o < 0x100 → setupWordAt o = none → forwards)
      ∧ (o < 0x100 → (∀ v, d ≠ .both v) → forwards)
      ∧ (∀ v, o = 4 → d = .both v → v ≠ 1 → forwards)
      ∧ (∀ n : Fin 4, o = 0x1FE + n.val * 0x100 → (s.laneAt n).state = .opened → (∀ v, d ≠ .both v) → forwards)
      ∧ ∀ v, o = 0 → d = .both v → ∃ t, exec (.hostWrite a d) s = .next t ∧ t.mem = writeWord b.mem addr v
        ∧ t.setup = { b.setup with
            control := if v.getLsbD 15 then b.setup.control ||| v.setWidth 8 else b.setup.control &&& ~~~(v.setWidth 8) }

/-- R171, R172, R173: a host read returns, on the enabled bytes, the newest value queued for the word, or else memory; a
post write, when it is the own access due, writes the head entry whole to its word, and the entry leaves the queue. The
model's own here: the remembered choice of own access, log entry 21. -/
def Obligations.ReadsForwardAndPostsDrain : Prop :=
  ∀ s : State, s.active = true →
    let b := s.beginHost
    (∀ (a : BitVec 19) (upper lower : Bool) (v : Word),
      (∃ o, 2 * a.toNat = s.regionAddress o ∧ o < 0x10000
        ∧ ∃ pre e post, b.path.postQueue = pre ++ e :: post ∧ e.offset = o ∧ e.value = v ∧ ∀ x ∈ post, x.offset ≠ o)
      ∨ ((∀ e ∈ b.path.postQueue, 2 * a.toNat = s.regionAddress e.offset → 0x10000 ≤ e.offset)
        ∧ v = readWord b.mem (2 * a.toNat)) →
      ∃ t, exec (.hostRead a upper lower) s = .next t ∧ State.countsOnly
        { b with path := { b.path with hostData :=
          { upper := if upper then some (hiByte v) else none
            lower := if lower then some (loByte v) else none } } } t)
    ∧ ∀ e q, s.path.postQueue = e :: q → s.reloading = false → s.path.hold ≠ .granted →
      s.path.fillQueue = [] ∨ s.path.lastChoicePost = false →
      exec .postWrite s = .next
        { s with
          mem := writeWord s.mem (s.regionAddress e.offset) e.value
          path := { s.path with
            postQueue := q, insist := 0, stretchNext := false
            hold := if s.path.hold = .waiting then .granted else s.path.hold
            lastChoicePost := if s.path.fillQueue = [] then s.path.lastChoicePost else true } }

/-- R164, R173, R174: the access after the count reached T is held with WAIT while own work waits, until one own access
has been made, which sets the count to 0; that access is then forwarded, before any further own access. At the end of a
host access other than one that restarts the part the count rises, up to 255, if own work waited as it began, before the
own access it was held for, or waits as it ends, and is compared with T. That waiting at either end counts alike is the
model's choice (log entry 18). The model's own here: steps not due and the access of a restart, log entries 9 and 23. -/
def Obligations.InsistThresholdHoldsTheHost : Prop :=
  ∀ s : State, s.active = true →
    let held := s.path.hold = .none ∧ s.path.stretchNext = true ∧ s.ownWork = true
    (held → exec .insistStall s = .next { s with path := { s.path with hold := .waiting } })
    ∧ (¬ held → exec .insistStall s = .next s)
    ∧ (s.path.wait = true ↔ s.path.hold = .waiting)
    ∧ (s.path.hold = .none → ¬ held → s.beginHost = s)
    ∧ (held ∨ s.path.hold = .waiting →
      s.beginHost = { s.ownAccess with path := { s.ownAccess.path with hold := .none } }
      ∧ (s.ownWork = true → s.beginHost.path.insist = 0 ∧ s.beginHost.path.stretchNext = false))
    ∧ (s.path.hold = .granted →
      s.beginHost = { s with path := { s.path with hold := .none } }
      ∧ ∀ c, c = .postWrite ∨ c = .fillRead ∨ c = .setupRead → exec c s = .next s)
    ∧ ∀ c, isHostAccess c = true → ∃ t, exec c s = .next t ∧ t.path.hold = .none
      ∧ (t.setup.restartCount = s.beginHost.setup.restartCount →
        t.path.insist =
            (if s.ownWork = true ∨ s.path.hold ≠ .none ∨ t.ownWork = true then min 255 (s.beginHost.path.insist + 1)
            else s.beginHost.path.insist)
          ∧ (t.path.stretchNext = true ↔ t.setup.insistT ≠ 0 ∧ t.setup.insistT ≤ t.path.insist))

/-- R169, R170, R178, R179, R182, R193, R194: the record that heads the waiting ones enters a queue that has its places
whole, with its stamps, and the flags that tell of it are then raised; without the places it waits. A raise that heads
them sets its flags and posts the flags word, unless all are set already. A record of the start-up fill is followed by the
next, and the last by READY, the held lane results and RUNNING. A composition that has taken its last line ends when the last
record of the credit logic has entered.
R44, R62, R159, R166, R181, R183, R185, section 12.5: each record's place, its words as the layouts give them, and whether it
is stamped. The model's own here: waits that change nothing, the list of waiting records, raises, held results, the records
of the fill and the waits of an engine and of a composition, log entries 9, 15, 16, 19, 25 and 29. -/
def Obligations.RecordsEnterInOrder : Prop :=
  ∀ s : State,
  (let u := s.setup
    let bit := fun (b : Bool) (v : Nat) => if b then v else 0
    let flags := fun (f : SignFlags) => bit f.btn 1 + bit f.pwr 2 + bit f.lowb 4 + bit f.jam 8
    let style := fun (x : Style) =>
      wordOf ((match x.ink with | .black => 0 | .red => 1 | .yellow => 2)
        + (match x.banner with | .none => 0 | .stripe => 4 | .full => 8) + bit x.invert 16)
    let kind := fun (x : KindParams) => wordOf (x.refresh + 64 * x.cap + 1024 * x.period)
    let line := fun (x : LineParams) => wordOf (x.rate + 4 * x.timeout)
    let zeros := fun (n : Nat) => List.replicate n (0 : Word)
    recordLayout s (.echo .summary) = (0x500,
        [ wordOf (bit u.ready 1), wordOf u.restartCount, wordOf s.clock.now, wordOf s.clock.origin
        , wordOf (match s.clock.state with | .unset => 0 | .running => 1 | .ended => 2)
        , wordOf (1024 - s.store.sessions.length), wordOf s.store.rooms.length, wordOf s.signs.length
        , wordOf (bit u.pendingMatrix 1) ] ++ zeros 5, true)
    ∧ recordLayout s (.echo .control) = (0x520,
        [ u.control.setWidth 16, u.matrix.setWidth 16, wordOf u.retain, wordOf u.insistT, style u.styles.closed
        , style u.styles.opened, style u.styles.inSession, style u.styles.changeover, style u.styles.held ] ++ zeros 5, true)
    ∧ recordLayout s (.echo .signs) = (0x540,
        [ kind u.kinds.door, kind u.kinds.corridor, kind u.kinds.lobby, wordOf (u.sweepPeriod + 64 * u.presenceInterval)
        , wordOf (flags u.sweepMask + 16 * flags u.sweepPolarity + bit u.sweepAll 256) ] ++ zeros 9, true)
    ∧ recordLayout s (.echo .lines) = (0x560,
        [line u.lines.q0, line u.lines.q1, line u.lines.q2, line u.lines.q3] ++ zeros 10, true)
    ∧ recordLayout s .flagsWord = (0x580, [s.post.flags.setWidth 16], false)
    ∧ recordLayout s .enableEcho = (0x582, [u.enable.setWidth 16], false)
    ∧ recordLayout s .guardAddress = (0x584,
        [wordOf s.post.guardAddress, wordOf (s.post.guardAddress / 0x10000 + bit s.post.guardByte 0x8000)], false)
    ∧ (∀ n r ends, recordLayout s (.laneResult n r ends) = (0x600 + 0x20 * n.val,
        [ wordOf (r.sequence.toNat + 256 * r.expected.toNat), wordOf (resultCode r.code + 256 * r.endOffset)
        , wordOf (r.failing + 256 * r.starts), wordOf (r.entries + 256 * r.passed), wordOf r.first, wordOf r.second ]
          ++ zeros 8, true))
    ∧ (∀ v, recordLayout s (.ringWriteCount v) = (0x680, [wordOf v.toNat], false))
    ∧ (∀ v, recordLayout s (.ringReadCount v) = (0x682, [wordOf v.toNat], false))
    ∧ (∀ k sign room minute count, recordLayout s (.ringEntry k sign room minute count)
        = (0x684 + 8 * k, [wordOf sign, wordOf room, wordOf minute, wordOf count], false))
    ∧ (∀ k count, recordLayout s (.ringCount k count) = (0x684 + 8 * k + 6, [wordOf count], false))
    ∧ (∀ i, s.room i = none → recordLayout s (.room i) = (0x800 + 0x10 * i, zeros 6, true))
    ∧ (∀ i r, s.room i = some r → recordLayout s (.room i) = (0x800 + 0x10 * i,
        [ wordOf ((match r.state with | .closed => 1 | .opened => 2 | .inSession => 3 | .changeover => 4 | .held => 5)
            + (match r.policy with | .free => 0 | .strict => 0x100) + bit r.overlap 0x200 + 0x1000 * r.zone)
        , wordOf r.current, wordOf r.next, wordOf r.changeover, wordOf r.name.line, wordOf r.name.len ], true))
    ∧ (∀ i, s.sign i = none → recordLayout s (.health i) = (0x1800 + 8 * i, zeros 2, true))
    ∧ ∀ i g, s.sign i = some g → recordLayout s (.health i) = (0x1800 + 8 * i,
        [ wordOf ((match g.state with
              | .unseen => 1 | .synced => 2 | .pending => 3 | .sending => 4 | .refreshing => 5 | .deferred => 6 | .lost => 7)
            + bit g.deferred 0x10 + bit g.unconfirmed.isSome 0x20 + 0x40 * g.defn.line.val + 0x100 * g.credits
            + 0x1000 * flags g.seen)
        , wordOf (g.failures + 256 * g.sequence.toNat) ], true))
  ∧ ∀ (it : Item) (rest : List Item), s.active = true → s.post.waiting = it :: rest →
    let size := recordSize it.record
    let fits := s.path.postQueue.length + size ≤ 64
    (∀ f, it.record = .raise f →
      (f &&& ~~~s.post.flags = 0 → exec .flagRaise s = .next (s.setWaiting rest))
      ∧ (f &&& ~~~s.post.flags ≠ 0 → fits → exec .flagRaise s = .next
        { s with
          post := { s.post with flags := s.post.flags ||| f, waiting := rest }
          path := { s.path with
            postQueue := s.path.postQueue
              ++ [{ offset := 0x580, value := (s.post.flags ||| f).setWidth 16 }] } })
      ∧ (f &&& ~~~s.post.flags ≠ 0 → ¬ fits → exec .flagRaise s = .next s))
    ∧ (it.plain = true →
      (¬ fits → exec .recordEnqueue s = .next s)
      ∧ (fits →
        let last := it.producer = .fill ∧ s.setup.phase = .fill 813
        let shown : State := if it.producer = .fill ∧ s.setup.phase = .fill 813 then
          { s with setup := { s.setup with ready := true } } else s
        let layout := recordLayout shown it.record
        let stamp := s.stamp layout.1
        let entered := s.path.postQueue ++ entriesFrom layout.1
          (if layout.2.2 then [stamp + 1] ++ layout.2.1 ++ [stamp + 2] else layout.2.1)
        let ends := fun (c : Composition) => it.producer = .credit ∧ s.comp.composition = some c ∧ c.wanted = []
          ∧ (s.setWaiting rest).producerBusy .credit = false
        ∃ t, exec .recordEnqueue s = .next t
          ∧ (it.raises ≠ 0 → t.raising it.raises = true)
          ∧ ((∀ k, s.setup.phase = .fill k → k ≤ 813) → State.raisesOnly s t (fun e =>
            last ∧ (e = .ready ∨ ∃ n r, (s.laneAt n).heldResult = some r ∧ e = .lane n)))
          ∧ (∀ c, ends c → State.postsOnly (s.endComposition c) t ∧ ∃ more, t.path.postQueue = entered ++ more)
          ∧ ((∀ c, ¬ ends c) → t.path.postQueue = entered ∧ (layout.2.2 = true → t.stamp layout.1 = stamp + 2))
          ∧ (it.producer ≠ .fill → (∀ n, it.producer ≠ .engine n ∧ it.producer ≠ .ring n) → (∀ c, ¬ ends c) →
            State.postsOnly s t)
          ∧ (∀ n, it.producer = .engine n ∨ it.producer = .ring n → State.postsOnlyAt n s t
            ∧ (t.engine n).state =
              if (s.engine n).state = .finishing ∧ (s.engine n).presses = [] ∧ t.producerBusy (.engine n) = false
                  ∧ t.producerBusy (.ring n) = false then .idle
              else (s.engine n).state)
          ∧ (∀ k, it.producer = .fill → s.setup.phase = .fill k → k < 813 → it.raises = 0 →
            State.postsOnly { s with setup := { s.setup with phase := .fill (k + 1) } } t
              ∧ t.post.waiting = rest ++ [{ producer := .fill, record := fillRecord (k + 1), raises := 0 }])
          ∧ (last → t.raising Event.ready.mask = true
            ∧ t.setup = { s.setup with phase := .running, ready := true }
            ∧ (∀ n r, (s.laneAt n).heldResult = some r → (t.laneAt n).heldResult = none
              ∧ { producer := .post, record := .laneResult n r false, raises := (Event.lane n).mask } ∈ t.post.waiting)
            ∧ (∀ n, s.lane.commit.head? = some n → (s.laneAt n).state = .queued →
              (t.laneAt n).state = .applying))))

/-- R6, R52, R62, R104, R160, R166, R181, R184, R185: a change of a posted value hands its record. Whatever command an active
part takes, short of a restart, each echo section the start-up fill has passed, each room, each sign slot, the enable mask,
the last guarded address, the ring's write count and each ring entry, where it is not as it was, has its record on its way to
the post queue, or in the queue with the values it now shows. Once the part is RUNNING, an echo section or a room whose
values are unchanged is not posted, and neither, but at a host access or the outcome of an exchange, is a sign slot. No
command raises an event but those that the rules give one to raise: R30, R33, R43, R50, R54, R148, R150, R151, R160, R166,
R194. The model's own here: an apply whose retire brings the counts back to what they were posts nothing for them, log entry
41. -/
def Obligations.ChangedValuesAreHanded : Prop :=
  ∀ (c : Instr) (s t : State), s.storeOk = true → s.signsOk = true → s.post.ringOk = true → s.postsOk = true →
    s.active = true → t.active = true → t.setup.restartCount = s.setup.restartCount → exec c s = .next t →
    (∀ sec, t.setup.phase = .running ∨ (∃ k, t.setup.phase = .fill k ∧ sec.fillStep < k) →
      echoBody t sec ≠ echoBody s sec → t.handed (.echo sec) = true)
    ∧ (∀ i r, t.room i = some r → roomBody (some r) ≠ roomBody (s.room i) → t.handed (.room i) = true)
    ∧ (∀ i, healthBody (t.sign i) ≠ healthBody (s.sign i) → t.handed (.health i) = true)
    ∧ (t.setup.enable ≠ s.setup.enable → t.handed .enableEcho = true)
    ∧ (t.post.guardAddress ≠ s.post.guardAddress ∨ t.post.guardByte ≠ s.post.guardByte → t.handed .guardAddress = true)
    ∧ (t.post.ringWrite ≠ s.post.ringWrite → t.handed (.ringWriteCount t.post.ringWrite) = true)
    ∧ (∀ e ∈ t.post.ring, (∀ o ∈ s.post.ring, o.sign ≠ e.sign) →
      t.handed (.ringEntry e.place e.sign (e.room.getD 0xFFFF) e.minute e.count) = true)
    ∧ (∀ e ∈ t.post.ring, ∀ o ∈ s.post.ring, o.sign = e.sign → o.count ≠ e.count →
      t.handed (.ringCount e.place e.count) = true)
    ∧ (s.setup.phase = .running →
      (∀ sec, echoBody t sec = echoBody s sec → State.handsNone s t (.echo sec))
      ∧ (∀ i, i < 256 → roomBody (t.room i) = roomBody (s.room i) → State.handsNone s t (.room i))
      ∧ (s.setup.inRange = true → s.creditsOk = true → isHostAccess c = false →
        (∀ n, c ≠ .answerTimeout n ∧ c ≠ .replyGap n ∧ ∀ r, c ≠ .reply n r) →
        ∀ i, i < 512 → healthBody (t.sign i) = healthBody (s.sign i) → State.handsNone s t (.health i)))
    ∧ ∀ e, t.raising e.mask = true → s.raising e.mask = true ∨ mayRaise c e

/-! ## Setup words -/

/-- R136, R146, R180: SEG_SET on a line whose flag is clear and whose engine is OFF starts it: a lone BREAK at the line's
rate, the engine IDLE, its sweep timer in a new interval, a presence sweep due. SEG_CLEAR on one whose flag is set stops it,
its engine and port OFF, its owed list empty; a frame being sent is cut off after the character in progress; a request's
composition loses its requester, and the sign of a FACE not confirmed is PENDING at the head of its class, the FACE an
unconfirmed send if it was sent whole. The model's own here: the place of the cut, and that a BREAK begins though a character
cut off has not ended, log entry 36. -/
def Obligations.LinesStartAndStop : Prop :=
  ∀ (n : Fin 4) (s : State), s.active = true →
    let b := s.beginHost
    let e := b.engine n
    let bit := 1#8 <<< n.val
    let written := fun (on : Bool) (control : BitVec 8) => { b with
      mem := writeWord b.mem (s.regionAddress 0) (wordOf ((if on then 0x8000 else 0) + 2 ^ n.val))
      setup := { b.setup with control := control } }
    (b.setup.seg n = true → ∃ t, exec (.segSet n) s = .next t ∧ State.postsOnly (written true b.setup.control) t)
    ∧ (b.setup.seg n = false → e.state = .off → ∃ t, exec (.segSet n) s = .next t ∧ State.postsOnly
        (((written true (b.setup.control ||| bit)).setEngine n
          { e with
            state := .idle, sweepTimer := some b.setup.sweepPeriod, due := true, presence := true, routine := 0 }).setPort n
              { b.port n with state := .sending, rate := (b.setup.lines.get n).rate, frame := [], cut := [] }) t)
    ∧ (b.setup.seg n = false → ∃ t, exec (.segClear n) s = .next t ∧ State.postsOnly (written false b.setup.control) t)
    ∧ (b.setup.seg n = true →
      let stopped := fun (u : State) => ∃ t, exec (.segClear n) s = .next t ∧ (b.port n).cutsTo (t.port n).cut
        ∧ State.postsOnly
          { ((u.setEngine n { e with state := .off, owed := [], sweepTimer := none, due := false }).setPort n
              { b.port n with state := .off, frame := [], cut := (t.port n).cut }) with freeIndex := t.freeIndex } t
      let base := written false (b.setup.control &&& ~~~bit)
      let returned := fun (slot : Nat) (rank : Rank) (g : Sign) (u : Option (Byte × FaceRecord)) =>
        let l := (b.lists.get g.defn.line).without slot
        (base.setSign slot { g with state := .pending, unconfirmed := u }).setLists g.defn.line
          (l.set rank (slot :: l.get rank))
      (∀ slot c, e.state = .requesting slot → b.comp.composition = some c → c.engine = some n →
        stopped (base.setComposition (some { c with orphan := true })))
      ∧ (∀ slot address q rank record body g, e.state = .ready (.face slot address q rank record body) →
        b.sign slot = some g → stopped (returned slot rank g g.unconfirmed))
      ∧ (∀ slot address q rank record body g, e.state = .running (.face slot address q rank record body) false →
        b.sign slot = some g →
        ((b.port n).state = .awaiting → stopped (returned slot rank g (some (q, record))))
          ∧ ((b.port n).state ≠ .awaiting → stopped (returned slot rank g g.unconfirmed)))
      ∧ (∀ slot, e.state = .requesting slot → (∀ c, b.comp.composition = some c → c.engine ≠ some n) → stopped base)
      ∧ ((∀ slot, e.state ≠ .requesting slot) →
        (∀ slot a q r rec body, e.state ≠ .ready (.face slot a q r rec body)
          ∧ e.state ≠ .running (.face slot a q r rec body) false) → stopped base))

/-- R49, R50, R78, R112, R113, R180, R189: writes that set or clear CLOCK_RUN, MINUTE_SRC, QUIET and CACHE_OFF change that
flag alone. MINUTE_SRC from set to clear restarts the timebase; QUIET from set to clear marks every DEFERRED sign dirty; a
change of CACHE_OFF empties the list of cached lines, and the composition in progress goes on. The model's own here: the
count of timebase intervals, log entry 6. -/
def Obligations.ControlFlagsTakeEffect : Prop :=
  ∀ (on : Bool) (s : State), s.active = true →
    let b := s.beginHost
    let flagged := fun (i : Nat) =>
      { b with
        mem := writeWord b.mem (s.regionAddress 0) (wordOf ((if on then 0x8000 else 0) + 2 ^ i))
        setup := { b.setup with
          control := if on then b.setup.control ||| (1#8 <<< i) else b.setup.control &&& ~~~(1#8 <<< i) } }
    (∃ t, exec (.clockRun on) s = .next t ∧ State.postsOnly (flagged 4) t)
    ∧ (∃ t, exec (.minuteSrc on) s = .next t ∧ State.postsOnly
        (if b.setup.minuteSrc && !on then
          { flagged 5 with clock := { b.clock with timebase := b.clock.timebase + 1 } } else flagged 5) t)
    ∧ (∃ t, exec (.quiet on) s = .next t
      ∧ State.postsOnly { flagged 6 with comp := { b.comp with dirty := t.comp.dirty } } t
      ∧ ∀ i, i ∈ t.comp.dirty ↔ i ∈ b.comp.dirty
        ∨ (b.setup.quiet = true ∧ on = false ∧ ∃ g, (i, g) ∈ b.signs ∧ g.deferred = true))
    ∧ ∃ t, exec (.cacheOff on) s = .next t ∧ State.postsOnly
        (if b.setup.cacheOff = on then flagged 7
        else ({ flagged 7 with cache := { b.cache with lines := [] } } : State).advance) t

/-- R8, R65, R105, R180, R181, R187: a word write to ENABLE sets or clears the mask's bits; to MATRIX moves the pending
matrix flag alone; to a style, KIND, LINE, SWEEP, RETAIN or INSIST word gives the effective values its fields clamped to
their ranges. A changed style marks every sign dirty, and credits above a lowered cap are lowered to it. The model's own
here: codes past a range, log entry 30. -/
def Obligations.SetupWordsAreTakenClamped : Prop :=
  ∀ (v : Word) (s : State), s.active = true →
    let b := s.beginHost
    let n := v.toNat
    let written := fun (o : Nat) (u : SetupLogic) =>
      { b with mem := writeWord b.mem (s.regionAddress o) v, setup := u }
    let takes := fun (w : PlainSetup) (o : Nat) (u : SetupLogic) =>
      ∃ t, exec (.setupWordWrite w v) s = .next t ∧ State.postsOnly (written o u) t
    (∃ t, exec (.enable v) s = .next t ∧ State.postsOnly (written 2 { b.setup with
      enable := if v.getLsbD 15 then b.setup.enable ||| v.setWidth 13 else b.setup.enable &&& ~~~(v.setWidth 13) }) t)
    ∧ (∃ t, exec (.matrix v) s = .next t ∧ State.postsOnly (written 6 { b.setup with
      pendingMatrix := decide ((v.setWidth 10 : BitVec 10) ≠ b.setup.matrix) }) t)
    ∧ (∀ st, let x : Style :=
        { ink := if n % 4 = 0 then .black else if n % 4 = 1 then .red else .yellow
          banner := if n / 4 % 4 = 0 then .none else if n / 4 % 4 = 1 then .stripe else .full
          invert := n / 16 % 2 = 1 }
      ∃ t, exec (.style st v) s = .next t
        ∧ (∀ i, i ∈ t.comp.dirty ↔
          i ∈ b.comp.dirty ∨ (b.setup.styles.get st ≠ x ∧ (b.sign i).isSome = true))
        ∧ State.postsOnly { written (styleOffset st) { b.setup with styles := b.setup.styles.set st x } with
            comp := { b.comp with dirty := t.comp.dirty } } t)
    ∧ (∀ k, let x : KindParams :=
        { refresh := max 1 (min 60 (n % 64)), cap := max 1 (min 15 (n / 64 % 16)), period := max 1 (min 60 (n / 1024)) }
      ∃ t, exec (.kind k v) s = .next t
        ∧ (∀ i, t.sign i = (b.sign i).map fun g =>
          if g.defn.kind = k then { g with credits := min g.credits x.cap } else g)
        ∧ State.postsOnly
            { written (kindOffset k) { b.setup with kinds := b.setup.kinds.set k x } with signs := t.signs } t)
    ∧ (∀ m : Fin 4, takes (.line m) (0x18 + 2 * m.val) { b.setup with
        lines := b.setup.lines.set m { rate := min 2 (n % 4), timeout := max 1 (min 50 (n / 4 % 64)) } })
    ∧ takes .sweepTiming 0x20 { b.setup with
        sweepPeriod := max 1 (min 60 (n % 64)), presenceInterval := max 1 (min 16 (n / 64 % 32)) }
    ∧ takes .sweepSelect 0x22 { b.setup with
        sweepMask := { btn := v.getLsbD 0, pwr := v.getLsbD 1, lowb := v.getLsbD 2, jam := v.getLsbD 3 }
        sweepPolarity := { btn := v.getLsbD 4, pwr := v.getLsbD 5, lowb := v.getLsbD 6, jam := v.getLsbD 7 }
        sweepAll := v.getLsbD 8 }
    ∧ takes .retain 0x24 { b.setup with retain := min 240 (n % 256) }
    ∧ takes .insist 0x26 { b.setup with insistT := n % 256 }
end

