-- ==== Sys2Proof/Laws/Tab.lean ====
section
/-! SUPPORT. What the container operations do: lookups after an update, the sorted form kept, members of a `Quad`. -/

namespace Sys2Proof.Machine

variable {α : Type}

/-! ## Lookups -/

@[simp] theorem Tab.get_nil (k : Nat) : Tab.get ([] : Tab α) k = none := rfl

/-- A lookup after an update: the value given at the key, the old value elsewhere. -/
theorem Tab.get_set (t : Tab α) (k i : Nat) (v : α) :
    Tab.get (Tab.set t k v) i = if i = k then some v else Tab.get t i := by
  induction t with
  | nil => by_cases h : i = k <;> simp [Tab.set, Tab.get, h]
  | cons e t ih =>
    obtain ⟨j, w⟩ := e
    by_cases h1 : k < j
    · by_cases h : i = k <;> simp [Tab.set, Tab.get, h1, h]
    · by_cases h2 : k = j
      · subst h2
        by_cases h : i = k <;> simp [Tab.set, Tab.get, h]
      · by_cases h3 : i = j
        · have : ¬ i = k := by omega
          simp [Tab.set, Tab.get, h1, h2, h3, Ne.symm h2]
        · simp [Tab.set, Tab.get, h1, h2, h3, ih]

@[simp] theorem Tab.get_set_self (t : Tab α) (k : Nat) (v : α) : Tab.get (Tab.set t k v) k = some v := by
  simp [Tab.get_set]

theorem Tab.get_set_of_ne (t : Tab α) {k i : Nat} (v : α) (h : i ≠ k) : Tab.get (Tab.set t k v) i = Tab.get t i := by
  simp [Tab.get_set, h]

/-- A lookup after a removal: nothing at the key, the old value elsewhere. -/
theorem Tab.get_del (t : Tab α) (k i : Nat) : Tab.get (Tab.del t k) i = if i = k then none else Tab.get t i := by
  induction t with
  | nil => simp [Tab.del, Tab.get]
  | cons e t ih =>
    obtain ⟨j, w⟩ := e
    simp only [Tab.del, ne_eq, decide_not] at ih ⊢
    by_cases h1 : j = k
    · by_cases h : i = k
      · subst h; simpa [h1] using ih
      · simp [h1, ih, h, Tab.get]
    · by_cases h : i = j
      · have : ¬ i = k := by omega
        simp [h1, Tab.get, h]
      · simp [h1, Tab.get, h, ih]

theorem Tab.has_set (t : Tab α) (k i : Nat) (v : α) : Tab.has (Tab.set t k v) i = (decide (i = k) || Tab.has t i) := by
  by_cases h : i = k <;> simp [Tab.has, Tab.get_set, h]

/-- A lookup after a change of every value: the changed value. -/
theorem Tab.get_map {β : Type} (f : Nat → α → β) (t : Tab α) (i : Nat) :
    Tab.get (t.map fun e => (e.1, f e.1 e.2)) i = (Tab.get t i).map (f i) := by
  induction t with
  | nil => rfl
  | cons e t ih =>
    obtain ⟨j, w⟩ := e
    by_cases h : i = j
    · subst h; simp [Tab.get]
    · simp [Tab.get, h, ih]

/-- A key that a lookup finds stands in the table with that value. -/
theorem Tab.mem_of_get {t : Tab α} {i : Nat} {v : α} (h : Tab.get t i = some v) : (i, v) ∈ t := by
  induction t with
  | nil => simp [Tab.get] at h
  | cons e t ih =>
    obtain ⟨j, w⟩ := e
    by_cases hij : i = j
    · subst hij; simp [Tab.get] at h; simp [h]
    · simp [Tab.get, hij] at h; exact List.mem_cons_of_mem _ (ih h)

/-! ## The sorted form -/

/-- Sorted says that the keys rise pairwise. -/
theorem Tab.sorted_iff (t : Tab α) : Tab.sorted t = true ↔ t.Pairwise fun a b => a.1 < b.1 := by
  induction t with
  | nil => simp [Tab.sorted]
  | cons a t ih =>
    cases t with
    | nil => simp [Tab.sorted]
    | cons b t =>
      simp only [Tab.sorted, Bool.and_eq_true, decide_eq_true_eq, ih]
      constructor
      · intro ⟨h1, h2⟩
        refine List.pairwise_cons.2 ⟨?_, h2⟩
        intro c hc
        rcases List.mem_cons.1 hc with rfl | hc
        · exact h1
        · exact Nat.lt_trans h1 ((List.pairwise_cons.1 h2).1 c hc)
      · intro h
        have h' := List.pairwise_cons.1 h
        exact ⟨h'.1 b (List.mem_cons_self ..), h'.2⟩

/-- Every entry of an updated table is the new one or an old one. -/
theorem Tab.mem_set {t : Tab α} {k : Nat} {v : α} {e : Nat × α} (h : e ∈ Tab.set t k v) : e = (k, v) ∨ e ∈ t := by
  induction t with
  | nil => simpa [Tab.set] using h
  | cons a t ih =>
    obtain ⟨j, w⟩ := a
    simp only [Tab.set] at h
    split at h
    · rcases List.mem_cons.1 h with h | h
      · exact .inl h
      · exact .inr h
    · split at h
      · rcases List.mem_cons.1 h with h | h
        · exact .inl h
        · exact .inr (List.mem_cons_of_mem _ h)
      · rcases List.mem_cons.1 h with h | h
        · exact .inr (by simp [h])
        · exact (ih h).imp id (List.mem_cons_of_mem _)

/-- An update keeps a table sorted. -/
theorem Tab.sorted_set {t : Tab α} (k : Nat) (v : α) (h : Tab.sorted t = true) : Tab.sorted (Tab.set t k v) = true := by
  rw [Tab.sorted_iff] at h ⊢
  induction t with
  | nil => simp [Tab.set]
  | cons a t ih =>
    obtain ⟨j, w⟩ := a
    have h' := List.pairwise_cons.1 h
    simp only [Tab.set]
    split
    · rename_i hlt
      refine List.pairwise_cons.2 ⟨?_, h⟩
      intro c hc
      rcases List.mem_cons.1 hc with rfl | hc
      · exact hlt
      · exact Nat.lt_trans hlt (h'.1 c hc)
    · split
      · rename_i heq
        subst heq
        exact List.pairwise_cons.2 ⟨h'.1, h'.2⟩
      · rename_i h1 h2
        refine List.pairwise_cons.2 ⟨?_, ih h'.2⟩
        intro c hc
        rcases Tab.mem_set hc with rfl | hc
        · show j < k; omega
        · exact h'.1 c hc

/-- A removal keeps a table sorted. -/
theorem Tab.sorted_filter {t : Tab α} (p : Nat × α → Bool) (h : Tab.sorted t = true) : Tab.sorted (t.filter p) = true := by
  rw [Tab.sorted_iff] at h ⊢
  exact h.filter p

theorem Tab.sorted_del {t : Tab α} (k : Nat) (h : Tab.sorted t = true) : Tab.sorted (Tab.del t k) = true :=
  Tab.sorted_filter _ h

/-- A change of values that keeps the keys keeps a table sorted. -/
theorem Tab.sorted_map {β : Type} {t : Tab α} (f : Nat × α → β) (h : Tab.sorted t = true) :
    Tab.sorted (t.map fun e => (e.1, f e)) = true := by
  rw [Tab.sorted_iff] at h ⊢
  exact List.pairwise_map.2 h

/-- In a sorted table a lookup finds every entry. -/
theorem Tab.get_of_mem {t : Tab α} {i : Nat} {v : α} (hs : Tab.sorted t = true) (h : (i, v) ∈ t) :
    Tab.get t i = some v := by
  rw [Tab.sorted_iff] at hs
  induction t with
  | nil => simp at h
  | cons a t ih =>
    obtain ⟨j, w⟩ := a
    have h' := List.pairwise_cons.1 hs
    rcases List.mem_cons.1 h with h | h
    · cases h; simp [Tab.get]
    · have : j < i := h'.1 _ h
      have hne : ¬ i = j := by omega
      simp [Tab.get, hne, ih h'.2 h]

/-- An update adds at most one entry. -/
theorem Tab.length_set_le (t : Tab α) (k : Nat) (v : α) : (Tab.set t k v).length ≤ t.length + 1 := by
  induction t with
  | nil => simp [Tab.set]
  | cons a t ih =>
    obtain ⟨j, w⟩ := a
    simp only [Tab.set]
    split
    · simp
    · split
      · simp
      · simpa using ih

/-- An update of a key that a sorted table holds adds no entry. -/
theorem Tab.length_set_of_has {t : Tab α} {k : Nat} {w : α} (v : α) (hs : Tab.sorted t = true)
    (h : Tab.get t k = some w) : (Tab.set t k v).length = t.length := by
  rw [Tab.sorted_iff] at hs
  induction t with
  | nil => simp [Tab.get] at h
  | cons a t ih =>
    obtain ⟨j, u⟩ := a
    have h' := List.pairwise_cons.1 hs
    simp only [Tab.set]
    by_cases hkj : k = j
    · simp [hkj]
    · simp only [Tab.get, hkj, if_false] at h
      have : j < k := h'.1 _ (Tab.mem_of_get h)
      have hlt : ¬ k < j := by omega
      simp [hlt, hkj, ih h'.2 h]

/-! ## Index sets -/

theorem mem_insertIndex (i j : Nat) (l : List Nat) : j ∈ insertIndex i l ↔ j = i ∨ j ∈ l := by
  induction l with
  | nil => simp [insertIndex]
  | cons a l ih =>
    simp only [insertIndex]
    split
    · simp
    · split
      · rename_i h; subst h; simp
      · simp only [List.mem_cons, ih]
        constructor
        · rintro (h | h | h) <;> simp [h]
        · rintro (h | h | h) <;> simp [h]

/-! ## Members of a `Quad` -/

/-- The member at an index after one is replaced. -/
theorem Quad.get_set (q : Quad α) (i j : Fin 4) (a : α) : (q.set i a).get j = if j = i then a else q.get j := by
  match i, j with
  | 0, 0 => rfl | 0, 1 => rfl | 0, 2 => rfl | 0, 3 => rfl
  | 1, 0 => rfl | 1, 1 => rfl | 1, 2 => rfl | 1, 3 => rfl
  | 2, 0 => rfl | 2, 1 => rfl | 2, 2 => rfl | 2, 3 => rfl
  | 3, 0 => rfl | 3, 1 => rfl | 3, 2 => rfl | 3, 3 => rfl

@[simp] theorem Quad.get_set_self (q : Quad α) (i : Fin 4) (a : α) : (q.set i a).get i = a := by simp [Quad.get_set]

theorem Quad.get_set_of_ne (q : Quad α) {i j : Fin 4} (a : α) (h : j ≠ i) : (q.set i a).get j = q.get j := by
  simp [Quad.get_set, h]

@[simp] theorem Quad.set_get_self (q : Quad α) (i : Fin 4) : q.set i (q.get i) = q := by
  match i with
  | 0 => rfl
  | 1 => rfl
  | 2 => rfl
  | 3 => rfl

@[simp] theorem Quad.set_set (q : Quad α) (i : Fin 4) (a b : α) : (q.set i a).set i b = q.set i b := by
  match i with
  | 0 => rfl
  | 1 => rfl
  | 2 => rfl
  | 3 => rfl

@[simp] theorem Quad.get_all (a : α) (i : Fin 4) : (Quad.all a).get i = a := by
  match i with
  | 0 => rfl
  | 1 => rfl
  | 2 => rfl
  | 3 => rfl

end Sys2Proof.Machine
end

