-- ==== Sys2Proof/Laws/Memory.lean ====
section
/-! SUPPORT. Memory: a read after a write, and the one form kept by every write. -/

namespace Sys2Proof.Machine

/-- A byte read after a byte is written. -/
theorem readByte_writeByte (m : List Host.Cell) (a b : Nat) (v : Byte) :
    readByte (writeByte m a v) b = if b = a then v else readByte m b := by
  unfold readByte writeByte
  by_cases hv : v = Config.unwrittenByte
  · by_cases h : b = a <;> simp [hv, Tab.get_del, h]
  · by_cases h : b = a <;> simp [hv, Tab.get_set, h]

@[simp] theorem readByte_writeByte_self (m : List Host.Cell) (a : Nat) (v : Byte) :
    readByte (writeByte m a v) a = v := by simp [readByte_writeByte]

theorem readByte_writeByte_of_ne (m : List Host.Cell) {a b : Nat} (v : Byte) (h : b ≠ a) :
    readByte (writeByte m a v) b = readByte m b := by simp [readByte_writeByte, h]

/-- A byte read after a word is written. -/
theorem readByte_writeWord (m : List Host.Cell) (a b : Nat) (v : Word) :
    readByte (writeWord m a v) b = if b = a + 1 then hiByte v else if b = a then loByte v else readByte m b := by
  simp [writeWord, readByte_writeByte]

/-- The bytes of a word put together again. -/
theorem joinBytes_hi_lo (v : Word) : joinBytes (hiByte v) (loByte v) = v := by
  unfold joinBytes hiByte loByte
  apply BitVec.eq_of_getLsbD_eq
  intro i hi
  rw [BitVec.getLsbD_append]
  by_cases h : i < 8
  · simp [h]
  · have : 8 + (i - 8) = i := by omega
    simp [h, this, show i - 8 < 8 by omega]

@[simp] theorem hiByte_joinBytes (h l : Byte) : hiByte (joinBytes h l) = h := by
  unfold hiByte joinBytes
  ext i hi
  simp only [BitVec.getElem_extractLsb', BitVec.getLsbD_append]
  simp [show ¬ 8 + i < 8 by omega, BitVec.getLsbD_eq_getElem hi]

@[simp] theorem loByte_joinBytes (h l : Byte) : loByte (joinBytes h l) = l := by
  unfold loByte joinBytes
  ext i hi
  simp only [BitVec.getElem_extractLsb', BitVec.getLsbD_append]
  simp [hi]

/-- A word read after the same word is written. -/
theorem readWord_writeWord_self (m : List Host.Cell) (a : Nat) (v : Word) : readWord (writeWord m a v) a = v := by
  simp [readWord, readByte_writeWord, joinBytes_hi_lo]

/-- A byte outside the word a drive is written to reads as before. -/
theorem readByte_writeDrive_of_ne (m : List Host.Cell) (a b : Nat) (d : Drive) (h1 : b ≠ a) (h2 : b ≠ a + 1) :
    readByte (writeDrive m a d) b = readByte m b := by
  cases d <;> simp [writeDrive, readByte_writeWord, readByte_writeByte, h1, h2]

/-! ## The one form -/

theorem Memory.wf_nil : Memory.wf [] = true := by rfl

/-- Every byte write keeps memory in its one form. -/
theorem Memory.wf_writeByte {m : List Host.Cell} (a : Nat) (v : Byte) (h : Memory.wf m = true) :
    Memory.wf (writeByte m a v) = true := by
  simp only [Memory.wf, Bool.and_eq_true, List.all_eq_true, bne_iff_ne] at h ⊢
  unfold writeByte
  by_cases hv : v = Config.unwrittenByte
  · simp only [hv, if_true]
    exact ⟨Tab.sorted_del _ h.1, fun c hc => h.2 c (List.mem_filter.1 hc).1⟩
  · simp only [hv, if_false]
    refine ⟨Tab.sorted_set _ _ h.1, fun c hc => ?_⟩
    rcases Tab.mem_set hc with rfl | hc
    · exact hv
    · exact h.2 c hc

theorem Memory.wf_writeWord {m : List Host.Cell} (a : Nat) (v : Word) (h : Memory.wf m = true) :
    Memory.wf (writeWord m a v) = true := Memory.wf_writeByte _ _ (Memory.wf_writeByte _ _ h)

theorem Memory.wf_writeDrive {m : List Host.Cell} (a : Nat) (d : Drive) (h : Memory.wf m = true) :
    Memory.wf (writeDrive m a d) = true := by
  cases d with
  | both v => exact Memory.wf_writeWord _ _ h
  | low v => exact Memory.wf_writeByte _ _ h
  | high v => exact Memory.wf_writeByte _ _ h
  | neither => exact h

/-- The memory after reset is in its one form. -/
theorem Memory.wf_reset : Memory.wf State.reset.mem = true := by rfl

end Sys2Proof.Machine
end

