-- ==== Sys2Proof/Laws/State.lean ====
section
/-! SUPPORT. One lemma for each field of State and each update of one of its parts. -/

namespace Sys2Proof.Machine

variable (s : State)

/-! ## forward -/

@[simp] theorem State.forward_pending (a : Nat) (d : Drive) : (s.forward a d).pending = s.pending := rfl
@[simp] theorem State.forward_freeIndex (a : Nat) (d : Drive) : (s.forward a d).freeIndex = s.freeIndex := rfl
@[simp] theorem State.forward_pins (a : Nat) (d : Drive) : (s.forward a d).pins = s.pins := rfl
@[simp] theorem State.forward_mem (a : Nat) (d : Drive) : (s.forward a d).mem = writeDrive s.mem a d := rfl
@[simp] theorem State.forward_path (a : Nat) (d : Drive) : (s.forward a d).path = s.path := rfl
@[simp] theorem State.forward_setup (a : Nat) (d : Drive) : (s.forward a d).setup = s.setup := rfl
@[simp] theorem State.forward_clock (a : Nat) (d : Drive) : (s.forward a d).clock = s.clock := rfl
@[simp] theorem State.forward_store (a : Nat) (d : Drive) : (s.forward a d).store = s.store := rfl
@[simp] theorem State.forward_lane (a : Nat) (d : Drive) : (s.forward a d).lane = s.lane := rfl
@[simp] theorem State.forward_cache (a : Nat) (d : Drive) : (s.forward a d).cache = s.cache := rfl
@[simp] theorem State.forward_comp (a : Nat) (d : Drive) : (s.forward a d).comp = s.comp := rfl
@[simp] theorem State.forward_signs (a : Nat) (d : Drive) : (s.forward a d).signs = s.signs := rfl
@[simp] theorem State.forward_lists (a : Nat) (d : Drive) : (s.forward a d).lists = s.lists := rfl
@[simp] theorem State.forward_engines (a : Nat) (d : Drive) : (s.forward a d).engines = s.engines := rfl
@[simp] theorem State.forward_ports (a : Nat) (d : Drive) : (s.forward a d).ports = s.ports := rfl
@[simp] theorem State.forward_post (a : Nat) (d : Drive) : (s.forward a d).post = s.post := rfl

/-! ## setSign -/

@[simp] theorem State.setSign_pending (i : Nat) (g : Sign) : (s.setSign i g).pending = s.pending := rfl
@[simp] theorem State.setSign_freeIndex (i : Nat) (g : Sign) : (s.setSign i g).freeIndex = s.freeIndex := rfl
@[simp] theorem State.setSign_pins (i : Nat) (g : Sign) : (s.setSign i g).pins = s.pins := rfl
@[simp] theorem State.setSign_mem (i : Nat) (g : Sign) : (s.setSign i g).mem = s.mem := rfl
@[simp] theorem State.setSign_path (i : Nat) (g : Sign) : (s.setSign i g).path = s.path := rfl
@[simp] theorem State.setSign_setup (i : Nat) (g : Sign) : (s.setSign i g).setup = s.setup := rfl
@[simp] theorem State.setSign_clock (i : Nat) (g : Sign) : (s.setSign i g).clock = s.clock := rfl
@[simp] theorem State.setSign_store (i : Nat) (g : Sign) : (s.setSign i g).store = s.store := rfl
@[simp] theorem State.setSign_lane (i : Nat) (g : Sign) : (s.setSign i g).lane = s.lane := rfl
@[simp] theorem State.setSign_cache (i : Nat) (g : Sign) : (s.setSign i g).cache = s.cache := rfl
@[simp] theorem State.setSign_comp (i : Nat) (g : Sign) : (s.setSign i g).comp = s.comp := rfl
@[simp] theorem State.setSign_signs (i : Nat) (g : Sign) : (s.setSign i g).signs = Tab.set s.signs i g := rfl
@[simp] theorem State.setSign_lists (i : Nat) (g : Sign) : (s.setSign i g).lists = s.lists := rfl
@[simp] theorem State.setSign_engines (i : Nat) (g : Sign) : (s.setSign i g).engines = s.engines := rfl
@[simp] theorem State.setSign_ports (i : Nat) (g : Sign) : (s.setSign i g).ports = s.ports := rfl
@[simp] theorem State.setSign_post (i : Nat) (g : Sign) : (s.setSign i g).post = s.post := rfl

/-! ## setEngine -/

@[simp] theorem State.setEngine_pending (n : Fin 4) (e : Engine) : (s.setEngine n e).pending = s.pending := rfl
@[simp] theorem State.setEngine_freeIndex (n : Fin 4) (e : Engine) : (s.setEngine n e).freeIndex = s.freeIndex := rfl
@[simp] theorem State.setEngine_pins (n : Fin 4) (e : Engine) : (s.setEngine n e).pins = s.pins := rfl
@[simp] theorem State.setEngine_mem (n : Fin 4) (e : Engine) : (s.setEngine n e).mem = s.mem := rfl
@[simp] theorem State.setEngine_path (n : Fin 4) (e : Engine) : (s.setEngine n e).path = s.path := rfl
@[simp] theorem State.setEngine_setup (n : Fin 4) (e : Engine) : (s.setEngine n e).setup = s.setup := rfl
@[simp] theorem State.setEngine_clock (n : Fin 4) (e : Engine) : (s.setEngine n e).clock = s.clock := rfl
@[simp] theorem State.setEngine_store (n : Fin 4) (e : Engine) : (s.setEngine n e).store = s.store := rfl
@[simp] theorem State.setEngine_lane (n : Fin 4) (e : Engine) : (s.setEngine n e).lane = s.lane := rfl
@[simp] theorem State.setEngine_cache (n : Fin 4) (e : Engine) : (s.setEngine n e).cache = s.cache := rfl
@[simp] theorem State.setEngine_comp (n : Fin 4) (e : Engine) : (s.setEngine n e).comp = s.comp := rfl
@[simp] theorem State.setEngine_signs (n : Fin 4) (e : Engine) : (s.setEngine n e).signs = s.signs := rfl
@[simp] theorem State.setEngine_lists (n : Fin 4) (e : Engine) : (s.setEngine n e).lists = s.lists := rfl
@[simp] theorem State.setEngine_engines (n : Fin 4) (e : Engine) : (s.setEngine n e).engines = s.engines.set n e := rfl
@[simp] theorem State.setEngine_ports (n : Fin 4) (e : Engine) : (s.setEngine n e).ports = s.ports := rfl
@[simp] theorem State.setEngine_post (n : Fin 4) (e : Engine) : (s.setEngine n e).post = s.post := rfl

/-! ## updateEngine -/

@[simp] theorem State.updateEngine_pending (n : Fin 4) (f : Engine → Engine) : (s.updateEngine n f).pending = s.pending := rfl
@[simp] theorem State.updateEngine_freeIndex (n : Fin 4) (f : Engine → Engine) : (s.updateEngine n f).freeIndex = s.freeIndex := rfl
@[simp] theorem State.updateEngine_pins (n : Fin 4) (f : Engine → Engine) : (s.updateEngine n f).pins = s.pins := rfl
@[simp] theorem State.updateEngine_mem (n : Fin 4) (f : Engine → Engine) : (s.updateEngine n f).mem = s.mem := rfl
@[simp] theorem State.updateEngine_path (n : Fin 4) (f : Engine → Engine) : (s.updateEngine n f).path = s.path := rfl
@[simp] theorem State.updateEngine_setup (n : Fin 4) (f : Engine → Engine) : (s.updateEngine n f).setup = s.setup := rfl
@[simp] theorem State.updateEngine_clock (n : Fin 4) (f : Engine → Engine) : (s.updateEngine n f).clock = s.clock := rfl
@[simp] theorem State.updateEngine_store (n : Fin 4) (f : Engine → Engine) : (s.updateEngine n f).store = s.store := rfl
@[simp] theorem State.updateEngine_lane (n : Fin 4) (f : Engine → Engine) : (s.updateEngine n f).lane = s.lane := rfl
@[simp] theorem State.updateEngine_cache (n : Fin 4) (f : Engine → Engine) : (s.updateEngine n f).cache = s.cache := rfl
@[simp] theorem State.updateEngine_comp (n : Fin 4) (f : Engine → Engine) : (s.updateEngine n f).comp = s.comp := rfl
@[simp] theorem State.updateEngine_signs (n : Fin 4) (f : Engine → Engine) : (s.updateEngine n f).signs = s.signs := rfl
@[simp] theorem State.updateEngine_lists (n : Fin 4) (f : Engine → Engine) : (s.updateEngine n f).lists = s.lists := rfl
@[simp] theorem State.updateEngine_engines (n : Fin 4) (f : Engine → Engine) : (s.updateEngine n f).engines = s.engines.set n (f (s.engine n)) := rfl
@[simp] theorem State.updateEngine_ports (n : Fin 4) (f : Engine → Engine) : (s.updateEngine n f).ports = s.ports := rfl
@[simp] theorem State.updateEngine_post (n : Fin 4) (f : Engine → Engine) : (s.updateEngine n f).post = s.post := rfl

/-! ## setPort -/

@[simp] theorem State.setPort_pending (n : Fin 4) (p : Port) : (s.setPort n p).pending = s.pending := rfl
@[simp] theorem State.setPort_freeIndex (n : Fin 4) (p : Port) : (s.setPort n p).freeIndex = s.freeIndex := rfl
@[simp] theorem State.setPort_pins (n : Fin 4) (p : Port) : (s.setPort n p).pins = s.pins := rfl
@[simp] theorem State.setPort_mem (n : Fin 4) (p : Port) : (s.setPort n p).mem = s.mem := rfl
@[simp] theorem State.setPort_path (n : Fin 4) (p : Port) : (s.setPort n p).path = s.path := rfl
@[simp] theorem State.setPort_setup (n : Fin 4) (p : Port) : (s.setPort n p).setup = s.setup := rfl
@[simp] theorem State.setPort_clock (n : Fin 4) (p : Port) : (s.setPort n p).clock = s.clock := rfl
@[simp] theorem State.setPort_store (n : Fin 4) (p : Port) : (s.setPort n p).store = s.store := rfl
@[simp] theorem State.setPort_lane (n : Fin 4) (p : Port) : (s.setPort n p).lane = s.lane := rfl
@[simp] theorem State.setPort_cache (n : Fin 4) (p : Port) : (s.setPort n p).cache = s.cache := rfl
@[simp] theorem State.setPort_comp (n : Fin 4) (p : Port) : (s.setPort n p).comp = s.comp := rfl
@[simp] theorem State.setPort_signs (n : Fin 4) (p : Port) : (s.setPort n p).signs = s.signs := rfl
@[simp] theorem State.setPort_lists (n : Fin 4) (p : Port) : (s.setPort n p).lists = s.lists := rfl
@[simp] theorem State.setPort_engines (n : Fin 4) (p : Port) : (s.setPort n p).engines = s.engines := rfl
@[simp] theorem State.setPort_ports (n : Fin 4) (p : Port) : (s.setPort n p).ports = s.ports.set n p := rfl
@[simp] theorem State.setPort_post (n : Fin 4) (p : Port) : (s.setPort n p).post = s.post := rfl

/-! ## setLane -/

@[simp] theorem State.setLane_pending (n : Fin 4) (l : Lane) : (s.setLane n l).pending = s.pending := rfl
@[simp] theorem State.setLane_freeIndex (n : Fin 4) (l : Lane) : (s.setLane n l).freeIndex = s.freeIndex := rfl
@[simp] theorem State.setLane_pins (n : Fin 4) (l : Lane) : (s.setLane n l).pins = s.pins := rfl
@[simp] theorem State.setLane_mem (n : Fin 4) (l : Lane) : (s.setLane n l).mem = s.mem := rfl
@[simp] theorem State.setLane_path (n : Fin 4) (l : Lane) : (s.setLane n l).path = s.path := rfl
@[simp] theorem State.setLane_setup (n : Fin 4) (l : Lane) : (s.setLane n l).setup = s.setup := rfl
@[simp] theorem State.setLane_clock (n : Fin 4) (l : Lane) : (s.setLane n l).clock = s.clock := rfl
@[simp] theorem State.setLane_store (n : Fin 4) (l : Lane) : (s.setLane n l).store = s.store := rfl
@[simp] theorem State.setLane_lane (n : Fin 4) (l : Lane) : (s.setLane n l).lane = { s.lane with lanes := s.lane.lanes.set n l } := rfl
@[simp] theorem State.setLane_cache (n : Fin 4) (l : Lane) : (s.setLane n l).cache = s.cache := rfl
@[simp] theorem State.setLane_comp (n : Fin 4) (l : Lane) : (s.setLane n l).comp = s.comp := rfl
@[simp] theorem State.setLane_signs (n : Fin 4) (l : Lane) : (s.setLane n l).signs = s.signs := rfl
@[simp] theorem State.setLane_lists (n : Fin 4) (l : Lane) : (s.setLane n l).lists = s.lists := rfl
@[simp] theorem State.setLane_engines (n : Fin 4) (l : Lane) : (s.setLane n l).engines = s.engines := rfl
@[simp] theorem State.setLane_ports (n : Fin 4) (l : Lane) : (s.setLane n l).ports = s.ports := rfl
@[simp] theorem State.setLane_post (n : Fin 4) (l : Lane) : (s.setLane n l).post = s.post := rfl

/-! ## setBatch -/

@[simp] theorem State.setBatch_pending (b : Batch) : (s.setBatch b).pending = s.pending := rfl
@[simp] theorem State.setBatch_freeIndex (b : Batch) : (s.setBatch b).freeIndex = s.freeIndex := rfl
@[simp] theorem State.setBatch_pins (b : Batch) : (s.setBatch b).pins = s.pins := rfl
@[simp] theorem State.setBatch_mem (b : Batch) : (s.setBatch b).mem = s.mem := rfl
@[simp] theorem State.setBatch_path (b : Batch) : (s.setBatch b).path = s.path := rfl
@[simp] theorem State.setBatch_setup (b : Batch) : (s.setBatch b).setup = s.setup := rfl
@[simp] theorem State.setBatch_clock (b : Batch) : (s.setBatch b).clock = s.clock := rfl
@[simp] theorem State.setBatch_store (b : Batch) : (s.setBatch b).store = s.store := rfl
@[simp] theorem State.setBatch_lane (b : Batch) : (s.setBatch b).lane = { s.lane with batch := b } := rfl
@[simp] theorem State.setBatch_cache (b : Batch) : (s.setBatch b).cache = s.cache := rfl
@[simp] theorem State.setBatch_comp (b : Batch) : (s.setBatch b).comp = s.comp := rfl
@[simp] theorem State.setBatch_signs (b : Batch) : (s.setBatch b).signs = s.signs := rfl
@[simp] theorem State.setBatch_lists (b : Batch) : (s.setBatch b).lists = s.lists := rfl
@[simp] theorem State.setBatch_engines (b : Batch) : (s.setBatch b).engines = s.engines := rfl
@[simp] theorem State.setBatch_ports (b : Batch) : (s.setBatch b).ports = s.ports := rfl
@[simp] theorem State.setBatch_post (b : Batch) : (s.setBatch b).post = s.post := rfl

/-! ## setComposition -/

@[simp] theorem State.setComposition_pending (c : Option Composition) : (s.setComposition c).pending = s.pending := rfl
@[simp] theorem State.setComposition_freeIndex (c : Option Composition) : (s.setComposition c).freeIndex = s.freeIndex := rfl
@[simp] theorem State.setComposition_pins (c : Option Composition) : (s.setComposition c).pins = s.pins := rfl
@[simp] theorem State.setComposition_mem (c : Option Composition) : (s.setComposition c).mem = s.mem := rfl
@[simp] theorem State.setComposition_path (c : Option Composition) : (s.setComposition c).path = s.path := rfl
@[simp] theorem State.setComposition_setup (c : Option Composition) : (s.setComposition c).setup = s.setup := rfl
@[simp] theorem State.setComposition_clock (c : Option Composition) : (s.setComposition c).clock = s.clock := rfl
@[simp] theorem State.setComposition_store (c : Option Composition) : (s.setComposition c).store = s.store := rfl
@[simp] theorem State.setComposition_lane (c : Option Composition) : (s.setComposition c).lane = s.lane := rfl
@[simp] theorem State.setComposition_cache (c : Option Composition) : (s.setComposition c).cache = s.cache := rfl
@[simp] theorem State.setComposition_comp (c : Option Composition) : (s.setComposition c).comp = { s.comp with composition := c } := rfl
@[simp] theorem State.setComposition_signs (c : Option Composition) : (s.setComposition c).signs = s.signs := rfl
@[simp] theorem State.setComposition_lists (c : Option Composition) : (s.setComposition c).lists = s.lists := rfl
@[simp] theorem State.setComposition_engines (c : Option Composition) : (s.setComposition c).engines = s.engines := rfl
@[simp] theorem State.setComposition_ports (c : Option Composition) : (s.setComposition c).ports = s.ports := rfl
@[simp] theorem State.setComposition_post (c : Option Composition) : (s.setComposition c).post = s.post := rfl

/-! ## setWaiting -/

@[simp] theorem State.setWaiting_pending (w : List Item) : (s.setWaiting w).pending = s.pending := rfl
@[simp] theorem State.setWaiting_freeIndex (w : List Item) : (s.setWaiting w).freeIndex = s.freeIndex := rfl
@[simp] theorem State.setWaiting_pins (w : List Item) : (s.setWaiting w).pins = s.pins := rfl
@[simp] theorem State.setWaiting_mem (w : List Item) : (s.setWaiting w).mem = s.mem := rfl
@[simp] theorem State.setWaiting_path (w : List Item) : (s.setWaiting w).path = s.path := rfl
@[simp] theorem State.setWaiting_setup (w : List Item) : (s.setWaiting w).setup = s.setup := rfl
@[simp] theorem State.setWaiting_clock (w : List Item) : (s.setWaiting w).clock = s.clock := rfl
@[simp] theorem State.setWaiting_store (w : List Item) : (s.setWaiting w).store = s.store := rfl
@[simp] theorem State.setWaiting_lane (w : List Item) : (s.setWaiting w).lane = s.lane := rfl
@[simp] theorem State.setWaiting_cache (w : List Item) : (s.setWaiting w).cache = s.cache := rfl
@[simp] theorem State.setWaiting_comp (w : List Item) : (s.setWaiting w).comp = s.comp := rfl
@[simp] theorem State.setWaiting_signs (w : List Item) : (s.setWaiting w).signs = s.signs := rfl
@[simp] theorem State.setWaiting_lists (w : List Item) : (s.setWaiting w).lists = s.lists := rfl
@[simp] theorem State.setWaiting_engines (w : List Item) : (s.setWaiting w).engines = s.engines := rfl
@[simp] theorem State.setWaiting_ports (w : List Item) : (s.setWaiting w).ports = s.ports := rfl
@[simp] theorem State.setWaiting_post (w : List Item) : (s.setWaiting w).post = { s.post with waiting := w } := rfl

/-! ## clean -/

@[simp] theorem State.clean_pending (i : Nat) : (s.clean i).pending = s.pending := rfl
@[simp] theorem State.clean_freeIndex (i : Nat) : (s.clean i).freeIndex = s.freeIndex := rfl
@[simp] theorem State.clean_pins (i : Nat) : (s.clean i).pins = s.pins := rfl
@[simp] theorem State.clean_mem (i : Nat) : (s.clean i).mem = s.mem := rfl
@[simp] theorem State.clean_path (i : Nat) : (s.clean i).path = s.path := rfl
@[simp] theorem State.clean_setup (i : Nat) : (s.clean i).setup = s.setup := rfl
@[simp] theorem State.clean_clock (i : Nat) : (s.clean i).clock = s.clock := rfl
@[simp] theorem State.clean_store (i : Nat) : (s.clean i).store = s.store := rfl
@[simp] theorem State.clean_lane (i : Nat) : (s.clean i).lane = s.lane := rfl
@[simp] theorem State.clean_cache (i : Nat) : (s.clean i).cache = s.cache := rfl
@[simp] theorem State.clean_comp (i : Nat) : (s.clean i).comp = { s.comp with dirty := s.comp.dirty.filter (· ≠ i) } := rfl
@[simp] theorem State.clean_signs (i : Nat) : (s.clean i).signs = s.signs := rfl
@[simp] theorem State.clean_lists (i : Nat) : (s.clean i).lists = s.lists := rfl
@[simp] theorem State.clean_engines (i : Nat) : (s.clean i).engines = s.engines := rfl
@[simp] theorem State.clean_ports (i : Nat) : (s.clean i).ports = s.ports := rfl
@[simp] theorem State.clean_post (i : Nat) : (s.clean i).post = s.post := rfl

/-! ## useFree -/

@[simp] theorem State.useFree_pending : (s.useFree).pending = s.pending := rfl
@[simp] theorem State.useFree_freeIndex : (s.useFree).freeIndex = s.freeIndex + 1 := rfl
@[simp] theorem State.useFree_pins : (s.useFree).pins = s.pins := rfl
@[simp] theorem State.useFree_mem : (s.useFree).mem = s.mem := rfl
@[simp] theorem State.useFree_path : (s.useFree).path = s.path := rfl
@[simp] theorem State.useFree_setup : (s.useFree).setup = s.setup := rfl
@[simp] theorem State.useFree_clock : (s.useFree).clock = s.clock := rfl
@[simp] theorem State.useFree_store : (s.useFree).store = s.store := rfl
@[simp] theorem State.useFree_lane : (s.useFree).lane = s.lane := rfl
@[simp] theorem State.useFree_cache : (s.useFree).cache = s.cache := rfl
@[simp] theorem State.useFree_comp : (s.useFree).comp = s.comp := rfl
@[simp] theorem State.useFree_signs : (s.useFree).signs = s.signs := rfl
@[simp] theorem State.useFree_lists : (s.useFree).lists = s.lists := rfl
@[simp] theorem State.useFree_engines : (s.useFree).engines = s.engines := rfl
@[simp] theorem State.useFree_ports : (s.useFree).ports = s.ports := rfl
@[simp] theorem State.useFree_post : (s.useFree).post = s.post := rfl

/-! ## setLists -/

@[simp] theorem State.setLists_pending (n : Fin 4) (l : FaceLists) : (s.setLists n l).pending = s.pending := rfl
@[simp] theorem State.setLists_freeIndex (n : Fin 4) (l : FaceLists) : (s.setLists n l).freeIndex = s.freeIndex := rfl
@[simp] theorem State.setLists_pins (n : Fin 4) (l : FaceLists) : (s.setLists n l).pins = s.pins := rfl
@[simp] theorem State.setLists_mem (n : Fin 4) (l : FaceLists) : (s.setLists n l).mem = s.mem := rfl
@[simp] theorem State.setLists_path (n : Fin 4) (l : FaceLists) : (s.setLists n l).path = s.path := rfl
@[simp] theorem State.setLists_setup (n : Fin 4) (l : FaceLists) : (s.setLists n l).setup = s.setup := rfl
@[simp] theorem State.setLists_clock (n : Fin 4) (l : FaceLists) : (s.setLists n l).clock = s.clock := rfl
@[simp] theorem State.setLists_store (n : Fin 4) (l : FaceLists) : (s.setLists n l).store = s.store := rfl
@[simp] theorem State.setLists_lane (n : Fin 4) (l : FaceLists) : (s.setLists n l).lane = s.lane := rfl
@[simp] theorem State.setLists_cache (n : Fin 4) (l : FaceLists) : (s.setLists n l).cache = s.cache := rfl
@[simp] theorem State.setLists_comp (n : Fin 4) (l : FaceLists) : (s.setLists n l).comp = s.comp := rfl
@[simp] theorem State.setLists_signs (n : Fin 4) (l : FaceLists) : (s.setLists n l).signs = s.signs := rfl
@[simp] theorem State.setLists_lists (n : Fin 4) (l : FaceLists) : (s.setLists n l).lists = s.lists.set n l := rfl
@[simp] theorem State.setLists_engines (n : Fin 4) (l : FaceLists) : (s.setLists n l).engines = s.engines := rfl
@[simp] theorem State.setLists_ports (n : Fin 4) (l : FaceLists) : (s.setLists n l).ports = s.ports := rfl
@[simp] theorem State.setLists_post (n : Fin 4) (l : FaceLists) : (s.setLists n l).post = s.post := rfl

/-! ## withPending -/

@[simp] theorem State.withPending_pending (q : List Instr) : (s.withPending q).pending = q := rfl
@[simp] theorem State.withPending_freeIndex (q : List Instr) : (s.withPending q).freeIndex = s.freeIndex := rfl
@[simp] theorem State.withPending_pins (q : List Instr) : (s.withPending q).pins = s.pins := rfl
@[simp] theorem State.withPending_mem (q : List Instr) : (s.withPending q).mem = s.mem := rfl
@[simp] theorem State.withPending_path (q : List Instr) : (s.withPending q).path = s.path := rfl
@[simp] theorem State.withPending_setup (q : List Instr) : (s.withPending q).setup = s.setup := rfl
@[simp] theorem State.withPending_clock (q : List Instr) : (s.withPending q).clock = s.clock := rfl
@[simp] theorem State.withPending_store (q : List Instr) : (s.withPending q).store = s.store := rfl
@[simp] theorem State.withPending_lane (q : List Instr) : (s.withPending q).lane = s.lane := rfl
@[simp] theorem State.withPending_cache (q : List Instr) : (s.withPending q).cache = s.cache := rfl
@[simp] theorem State.withPending_comp (q : List Instr) : (s.withPending q).comp = s.comp := rfl
@[simp] theorem State.withPending_signs (q : List Instr) : (s.withPending q).signs = s.signs := rfl
@[simp] theorem State.withPending_lists (q : List Instr) : (s.withPending q).lists = s.lists := rfl
@[simp] theorem State.withPending_engines (q : List Instr) : (s.withPending q).engines = s.engines := rfl
@[simp] theorem State.withPending_ports (q : List Instr) : (s.withPending q).ports = s.ports := rfl
@[simp] theorem State.withPending_post (q : List Instr) : (s.withPending q).post = s.post := rfl

/-! ## releaseHold -/

@[simp] theorem State.releaseHold_pending : (s.releaseHold).pending = s.pending := rfl
@[simp] theorem State.releaseHold_freeIndex : (s.releaseHold).freeIndex = s.freeIndex := rfl
@[simp] theorem State.releaseHold_pins : (s.releaseHold).pins = s.pins := rfl
@[simp] theorem State.releaseHold_mem : (s.releaseHold).mem = s.mem := rfl
@[simp] theorem State.releaseHold_path : (s.releaseHold).path = { s.path with hold := .none } := rfl
@[simp] theorem State.releaseHold_setup : (s.releaseHold).setup = s.setup := rfl
@[simp] theorem State.releaseHold_clock : (s.releaseHold).clock = s.clock := rfl
@[simp] theorem State.releaseHold_store : (s.releaseHold).store = s.store := rfl
@[simp] theorem State.releaseHold_lane : (s.releaseHold).lane = s.lane := rfl
@[simp] theorem State.releaseHold_cache : (s.releaseHold).cache = s.cache := rfl
@[simp] theorem State.releaseHold_comp : (s.releaseHold).comp = s.comp := rfl
@[simp] theorem State.releaseHold_signs : (s.releaseHold).signs = s.signs := rfl
@[simp] theorem State.releaseHold_lists : (s.releaseHold).lists = s.lists := rfl
@[simp] theorem State.releaseHold_engines : (s.releaseHold).engines = s.engines := rfl
@[simp] theorem State.releaseHold_ports : (s.releaseHold).ports = s.ports := rfl
@[simp] theorem State.releaseHold_post : (s.releaseHold).post = s.post := rfl

/-! ## ownAccessMade -/

@[simp] theorem State.ownAccessMade_pending : (s.ownAccessMade).pending = s.pending := rfl
@[simp] theorem State.ownAccessMade_freeIndex : (s.ownAccessMade).freeIndex = s.freeIndex := rfl
@[simp] theorem State.ownAccessMade_pins : (s.ownAccessMade).pins = s.pins := rfl
@[simp] theorem State.ownAccessMade_mem : (s.ownAccessMade).mem = s.mem := rfl
@[simp] theorem State.ownAccessMade_path : (s.ownAccessMade).path
    = { s.path with insist := 0, stretchNext := false, hold := s.path.hold.afterOwn } := rfl
@[simp] theorem State.ownAccessMade_setup : (s.ownAccessMade).setup = s.setup := rfl
@[simp] theorem State.ownAccessMade_clock : (s.ownAccessMade).clock = s.clock := rfl
@[simp] theorem State.ownAccessMade_store : (s.ownAccessMade).store = s.store := rfl
@[simp] theorem State.ownAccessMade_lane : (s.ownAccessMade).lane = s.lane := rfl
@[simp] theorem State.ownAccessMade_cache : (s.ownAccessMade).cache = s.cache := rfl
@[simp] theorem State.ownAccessMade_comp : (s.ownAccessMade).comp = s.comp := rfl
@[simp] theorem State.ownAccessMade_signs : (s.ownAccessMade).signs = s.signs := rfl
@[simp] theorem State.ownAccessMade_lists : (s.ownAccessMade).lists = s.lists := rfl
@[simp] theorem State.ownAccessMade_engines : (s.ownAccessMade).engines = s.engines := rfl
@[simp] theorem State.ownAccessMade_ports : (s.ownAccessMade).ports = s.ports := rfl
@[simp] theorem State.ownAccessMade_post : (s.ownAccessMade).post = s.post := rfl

/-! ## The held host access -/

@[simp] theorem Hold.afterOwn_none : Hold.none.afterOwn = .none := rfl
@[simp] theorem Hold.afterOwn_waiting : Hold.waiting.afterOwn = .granted := rfl
@[simp] theorem Hold.afterOwn_granted : Hold.granted.afterOwn = .granted := rfl

/-- Between its own access and the host access it was made for, no own access may begin (R174). -/
theorem State.ownChoice_granted {s : State} (h : s.path.hold = .granted) : s.ownChoice = none := by
  simp [State.ownChoice, h]

theorem State.ownChoice_ready {s : State} (h : s.path.hold ≠ .granted) : s.ownChoice = s.ownReady := by
  simp [State.ownChoice, h]

/-! ## A port cut off (R136) -/

@[simp] theorem Port.cutOff_state (p : Port) (i : Nat) : (p.cutOff i).state = .off := rfl
@[simp] theorem Port.cutOff_frame (p : Port) (i : Nat) : (p.cutOff i).frame = [] := rfl

theorem length_breakLevels : breakLevels.length = 35 := rfl

theorem length_frameLevels (f : List Byte) : (frameLevels f).length = 35 + 10 * f.length := by
  have h : ∀ l : List Byte, (l.flatMap charLevels).length = 10 * l.length := by
    intro l
    induction l with
    | nil => rfl
    | cons b l ih => simp [List.flatMap_cons, ih, charLevels]; omega
  simp [frameLevels, h, length_breakLevels]

/-- Whole characters of a frame are its first bit times after the BREAK. -/
theorem take_frameLevels (f : List Byte) (k : Nat) : (frameLevels f).take (35 + 10 * k) = frameLevels (f.take k) := by
  have h : ∀ (l : List Byte) (k : Nat), (l.flatMap charLevels).take (10 * k) = (l.take k).flatMap charLevels := by
    intro l
    induction l with
    | nil => intro k; simp
    | cons b l ih =>
      intro k
      cases k with
      | zero => simp
      | succ k =>
        have hb : (charLevels b).length = 10 := rfl
        rw [show 10 * (k + 1) = (charLevels b).length + 10 * k by omega, List.flatMap_cons, List.take_length_add_append, ih]
        simp
  rw [frameLevels, ← length_breakLevels, List.take_length_add_append, h, frameLevels]

/-! ## Members read back -/

theorem State.engine_setEngine (n m : Fin 4) (e : Engine) :
    (s.setEngine n e).engine m = if m = n then e else s.engine m := Quad.get_set ..

theorem State.port_setPort (n m : Fin 4) (p : Port) : (s.setPort n p).port m = if m = n then p else s.port m :=
  Quad.get_set ..

theorem State.laneAt_setLane (n m : Fin 4) (l : Lane) : (s.setLane n l).laneAt m = if m = n then l else s.laneAt m :=
  Quad.get_set ..

theorem State.sign_setSign (i j : Nat) (g : Sign) : (s.setSign i g).sign j = if j = i then some g else s.sign j :=
  Tab.get_set ..

@[simp] theorem State.engine_setEngine_self (n : Fin 4) (e : Engine) : (s.setEngine n e).engine n = e := by
  simp [State.engine_setEngine]

@[simp] theorem State.port_setPort_self (n : Fin 4) (p : Port) : (s.setPort n p).port n = p := by
  simp [State.port_setPort]

@[simp] theorem State.laneAt_setLane_self (n : Fin 4) (l : Lane) : (s.setLane n l).laneAt n = l := by
  simp [State.laneAt_setLane]

@[simp] theorem State.sign_setSign_self (i : Nat) (g : Sign) : (s.setSign i g).sign i = some g := by
  simp [State.sign_setSign]

@[simp] theorem State.setEngine_engine_self (n : Fin 4) : s.setEngine n (s.engine n) = s := by
  simp [State.setEngine, State.engine]

/-- What is in a state changed only in its engines reads as before. -/
@[simp] theorem State.sign_setEngine (n : Fin 4) (e : Engine) (i : Nat) : (s.setEngine n e).sign i = s.sign i := rfl
@[simp] theorem State.port_setEngine (n m : Fin 4) (e : Engine) : (s.setEngine n e).port m = s.port m := rfl
@[simp] theorem State.engine_setPort (n m : Fin 4) (p : Port) : (s.setPort n p).engine m = s.engine m := rfl
@[simp] theorem State.engine_setSign (n : Fin 4) (i : Nat) (g : Sign) : (s.setSign i g).engine n = s.engine n := rfl
@[simp] theorem State.port_setSign (n : Fin 4) (i : Nat) (g : Sign) : (s.setSign i g).port n = s.port n := rfl

/-! ## The part at work -/

@[simp] theorem State.working_active {s : State} (h : s.active = true) (f : State → State) : s.working f = f s := by
  simp [State.working, h]
@[simp] theorem State.working_idle {s : State} (h : s.active = false) (f : State → State) : s.working f = s := by
  simp [State.working, h]

end Sys2Proof.Machine
end

