-- ==== Sys2Proof/Laws/Post.lean ====
section
/-! SUPPORT. What the post unit's operations can change: handing a record, a raise, an echo section or the records of a
change touches the post queue and the records on their way to it, and nothing else. -/

namespace Sys2Proof.Machine

/-! ## The frame -/

theorem State.postsOnly.refl (s : State) : State.postsOnly s s := rfl

theorem State.postsOnly.trans {s t u : State} (h1 : State.postsOnly s t) (h2 : State.postsOnly t u) :
    State.postsOnly s u := Eq.trans h2 h1

theorem State.postsOnly.symm {s t : State} (h : State.postsOnly s t) : State.postsOnly t s := Eq.symm h

/-- What does not depend on the part put aside reads as before. -/
theorem State.postsOnly.read {β : Sort _} {s t : State} (h : State.postsOnly s t) (f : State → β)
    (hf : ∀ u : State, f u.bare = f u) : f t = f s := by
  rw [← hf t, ← hf s]; exact congrArg f h

/-- Every field the frame names reads as before. -/
theorem State.postsOnly.fields {s t : State} (h : State.postsOnly s t) :
    t.pending = s.pending ∧ t.freeIndex = s.freeIndex ∧ t.pins = s.pins ∧ t.mem = s.mem ∧ t.setup = s.setup
      ∧ t.clock = s.clock ∧ t.store = s.store ∧ t.lane = s.lane ∧ t.cache = s.cache ∧ t.comp = s.comp
      ∧ t.signs = s.signs ∧ t.lists = s.lists ∧ t.engines = s.engines ∧ t.ports = s.ports :=
  h.read (fun u : State => (u.pending = s.pending ∧ u.freeIndex = s.freeIndex ∧ u.pins = s.pins ∧ u.mem = s.mem
    ∧ u.setup = s.setup ∧ u.clock = s.clock ∧ u.store = s.store ∧ u.lane = s.lane ∧ u.cache = s.cache ∧ u.comp = s.comp
    ∧ u.signs = s.signs ∧ u.lists = s.lists ∧ u.engines = s.engines ∧ u.ports = s.ports)) (fun _ => rfl) ▸
      ⟨rfl, rfl, rfl, rfl, rfl, rfl, rfl, rfl, rfl, rfl, rfl, rfl, rfl, rfl⟩

/-! ## The operations -/

theorem postsOnly_setWaiting (s : State) (w : List Item) : State.postsOnly s (s.setWaiting w) := rfl

theorem postsOnly_enqueue (s : State) (r : Rec) : State.postsOnly s (s.enqueue r) := rfl

theorem postsOnly_handRaise (s : State) (f : BitVec 13) : State.postsOnly s (s.handRaise f) := by
  unfold State.handRaise
  split
  · exact .refl _
  · split <;> exact postsOnly_setWaiting _ _

theorem postsOnly_handNext (s : State) (p : Producer) : State.postsOnly s (s.handNext p) := by
  unfold State.handNext
  split
  · rfl
  · exact .refl _

/-- The producers whose records tell neither the start-up fill nor an engine anything; those of the ring tell the engine that
handed the press. -/
def Producer.silent : Producer → Bool
  | .fill => false
  | .engine _ => false
  | .ring _ => false
  | _ => true

theorem postsOnly_readyForLast {p : Producer} (s : State) (hp : p ≠ .fill) : s.readyForLast p = s := by
  simp [State.readyForLast, hp]

theorem postsOnly_enter (s : State) {it : Item} (hp : it.producer.silent = true) : State.postsOnly s (s.enter it) := by
  have hf : it.producer ≠ .fill := by intro h; simp [h, Producer.silent] at hp
  unfold State.enter State.afterEnter
  rw [postsOnly_readyForLast s hf]
  refine (postsOnly_enqueue s it.record).trans ((postsOnly_handRaise _ it.raises).trans ?_)
  revert hp
  rcases it with ⟨p, r, f⟩
  cases p <;> simp [Producer.silent] <;> exact postsOnly_handNext _ _

theorem postsOnly_hand (s : State) {it : Item} (hp : it.producer.silent = true) : State.postsOnly s (s.hand it) := by
  unfold State.hand
  split
  · exact postsOnly_enter s hp
  · split
    · rfl
    · exact postsOnly_setWaiting _ _

/-- A record handed enters at once, joins its block's records that wait, or waits in its turn (R169). -/
theorem hand_cases (s : State) (it : Item) :
    (s.post.waiting = [] ∧ it.plain = true ∧ s.hasPlaces (recordSize it.record) = true ∧ s.hand it = s.enter it)
      ∨ (it.producer ≠ .post ∧ s.producerBusy it.producer = true
        ∧ s.hand it = { s with post := { s.post with backlog := s.post.backlog ++ [it] } })
      ∨ s.hand it = s.setWaiting (s.post.waiting ++ [it]) := by
  unfold State.hand
  split
  · rename_i h
    simp only [Bool.and_eq_true, List.isEmpty_iff] at h
    exact .inl ⟨h.1.1, h.1.2, h.2, rfl⟩
  · split
    · rename_i h
      simp only [Bool.and_eq_true, decide_eq_true_eq] at h
      exact .inr (.inl ⟨h.1, h.2, rfl⟩)
    · exact .inr (.inr rfl)

/-! ## Raises -/

/-- A set of flags holds an event's mask if it holds its bit. -/
theorem mask_le_iff (f : BitVec 13) (e : Event) : f &&& e.mask = e.mask ↔ f.getLsbD e.bit = true := by
  have hb : e.bit < 13 := by cases e <;> simp [Event.bit]; omega
  constructor
  · intro h
    have := congrArg (fun x : BitVec 13 => x.getLsbD e.bit) h
    simpa [Event.mask, hb] using this
  · intro h
    apply BitVec.eq_of_getLsbD_eq
    intro i hi
    simp only [Event.mask, BitVec.getLsbD_and, BitVec.getLsbD_shiftLeft, BitVec.getLsbD_one]
    by_cases hie : i = e.bit
    · subst hie; simp [h]
    · by_cases hlt : i < e.bit
      · simp [hlt]
      · simp [show ¬ (i - e.bit = 0) by omega]

/-- An item carries an event by its own flags, or as a raise of it. -/
theorem carries_iff (it : Item) (e : Event) :
    it.carries e.mask = true ↔ it.raises.getLsbD e.bit = true ∨ ∃ g, it.record = .raise g ∧ g.getLsbD e.bit = true := by
  unfold Item.carries
  cases it.record <;> simp [mask_le_iff]

theorem raising_iff (s : State) (e : Event) :
    s.raising e.mask = true ↔ ∃ it ∈ s.post.waiting ++ s.post.backlog, it.carries e.mask = true := by
  simp only [State.raising, List.any_eq_true]

/-- A raise that joins one that waits is on its way with it. -/
theorem joinRaise_carries {f : BitVec 13} {l w : List Item} (h : joinRaise f l = some w) (e : Event) :
    (∃ it ∈ w, it.carries e.mask = true) ↔ (∃ it ∈ l, it.carries e.mask = true) ∨ f.getLsbD e.bit = true := by
  induction l generalizing w with
  | nil => simp [joinRaise] at h
  | cons it t ih =>
    simp only [joinRaise] at h
    split at h
    · rename_i g hg
      cases h
      simp only [List.mem_cons, exists_eq_or_imp, carries_iff, hg, Rec.raise.injEq, exists_eq_left', BitVec.getLsbD_or,
        Bool.or_eq_true]
      grind
    · cases ht : joinRaise f t with
      | none => simp [ht] at h
      | some v =>
        simp only [ht, Option.map_some, Option.some.injEq] at h
        subst h
        simp only [List.mem_cons, exists_eq_or_imp, ih ht]
        grind

/-- What is on its way once a raise is handed: what was before, and the flags of the raise (R178). -/
theorem raising_handRaise (s : State) (f : BitVec 13) (e : Event) :
    (s.handRaise f).raising e.mask = true ↔ s.raising e.mask = true ∨ f.getLsbD e.bit = true := by
  unfold State.handRaise
  split
  · rename_i h; subst h; simp
  · simp only [raising_iff]
    split
    · rename_i w hw
      simp only [List.mem_append, or_and_right, exists_or, State.setWaiting_post, joinRaise_carries hw e]
      grind
    · simp only [List.mem_append, or_and_right, exists_or, State.setWaiting_post, List.mem_singleton, exists_eq_left,
        carries_iff, Rec.raise.injEq, exists_eq_left']
      grind

/-- The block's next record takes its flags with it. -/
theorem raising_handNext (s : State) (p : Producer) (f : BitVec 13) : (s.handNext p).raising f = s.raising f := by
  unfold State.handNext
  split
  · rename_i it h
    have hp := (List.perm_cons_erase (List.mem_of_find?_eq_some h)).any_eq (f := fun it : Item => it.carries f)
    simp only [State.raising, List.any_append, List.any_cons, List.any_nil, Bool.or_false] at hp ⊢
    rw [hp]; ac_rfl
  · rfl

@[simp] theorem raising_settleEngine (s : State) (n : Fin 4) (f : BitVec 13) :
    (s.settleEngine n).raising f = s.raising f := by
  unfold State.settleEngine; dsimp only; split <;> rfl

/-- What is on its way once a record is handed: what was before, and what the record carries (R179). -/
theorem raising_hand (s : State) {it : Item} (hf : it.producer ≠ .fill) (e : Event) :
    (s.hand it).raising e.mask = true ↔ s.raising e.mask = true ∨ it.carries e.mask = true := by
  have h1 : ∀ r, (s.enqueue r).raising e.mask = s.raising e.mask := fun _ => rfl
  rcases hand_cases s it with ⟨_, hp, _, h⟩ | ⟨_, _, h⟩ | h
  · have hc : it.carries e.mask = true ↔ it.raises.getLsbD e.bit = true := by
      rw [carries_iff]
      cases hr : it.record <;> simp_all [Item.plain]
    rw [h, hc]
    unfold State.enter State.afterEnter
    rw [postsOnly_readyForLast s hf]
    rcases it with ⟨p, r, f⟩
    cases p <;> simp_all [raising_handNext, raising_handRaise]
  · rw [h]
    simp only [raising_iff, List.mem_append, or_and_right, exists_or, List.mem_singleton, exists_eq_left]
    grind
  · rw [h]
    simp only [raising_iff, List.mem_append, or_and_right, exists_or, State.setWaiting_post, List.mem_singleton,
      exists_eq_left]
    grind

/-- A run of hand-offs changes no more than one does. -/
theorem postsOnly_foldl {β : Type} (f : State → β → State) (h : ∀ s b, State.postsOnly s (f s b)) (l : List β)
    (s : State) : State.postsOnly s (l.foldl f s) := by
  induction l generalizing s with
  | nil => exact .refl _
  | cons b l ih => exact (h s b).trans (ih _)

theorem postsOnly_handEcho (s : State) (sec : Section) (f : BitVec 13) : State.postsOnly s (s.handEcho sec f) := by
  unfold State.handEcho
  split
  · split
    · exact postsOnly_setWaiting _ _
    · exact postsOnly_hand _ rfl
  · exact postsOnly_handRaise _ _

theorem postsOnly_syncEcho (s old : State) (f : BitVec 13) : State.postsOnly s (s.syncEcho old f) := by
  refine postsOnly_foldl _ (fun t sec => ?_) _ _
  split
  · exact postsOnly_handEcho _ _ _
  · split
    · exact postsOnly_handRaise _ _
    · exact .refl _

theorem postsOnly_syncRooms (s old : State) : State.postsOnly s (s.syncRooms old) :=
  postsOnly_foldl _ (fun _ _ => postsOnly_hand _ rfl) _ _

theorem postsOnly_handHealth (s old : State) {p : Producer} (hp : p.silent = true) (raises : Tab (BitVec 13))
    (changed : Nat → Bool) : State.postsOnly s (s.handHealth old p raises changed) :=
  postsOnly_foldl _ (fun _ _ => postsOnly_hand _ hp) _ _

theorem postsOnly_syncHealth (s old : State) {p : Producer} (hp : p.silent = true) (always : List Nat)
    (raises : Tab (BitVec 13)) : State.postsOnly s (s.syncHealth old p always raises) := postsOnly_handHealth s old hp _ _

theorem postsOnly_syncSigns (s old : State) : State.postsOnly s (s.syncSigns old) :=
  (postsOnly_handHealth s old (p := .signTable) rfl _ _).trans (postsOnly_handHealth _ old (p := .credit) rfl _ _)

/-- The records of an apply are all it hands (R42, R185). -/
theorem postsOnly_postApplied (s old : State) (w : Work) : State.postsOnly s (s.postApplied old w) :=
  ((postsOnly_syncEcho s old _).trans (postsOnly_syncRooms _ old)).trans (postsOnly_syncSigns _ old)

/-- A dropped write changes the last guarded address and the records on their way to the queue (R166). -/
theorem postsOnly_dropGuarded (s : State) (addr : Nat) (byte : Bool) :
    State.postsOnly { s with post := { s.post with guardAddress := addr, guardByte := byte } } (s.dropGuarded addr byte) := by
  unfold State.dropGuarded
  dsimp only
  split
  · exact .refl _
  · exact postsOnly_hand _ rfl

theorem postsOnly_endHost (s : State) (w : Bool) : State.postsOnly s (s.endHost w) := rfl

theorem countsOnly_endHost (s : State) (w : Bool) : State.countsOnly s (s.endHost w) := rfl

theorem State.countsOnly.postsOnly {s t : State} (h : State.countsOnly s t) : State.postsOnly s t := by
  have e : t.uncounted.bare = s.uncounted.bare := by rw [show t.uncounted = s.uncounted from h]
  exact e

/-! ## Records of engines -/

/-- An engine that settles changes nothing but its state. -/
theorem settleEngine_eq (s : State) (n : Fin 4) :
    s.settleEngine n = s.setEngine n { s.engine n with state := ((s.settleEngine n).engine n).state } := by
  unfold State.settleEngine
  dsimp only
  split
  · simp
  · exact (State.setEngine_engine_self s n).symm

theorem postsOnlyAt_refl (n : Fin 4) (s : State) : State.postsOnlyAt n s s := by
  show State.postsOnly (s.setEngine n (s.engine n)) s
  rw [State.setEngine_engine_self]; exact .refl _

end Sys2Proof.Machine
end

