-- ==== Sys2Proof/Laws/Work.lean ====
section
/-! SUPPORT. What compositions, exchanges and the marking of signs can change: the frame `worksOnly`, one lemma for each
operation. Memory, setup, the clock, the store, the lanes, the pins and the queue of commands are outside it. -/

namespace Sys2Proof.Machine

/-! ## The frame -/

theorem State.worksOnly.refl (s : State) : State.worksOnly s s := rfl

theorem State.worksOnly.trans {s t u : State} (h1 : State.worksOnly s t) (h2 : State.worksOnly t u) :
    State.worksOnly s u := Eq.trans h2 h1

/-- What does not depend on the part put aside reads as before. -/
theorem State.worksOnly.read {β : Sort _} {s t : State} (h : State.worksOnly s t) (f : State → β)
    (hf : ∀ u : State, f u.resting = f u) : f t = f s := by
  rw [← hf t, ← hf s]; exact congrArg f h

theorem State.worksOnly.pending {s t : State} (h : State.worksOnly s t) : t.pending = s.pending :=
  h.read State.pending fun _ => rfl
theorem State.worksOnly.pins {s t : State} (h : State.worksOnly s t) : t.pins = s.pins := h.read State.pins fun _ => rfl
theorem State.worksOnly.mem {s t : State} (h : State.worksOnly s t) : t.mem = s.mem := h.read State.mem fun _ => rfl
theorem State.worksOnly.setup {s t : State} (h : State.worksOnly s t) : t.setup = s.setup :=
  h.read State.setup fun _ => rfl
theorem State.worksOnly.clock {s t : State} (h : State.worksOnly s t) : t.clock = s.clock :=
  h.read State.clock fun _ => rfl
theorem State.worksOnly.store {s t : State} (h : State.worksOnly s t) : t.store = s.store :=
  h.read State.store fun _ => rfl
theorem State.worksOnly.lane {s t : State} (h : State.worksOnly s t) : t.lane = s.lane := h.read State.lane fun _ => rfl
theorem State.worksOnly.base {s t : State} (h : State.worksOnly s t) : t.path.base = s.path.base :=
  h.read (·.path.base) fun _ => rfl
theorem State.worksOnly.ring {s t : State} (h : State.worksOnly s t) : t.post.ring = s.post.ring :=
  h.read (·.post.ring) fun _ => rfl
theorem State.worksOnly.flags {s t : State} (h : State.worksOnly s t) : t.post.flags = s.post.flags :=
  h.read (·.post.flags) fun _ => rfl

theorem State.postsOnly.works {s t : State} (h : State.postsOnly s t) : State.worksOnly s t := by
  have e : t.bare = s.bare := h
  show t.resting = s.resting
  unfold State.resting
  rw [e]

/-- A run of such operations stays in the frame. -/
theorem worksOnly_foldl {β : Type} (f : State → β → State) (h : ∀ s b, State.worksOnly s (f s b)) (l : List β)
    (s : State) : State.worksOnly s (l.foldl f s) := by
  induction l generalizing s with
  | nil => exact .refl _
  | cons b l ih => exact (h s b).trans (ih _)

/-! ## Marking and single members -/

theorem worksOnly_markDirty (s : State) (i : Nat) : State.worksOnly s (s.markDirty i) := by
  unfold State.markDirty; split <;> rfl

theorem worksOnly_markWhere (s : State) (p : Nat × Sign → Bool) : State.worksOnly s (s.markWhere p) :=
  worksOnly_foldl _ (fun _ _ => worksOnly_markDirty _ _) _ _

theorem worksOnly_markAll (s : State) : State.worksOnly s s.markAll := worksOnly_markWhere _ _

theorem worksOnly_clean (s : State) (i : Nat) : State.worksOnly s (s.clean i) := rfl
theorem worksOnly_setSign (s : State) (i : Nat) (g : Sign) : State.worksOnly s (s.setSign i g) := rfl
theorem worksOnly_setEngine (s : State) (n : Fin 4) (e : Engine) : State.worksOnly s (s.setEngine n e) := rfl
theorem worksOnly_updateEngine (s : State) (n : Fin 4) (f : Engine → Engine) : State.worksOnly s (s.updateEngine n f) :=
  rfl
theorem worksOnly_setPort (s : State) (n : Fin 4) (p : Port) : State.worksOnly s (s.setPort n p) := rfl
theorem worksOnly_setComposition (s : State) (c : Option Composition) : State.worksOnly s (s.setComposition c) := rfl
theorem worksOnly_setLists (s : State) (n : Fin 4) (l : FaceLists) : State.worksOnly s (s.setLists n l) := rfl
theorem worksOnly_leaveLists (s : State) (n : Fin 4) (i : Nat) : State.worksOnly s (s.leaveLists n i) := rfl
theorem worksOnly_returnToHead (s : State) (n : Fin 4) (i : Nat) (r : Rank) : State.worksOnly s (s.returnToHead n i r) :=
  rfl
theorem worksOnly_owe (s : State) (n : Fin 4) (a : Nat) (m : ClearMask) : State.worksOnly s (s.owe n a m) := rfl
theorem worksOnly_unowe (s : State) (n : Fin 4) (a : Nat) : State.worksOnly s (s.unowe n a) := rfl
theorem worksOnly_portQuiet (s : State) (n : Fin 4) (q : QuietKind) : State.worksOnly s (s.portQuiet n q) := rfl

theorem worksOnly_handToPort (s : State) (n : Fin 4) : State.worksOnly s (s.handToPort n) := by
  unfold State.handToPort; split
  · split <;> rfl
  · rfl

/-! ## Records, engines included -/

theorem worksOnly_settleEngine (s : State) (n : Fin 4) : State.worksOnly s (s.settleEngine n) := by
  rw [settleEngine_eq]; rfl

theorem worksOnly_enter (s : State) {it : Item} (hf : it.producer ≠ .fill) : State.worksOnly s (s.enter it) := by
  unfold State.enter State.afterEnter
  rw [postsOnly_readyForLast s hf]
  have h0 : State.worksOnly s ((s.enqueue it.record).handRaise it.raises) :=
    ((postsOnly_enqueue s it.record).trans (postsOnly_handRaise _ it.raises)).works
  rcases it with ⟨p, r, f⟩
  cases p with
  | fill => exact absurd rfl hf
  | engine n => exact h0.trans ((postsOnly_handNext _ _).works.trans (worksOnly_settleEngine _ n))
  | ring n => exact h0.trans ((postsOnly_handNext _ _).works.trans (worksOnly_settleEngine _ n))
  | post => exact h0.trans (postsOnly_handNext _ _).works
  | rooms => exact h0.trans (postsOnly_handNext _ _).works
  | signTable => exact h0.trans (postsOnly_handNext _ _).works
  | credit => exact h0.trans (postsOnly_handNext _ _).works

/-- A record handed by any block but the start-up fill. -/
theorem worksOnly_hand (s : State) {it : Item} (hf : it.producer ≠ .fill) : State.worksOnly s (s.hand it) := by
  unfold State.hand
  split
  · exact worksOnly_enter s hf
  · split
    · rfl
    · exact (postsOnly_setWaiting _ _).works

theorem worksOnly_handHealth (s old : State) {p : Producer} (hp : p ≠ .fill) (raises : Tab (BitVec 13))
    (changed : Nat → Bool) : State.worksOnly s (s.handHealth old p raises changed) :=
  worksOnly_foldl _ (fun _ _ => worksOnly_hand _ hp) _ _

theorem worksOnly_syncHealth (s old : State) {p : Producer} (hp : p ≠ .fill) (always : List Nat)
    (raises : Tab (BitVec 13)) : State.worksOnly s (s.syncHealth old p always raises) :=
  worksOnly_handHealth s old hp raises _

theorem worksOnly_syncRooms (s old : State) : State.worksOnly s (s.syncRooms old) := (postsOnly_syncRooms s old).works

theorem worksOnly_syncEcho (s old : State) (f : BitVec 13) : State.worksOnly s (s.syncEcho old f) :=
  (postsOnly_syncEcho s old f).works

/-! ## Judgements and compositions -/

theorem worksOnly_enqueueFace (s : State) (i : Nat) (g : Sign) (r : Rank) : State.worksOnly s (s.enqueueFace i g r) :=
  rfl
theorem worksOnly_deferSign (s : State) (i : Nat) (g : Sign) : State.worksOnly s (s.deferSign i g) := rfl
theorem worksOnly_letGo (s : State) (n : Fin 4) (i : Nat) (g : Sign) : State.worksOnly s (s.letGo n i g) := rfl

theorem worksOnly_judgeDirty (s : State) (i : Nat) (g : Sign) (c : FaceClass) :
    State.worksOnly s (s.judgeDirty i g c) := by
  unfold State.judgeDirty
  split
  · rfl
  · cases c <;> dsimp only <;> (repeat' split) <;> rfl

theorem worksOnly_sendFace (s : State) (n : Fin 4) (i : Nat) (g : Sign) (r : Rank) (rec : FaceRecord) (b : List Byte) :
    State.worksOnly s (s.sendFace n i g r rec b) :=
  State.worksOnly.trans (t := (((s.setSign i { g with deferred := false, state := .sending, sequence := sendSequence g rec
    }).leaveLists g.defn.line i).updateEngine n
      fun e => { e with state := .ready (.face i g.defn.address (sendSequence g rec) r rec b) })) rfl
    (worksOnly_handToPort _ _)

theorem worksOnly_judgeSend (s : State) (n : Fin 4) (i : Nat) (g : Sign) (c : FaceClass) (rec : FaceRecord)
    (b : List Byte) : State.worksOnly s (s.judgeSend n i g c rec b) := by
  unfold State.judgeSend
  split
  · rfl
  · cases c <;> dsimp only <;> (repeat' split) <;> first | exact worksOnly_sendFace .. | rfl

theorem worksOnly_endComposition (s : State) (c : Composition) : State.worksOnly s (s.endComposition c) := by
  unfold State.endComposition
  dsimp only
  split
  · rfl
  · split
    · rfl
    · split
      · exact State.worksOnly.trans (t := s.setComposition none) rfl (worksOnly_judgeDirty ..)
      · exact State.worksOnly.trans (t := s.setComposition none) rfl (worksOnly_judgeSend ..)

theorem worksOnly_syncClosed (s old : State) (e : Option (Fin 4)) : State.worksOnly s (s.syncClosed old e) := by
  unfold State.syncClosed
  cases e
  · exact worksOnly_handHealth s old (p := .credit) (by simp) _ _
  · exact (worksOnly_handHealth s old (p := .credit) (by simp) _ _).trans
      (worksOnly_handHealth _ old (p := .engine _) (by simp) _ _)

theorem worksOnly_closeComposition (s : State) (c : Composition) : State.worksOnly s (s.closeComposition c) :=
  (worksOnly_endComposition s c).trans (worksOnly_syncClosed _ s c.engine)

theorem worksOnly_resumeComposition (s : State) : State.worksOnly s s.resumeComposition := by
  unfold State.resumeComposition
  split
  · split
    · exact worksOnly_closeComposition ..
    · exact .refl _
  · exact .refl _

theorem worksOnly_afterCredit (s : State) (p : Producer) : State.worksOnly s (s.afterCredit p) := by
  unfold State.afterCredit
  split
  · exact worksOnly_resumeComposition s
  · exact .refl _

/-- The composition in progress goes on. -/
theorem worksOnly_advance (s : State) : State.worksOnly s s.advance := by
  unfold State.advance
  split
  · rfl
  · dsimp only
    split
    · refine State.worksOnly.trans ?_ (worksOnly_closeComposition _ _); rfl
    · rfl

/-- A composition begins. -/
theorem worksOnly_beginComposition (s : State) (i : Nat) (g : Sign) (e : Option (Fin 4)) :
    State.worksOnly s (s.beginComposition i g e) := by
  unfold State.beginComposition
  dsimp only
  refine State.worksOnly.trans ?_ (worksOnly_advance _); rfl

theorem worksOnly_arrive (s : State) (f : Fill) : State.worksOnly s (s.arrive f) := by
  unfold State.arrive
  dsimp only
  repeat' split
  all_goals rfl

theorem worksOnly_spoil (s : State) (l : Nat) : State.worksOnly s (s.spoil l) := by
  unfold State.spoil
  split
  · rfl
  · split <;> rfl

/-- The answer to a host write in the pool. -/
theorem worksOnly_snoopLine (s : State) (l : Nat) : State.worksOnly s (s.snoopLine l) := by
  unfold State.snoopLine State.markText
  refine State.worksOnly.trans ?_ (worksOnly_advance _)
  refine State.worksOnly.trans ?_ (worksOnly_markWhere _ _)
  refine State.worksOnly.trans ?_ (worksOnly_spoil _ _)
  rfl

/-! ## Outcomes of exchanges -/

theorem worksOnly_handleFlags (s : State) (n : Fin 4) (i a : Nat) (m : ClearMask) (f : SignFlags) :
    State.worksOnly s (s.handleFlags n i a m f).1 := by
  unfold State.handleFlags
  split
  · rfl
  · dsimp only
    repeat' split
    all_goals first
      | rfl
      | (refine State.worksOnly.trans ?_ (worksOnly_markDirty _ _); rfl)

theorem worksOnly_endOutcome (s old : State) (n : Fin 4) (al : List Nat) (ra : Tab (BitVec 13)) :
    State.worksOnly s (s.endOutcome old n al ra) := by
  unfold State.endOutcome
  dsimp only
  exact ((worksOnly_syncHealth s old (p := .engine n) (by simp) al ra).trans
    (worksOnly_updateEngine _ n fun e => { e with state := .finishing })).trans (worksOnly_settleEngine _ n)

theorem worksOnly_onStatus (s : State) (n : Fin 4) (i a : Nat) (m : ClearMask) (f : SignFlags) (q : Byte) :
    State.worksOnly s (s.onStatus n i a m f q) := by
  unfold State.onStatus
  split
  · exact worksOnly_endOutcome ..
  · dsimp only
    refine State.worksOnly.trans ?_ (worksOnly_endOutcome ..)
    refine State.worksOnly.trans ?_ (worksOnly_handleFlags ..)
    split
    · refine State.worksOnly.trans ?_ (worksOnly_markDirty _ _); rfl
    · rfl

theorem worksOnly_loseSign (s : State) (n : Fin 4) (i a : Nat) (g : Sign) : State.worksOnly s (s.loseSign n i a g) := rfl

theorem worksOnly_onBadQuery (s : State) (n : Fin 4) (i a : Nat) (m : ClearMask) :
    State.worksOnly s (s.onBadQuery n i a m) := by
  unfold State.onBadQuery
  split
  · exact worksOnly_endOutcome ..
  · split
    · exact State.worksOnly.trans (worksOnly_loseSign ..) (worksOnly_endOutcome ..)
    · refine State.worksOnly.trans ?_ (worksOnly_endOutcome ..); rfl

theorem worksOnly_onAccept (s : State) (n : Fin 4) (i a : Nat) (rec : FaceRecord) (f : SignFlags) :
    State.worksOnly s (s.onAccept n i a rec f) := by
  unfold State.onAccept
  split
  · exact worksOnly_endOutcome ..
  · dsimp only
    refine State.worksOnly.trans ?_ (worksOnly_endOutcome ..)
    refine State.worksOnly.trans ?_ (worksOnly_handleFlags ..); rfl

theorem worksOnly_onBusy (s : State) (n : Fin 4) (i a : Nat) (r : Rank) (f : SignFlags) :
    State.worksOnly s (s.onBusy n i a r f) := by
  unfold State.onBusy
  split
  · exact worksOnly_endOutcome ..
  · dsimp only
    refine State.worksOnly.trans ?_ (worksOnly_endOutcome ..)
    refine State.worksOnly.trans ?_ (worksOnly_handleFlags ..); rfl

theorem worksOnly_onBadFace (s : State) (n : Fin 4) (i a : Nat) (q : Byte) (r : Rank) (rec : FaceRecord) :
    State.worksOnly s (s.onBadFace n i a q r rec) := by
  unfold State.onBadFace
  split
  · exact worksOnly_endOutcome ..
  · split
    · exact State.worksOnly.trans (worksOnly_loseSign ..) (worksOnly_endOutcome ..)
    · exact ((((worksOnly_setSign s i _).trans (worksOnly_returnToHead _ _ i r)).trans
        (worksOnly_owe _ n a .query))).trans (worksOnly_endOutcome _ s n [] [])

theorem worksOnly_onOutcome (s : State) (n : Fin 4) (x : Exchange) (ig : Bool) (o : ReplyOutcome) :
    State.worksOnly s (s.onOutcome n x ig o) := by
  unfold State.onOutcome
  split
  · exact worksOnly_endOutcome ..
  · split
    · exact worksOnly_onStatus ..
    · exact worksOnly_onBadQuery ..
    · exact worksOnly_onStatus ..
    · exact worksOnly_onBadQuery ..
    · exact worksOnly_onAccept ..
    · exact worksOnly_onBusy ..
    · exact worksOnly_onBadFace ..
    · exact .refl _

/-- A reply judged, good or bad. -/
theorem worksOnly_takeReply (s : State) (n : Fin 4) (o : Exchange → ReplyOutcome) :
    State.worksOnly s (s.takeReply n o) := by
  unfold State.takeReply
  split
  · dsimp only
    split
    · exact State.worksOnly.trans (worksOnly_portQuiet ..) (worksOnly_onOutcome ..)
    · rfl
  · rfl

theorem worksOnly_handleMark (s : State × Tab (BitVec 13)) (n : Fin 4) (p : Bool) (m : BitVec 128) (a : Nat) :
    State.worksOnly s.1 (State.handleMark s n p m a).1 := by
  unfold State.handleMark
  split
  · rfl
  · split
    · split
      · dsimp only
        refine State.worksOnly.trans ?_ (worksOnly_markDirty _ _); rfl
      · rfl
    · split <;> rfl

/-- A slot map gone through. -/
theorem worksOnly_onMap (s : State) (n : Fin 4) (p : Bool) (m : BitVec 128) : State.worksOnly s (s.onMap n p m) := by
  unfold State.onMap
  dsimp only
  have h : ∀ (l : List Nat) (a : State × Tab (BitVec 13)),
      State.worksOnly a.1 (l.foldl (fun a i => State.handleMark a n p m i) a).1 := by
    intro l
    induction l with
    | nil => intro a; rfl
    | cons i l ih => intro a; exact (worksOnly_handleMark a n p m i).trans (ih _)
  exact ((h (List.range 128) (s, [])).trans (worksOnly_updateEngine _ n (sweptEngine p))).trans
    (worksOnly_endOutcome _ s n [] _)

/-! ## Engines and lines -/

/-- An engine's choice of work. -/
theorem worksOnly_chooseWork (s : State) (n : Fin 4) : State.worksOnly s (s.chooseWork n) := by
  unfold State.chooseWork
  dsimp only
  split
  · refine State.worksOnly.trans ?_ (worksOnly_handToPort _ _); rfl
  · split
    · rfl
    · split
      · refine State.worksOnly.trans ?_ (worksOnly_handToPort _ _); rfl
      · repeat' split
        all_goals rfl

theorem worksOnly_startLine (s : State) (n : Fin 4) : State.worksOnly s (s.startLine n) := by
  unfold State.startLine
  dsimp only
  split <;> rfl

theorem worksOnly_returnFace (s : State) (i : Nat) (r : Rank) (u : Option (Byte × FaceRecord)) :
    State.worksOnly s (s.returnFace i r u) := by
  unfold State.returnFace; split <;> rfl

theorem worksOnly_orphanComposition (s : State) (n : Fin 4) : State.worksOnly s (s.orphanComposition n) := by
  unfold State.orphanComposition
  split
  · split <;> rfl
  · rfl

theorem worksOnly_abandonWork (s : State) (n : Fin 4) : State.worksOnly s (s.abandonWork n) := by
  unfold State.abandonWork
  split
  · exact worksOnly_orphanComposition _ _
  · exact worksOnly_returnFace ..
  · split <;> exact worksOnly_returnFace ..
  · rfl

/-- A port whose line is stopped goes on driving the BREAK's first part, or the BREAK and whole characters (R136). -/
theorem cutOff_cutsTo (p : Port) (i : Nat) : p.cutsTo (p.cutOff i).cut := by
  constructor
  · intro h
    simp only [Port.cutOff, h, cutLevels]
    split
    · rename_i hi
      refine .inl ⟨i, hi, ?_⟩
      rw [frameLevels, List.take_append_of_le_length (by rw [length_breakLevels]; exact hi)]
    · refine .inr ⟨min ((i - 35 + 9) / 10) p.frame.length, Nat.min_le_right _ _, ?_⟩
      rw [take_frameLevels, ← List.take_eq_take_min]
  · intro h
    cases hs : p.state <;> simp_all [Port.cutOff]

/-- A line is stopped: the place of the cut takes one free value (log entry 36). -/
theorem worksOnly_stopLine (s : State) (n : Fin 4) : State.worksOnly s.useFree (s.stopLine n) := by
  have free : ∀ {a b : State}, State.worksOnly a b → State.worksOnly a.useFree b.useFree := by
    intro a b h
    have e : b.freeIndex = a.freeIndex := h.read State.freeIndex fun _ => rfl
    have r : b.resting = a.resting := h
    show ({ b.resting with freeIndex := b.freeIndex + 1 } : State) = { a.resting with freeIndex := a.freeIndex + 1 }
    rw [e, r]
  unfold State.stopLine
  dsimp only
  exact (free ((worksOnly_abandonWork s n).trans ((worksOnly_updateEngine _ n fun e =>
    { e with state := .off, owed := [], sweepTimer := none, due := false }).trans
      (worksOnly_setPort _ n _)))).trans (worksOnly_syncHealth _ s (p := .engine n) (by simp) _ _)

theorem worksOnly_clearOldLine (s : State) (i : Nat) (d : SignDef) : State.worksOnly s (s.clearOldLine i d) := rfl

theorem worksOnly_changeSlot (s : State) (t : Tab SignDef) (dr : List Nat) (i : Nat) :
    State.worksOnly s (s.changeSlot t dr i) := by
  unfold State.changeSlot
  split
  · exact .refl _
  · exact worksOnly_setSign _ _ _
  · rename_i g _ _
    exact State.worksOnly.trans (t := (s.clearOldLine i g.defn).clean i) (worksOnly_clearOldLine s i g.defn) rfl
  · rename_i g d _ _
    split
    · exact (worksOnly_clearOldLine s i g.defn).trans (worksOnly_setSign _ _ _)
    · split
      · exact (worksOnly_clearOldLine s i g.defn).trans (worksOnly_setSign _ _ _)
      · exact worksOnly_setSign _ _ _

/-- The changes of the slots a batch named. -/
theorem worksOnly_changeSigns (s : State) (w : Work) : State.worksOnly s (s.changeSigns w) :=
  worksOnly_foldl _ (fun _ _ => worksOnly_changeSlot _ _ _ _) _ _

theorem worksOnly_markRoomChanges (s old : State) : State.worksOnly s (s.markRoomChanges old) :=
  worksOnly_foldl _ (fun _ _ => worksOnly_markWhere _ _) _ _

theorem worksOnly_markApplied (s old : State) (w : Work) : State.worksOnly s (s.markApplied old w) := by
  unfold State.markApplied
  dsimp only
  exact (worksOnly_foldl _ (fun _ _ => worksOnly_markWhere _ _) _ _).trans
    (worksOnly_foldl _ (fun _ _ => worksOnly_markDirty _ _) _ _)

theorem worksOnly_serveDirty (s : State) : State.worksOnly s s.serveDirty := by
  have h : ∀ (l : List Nat) (u : State), State.worksOnly u (searchDirty l u).1 := by
    intro l
    induction l with
    | nil => intro u; rfl
    | cons i l ih =>
      intro u
      simp only [searchDirty]
      split
      · exact (worksOnly_clean u i).trans (ih _)
      · split
        · exact ih _
        · split
          · exact (worksOnly_clean u i).trans (ih _)
          · rfl
  unfold State.serveDirty
  dsimp only
  split
  · exact h (searchOrder s.comp.servicePos s.comp.dirty) s
  · rename_i i g _
    have h0 := h (searchOrder s.comp.servicePos s.comp.dirty) s
    have h1 : State.worksOnly s { (searchDirty (searchOrder s.comp.servicePos s.comp.dirty) s).1 with
        comp := { (searchDirty (searchOrder s.comp.servicePos s.comp.dirty) s).1.comp with servicePos := i } } :=
      h0.trans rfl
    exact h1.trans (worksOnly_beginComposition _ i g none)

theorem worksOnly_serveRequest (s : State) (n : Fin 4) (i : Nat) : State.worksOnly s (s.serveRequest n i) := by
  unfold State.serveRequest
  split
  · rfl
  · rename_i g _
    exact State.worksOnly.trans (s := s) (t := { s with comp := { s.comp with lastServed := n } }) rfl
      (worksOnly_beginComposition _ i g (some n))

end Sys2Proof.Machine
end

