-- ==== Sys2Proof/Laws/Path.lean ====
section
/-! SUPPORT. What the path unit's operations can change: an own access, the start of a host access and its end. The pins,
the lanes, the clock, the store and the queue of commands are never among it. -/

namespace Sys2Proof.Machine

/-! ## What an own access keeps -/

/-- An own access keeps the pins, the lanes, the clock, the store, the region base, the event flags, the free values used
and the queue of commands. -/
def State.ownKept (s t : State) : Prop :=
  t.pending = s.pending ∧ t.pins = s.pins ∧ t.lane = s.lane ∧ t.clock = s.clock ∧ t.store = s.store
    ∧ t.path.base = s.path.base ∧ t.post.flags = s.post.flags ∧ t.freeIndex = s.freeIndex

theorem State.ownKept.refl (s : State) : s.ownKept s := ⟨rfl, rfl, rfl, rfl, rfl, rfl, rfl, rfl⟩

theorem State.ownKept.trans {s t u : State} (h1 : s.ownKept t) (h2 : t.ownKept u) : s.ownKept u :=
  ⟨h2.1.trans h1.1, h2.2.1.trans h1.2.1, h2.2.2.1.trans h1.2.2.1, h2.2.2.2.1.trans h1.2.2.2.1,
    h2.2.2.2.2.1.trans h1.2.2.2.2.1, h2.2.2.2.2.2.1.trans h1.2.2.2.2.2.1, h2.2.2.2.2.2.2.1.trans h1.2.2.2.2.2.2.1,
    h2.2.2.2.2.2.2.2.trans h1.2.2.2.2.2.2.2⟩

theorem State.worksOnly.kept {s t : State} (h : State.worksOnly s t) : s.ownKept t :=
  ⟨h.pending, h.pins, h.lane, h.clock, h.store, h.base, h.flags, h.read State.freeIndex fun _ => rfl⟩

theorem ownKept_ownAccessMade (s : State) : s.ownKept s.ownAccessMade := .refl s

theorem ownKept_noteChoice (s : State) (b : Bool) : s.ownKept (s.noteChoice b) := by
  unfold State.noteChoice; split <;> exact .refl s

theorem ownKept_makePostWrite (s : State) : s.ownKept s.makePostWrite := by
  unfold State.makePostWrite
  split
  · exact .refl s
  · exact ownKept_noteChoice s true

theorem ownKept_makeFillRead (s : State) : s.ownKept s.makeFillRead := by
  unfold State.makeFillRead
  split
  · exact .refl s
  · dsimp only
    split
    · exact ownKept_noteChoice s false
    · split
      · exact ownKept_noteChoice s false
      · rename_i l _ _ _ f _ _
        have h1 : s.ownKept { (s.noteChoice false).ownAccessMade with
            cache := (s.noteChoice false).ownAccessMade.cache.readWord l
              (readWord (s.noteChoice false).ownAccessMade.mem
                ((s.noteChoice false).ownAccessMade.regionAddress (poolOffset l + 2 * f.data.length))) } :=
          ownKept_noteChoice s false
        exact h1.trans ((worksOnly_arrive _ _).trans (worksOnly_advance _)).kept

theorem State.postsOnly.kept {s t : State} (h : State.postsOnly s t) : s.ownKept t := h.works.kept

theorem ownKept_takeStyle (s : State) (st : RoomState) (v : Word) : s.ownKept (s.takeStyle st v) := by
  unfold State.takeStyle
  refine State.ownKept.trans ?_ (postsOnly_syncEcho _ _ _).kept
  split
  · exact (worksOnly_markAll _).kept
  · exact .refl s

theorem ownKept_takeKind (s : State) (k : SignKind) (v : Word) : s.ownKept (s.takeKind k v) := by
  unfold State.takeKind
  refine State.ownKept.trans ?_ (postsOnly_syncEcho _ _ _).kept
  refine State.ownKept.trans ?_ (worksOnly_syncHealth _ _ (p := .credit) (by simp) _ _).kept
  exact .refl s

theorem ownKept_takePlain (s : State) (p : PlainSetup) (v : Word) : s.ownKept (s.takePlain p v) := by
  unfold State.takePlain
  have h := (postsOnly_syncEcho { s with setup := s.setup.takePlain p v } s 0).kept
  exact ⟨h.1, h.2.1, h.2.2.1, h.2.2.2.1, h.2.2.2.2.1, h.2.2.2.2.2.1, h.2.2.2.2.2.2.1, h.2.2.2.2.2.2.2⟩

theorem ownKept_reloadMatrix (s : State) (v : Word) : s.ownKept (s.reloadMatrix v) := by
  unfold State.reloadMatrix
  exact State.ownKept.trans (t := { s with setup := { s.setup with matrix := matrixOf v, pendingMatrix := false } })
    (.refl s) (postsOnly_syncEcho _ _ _).kept

theorem ownKept_advanceReload (s : State) (k : Nat) : s.ownKept (s.advanceReload k) := by
  unfold State.advanceReload State.handFill
  split <;> exact .refl s

theorem ownKept_reloadWord (s : State) (w : SetupWord) (v : Word) : s.ownKept (s.reloadWord w v) := by
  unfold State.reloadWord
  split
  · exact ownKept_reloadMatrix s _
  · exact ownKept_takeStyle s _ _
  · exact ownKept_takeKind s _ _
  · exact ownKept_takePlain s _ _
  · exact .refl s

theorem ownKept_reloadStep (s : State) (k : Nat) : s.ownKept (s.reloadStep k) := by
  unfold State.reloadStep
  dsimp only
  split
  · exact (ownKept_reloadWord s _ _).trans (ownKept_advanceReload _ k)
  · exact ownKept_advanceReload s k

theorem ownKept_makeSetupRead (s : State) : s.ownKept s.makeSetupRead := by
  unfold State.makeSetupRead
  split
  · exact State.ownKept.trans (ownKept_ownAccessMade s) (ownKept_reloadStep _ _)
  · exact .refl s

theorem ownKept_ownAccess (s : State) : s.ownKept s.ownAccess := by
  unfold State.ownAccess
  split
  · exact ownKept_makeSetupRead s
  · exact ownKept_makePostWrite s
  · exact ownKept_makeFillRead s
  · exact .refl s

/-! ## The host access -/

/-- All that the start of a host access can be: nothing; one own access, made for an access that is held back; or the access
for which one has been made goes on (R164, R174). -/
theorem beginHost_cases (s : State) :
    (s.path.hold = .none ∧ s.insists = false ∧ s.beginHost = s)
    ∨ (((s.path.hold = .none ∧ s.insists = true) ∨ s.path.hold = .waiting) ∧ s.beginHost = s.ownAccess.releaseHold)
    ∨ (s.path.hold = .granted ∧ s.beginHost = s.releaseHold) := by
  unfold State.beginHost
  cases h : s.path.hold <;> cases hi : s.insists <;> simp

theorem ownKept_beginHost (s : State) : s.ownKept s.beginHost := by
  rcases beginHost_cases s with ⟨_, _, h⟩ | ⟨_, h⟩ | ⟨_, h⟩
  · rw [h]; exact .refl s
  · rw [h]; exact ownKept_ownAccess s
  · rw [h]; exact .refl s

@[simp] theorem beginHost_pending (s : State) : s.beginHost.pending = s.pending := (ownKept_beginHost s).1
@[simp] theorem beginHost_pins (s : State) : s.beginHost.pins = s.pins := (ownKept_beginHost s).2.1
@[simp] theorem beginHost_lane (s : State) : s.beginHost.lane = s.lane := (ownKept_beginHost s).2.2.1
@[simp] theorem beginHost_clock (s : State) : s.beginHost.clock = s.clock := (ownKept_beginHost s).2.2.2.1
@[simp] theorem beginHost_store (s : State) : s.beginHost.store = s.store := (ownKept_beginHost s).2.2.2.2.1
@[simp] theorem beginHost_base (s : State) : s.beginHost.path.base = s.path.base := (ownKept_beginHost s).2.2.2.2.2.1
@[simp] theorem beginHost_flags (s : State) : s.beginHost.post.flags = s.post.flags := (ownKept_beginHost s).2.2.2.2.2.2.1
@[simp] theorem beginHost_freeIndex (s : State) : s.beginHost.freeIndex = s.freeIndex :=
  (ownKept_beginHost s).2.2.2.2.2.2.2
@[simp] theorem beginHost_active (s : State) : s.beginHost.active = s.active := by simp [State.active]
@[simp] theorem beginHost_laneAt (s : State) (n : Fin 4) : s.beginHost.laneAt n = s.laneAt n := by simp [State.laneAt]

/-- While the part is at work and power is good, a host access is served. -/
theorem hostAccess_active {s : State} (h : s.active = true) (p f : State → State) :
    s.hostAccess p f = s.servedAccess f := by
  have hp : s.pins.pgood = true := by
    have := h; simp only [State.active, Bool.and_eq_true] at this; exact this.1.1
  simp [State.hostAccess, hp, h]

/-- An access that requests no restart ends as `endHost` gives, with no effect but on the insist count. -/
theorem servedAccess_counts (s : State) (f : State → State)
    (h : (f s.beginHost).setup.restartCount = s.beginHost.setup.restartCount) :
    s.servedAccess f = (f s.beginHost).endHost s.workWaited := by
  simp [State.servedAccess, h]

theorem countsOnly_servedAccess (s : State) (f : State → State) : State.countsOnly (f s.beginHost) (s.servedAccess f) := by
  unfold State.servedAccess
  dsimp only
  split
  · rfl
  · exact countsOnly_endHost _ _

end Sys2Proof.Machine
end

