-- ==== Sys2Proof/Tests/Slice0.lean ====
section
/-! SUPPORT. Tests: ill-formed terms refused, words written out from section 12.4, the manual's worked examples, and a
witness that the hypotheses of each statement can be met. Expected values are the manual's. -/

namespace Sys2Proof.Tests

open Sys2Proof Sys2Proof.Machine

/-! ## Small states -/

/-- A STRICT room in session with session 300. -/
def room7 : Room :=
  { name := { line := 0, len := 10 }, zone := 3, policy := .strict, changeover := 10, state := .inSession, current := 300
    next := 0, overlap := false }

/-- Another room, OPEN to overlaps. -/
def room14 : Room := { room7 with policy := .free, state := .closed, current := 0 }

/-- A session of room 7. -/
def talk (start fin : Nat) : Session :=
  { room := 7, cls := .talk, start := start, fin := fin, title := { line := 1, len := 5 }
    presenter := { line := 0, len := 0 }, movedFrom := none, cancelled := false }

/-- A DOOR sign of line 0 at address 17. -/
def door : Sign :=
  { defn := { line := 0, address := 17, lines := 3, lookahead := 60, targets := .door 7 }, state := .pending, sequence := 5
    failures := 0, seen := .none, unconfirmed := none, timer := none, credits := 3, deferred := false
    shown := blankRecord .default }

/-- A part in service at minute 545: line 0 enabled and idle, sign 40 PENDING on its CONTENT list. -/
def live : State :=
  { State.reset with
    setup := { SetupLogic.default with phase := .running, control := 1 }
    clock := { ClockUnit.start 1 with now := 545, origin := 480, state := .running }
    store := { sessions := [(300, talk 540 600)], rooms := [(7, room7), (14, room14)] }
    signs := [(40, door)]
    lists := { Quad.all { urgent := [], content := [], tick := [] } with q0 := { urgent := [], content := [40], tick := [] } }
    engines := { Quad.all Engine.stopped with q0 := { Engine.stopped with state := .idle, sweepTimer := some 10 } }
    ports := { Quad.all Port.stopped with q0 := { Port.stopped with state := .idle } }
    post := .empty }

/-- `live` with engine 0 in a state. -/
def engine0 (st : EngineState) : State := live.setEngine 0 { live.engines.q0 with state := st }

/-- A check come to one entry at offset 0 on a working copy. -/
def checkOf (w : Work) (e : Entry) : Check :=
  { entries := [(0, e)], passed := 0, work := w, refusal := none, starts := 0 }

/-- The part in service with lane 0 APPLYING, its commit queue and its batch. -/
def applying (b : Batch) : State :=
  { live with lane :=
    { lanes := { Quad.all Lane.empty with q0 := { Lane.empty with state := .applying, accepted := some (5, 4) } }
      commit := [0]
      batch := b } }

/-- The part in service with a check come to an entry. -/
def checking (w : Work) (e : Entry) : State := applying (.checking (checkOf w e))

/-- The working copy of `live`. -/
def w0 : Work := live.workingCopy

/-- It, with both rooms HELD. -/
def wHeld : Work := { w0 with rooms := [(7, { room7 with state := .held }), (14, { room14 with state := .held })] }

/-- It, with a full session table. -/
def wFull : Work := { w0 with sessions := (List.range 1024).map fun i => (i + 1, talk 540 600) }

/-- It, with session 300 cancelled. -/
def wCancelled : Work := { w0 with sessions := [(300, { talk 540 600 with cancelled := true })] }

/-- What `exec` answers, read by a test. -/
def after (c : Instr) (s : State) (p : State → Bool) : Bool :=
  match exec c s with
  | .next t => p t
  | _ => false

/-! ## Well-formedness: each check refuses an ill-formed term -/

theorem test_wf_guarded_flags : instrWf 0 (.guardedWrite 64 (.both 0)) = false := by decide
theorem test_wf_guarded_readCount : instrWf 0 (.guardedWrite 193 (.both 0)) = false := by decide
theorem test_wf_guarded_neither : instrWf 0 (.guardedWrite 0 .neither) = false := by decide
theorem test_wf_write_owned : instrWf 0 (.hostWrite 0x2000 (.both 1)) = false := by decide
theorem test_wf_write_setup : instrWf 0 (.hostWrite 1 (.both 1)) = false := by decide
theorem test_wf_snoop_neither : instrWf 0 (.snoop 0 0 .neither) = false := by decide
theorem test_wf_ack_neither : instrWf 0 (.ackMerge .neither) = false := by decide
theorem test_wf_readCount_neither : instrWf 0 (.readCountWrite .neither) = false := by decide
theorem test_wf_putSession : entryWf (.putSession 16 1 7 0 1 ⟨0, 1⟩ ⟨0, 0⟩) = false := by decide
theorem test_wf_dropSession : entryWf (.dropSession 65536) = false := by decide
theorem test_wf_cancelSession : entryWf (.cancelSession 65536) = false := by decide
theorem test_wf_moveSession : entryWf (.moveSession 1 256) = false := by decide
theorem test_wf_shiftSession : entryWf (.shiftSession true 1 32768) = false := by decide
theorem test_wf_putRoom : entryWf (.putRoom 4 0 ⟨0, 1⟩ 0 0) = false := by decide
theorem test_wf_roomState : entryWf (.roomState 16 0) = false := by decide
theorem test_wf_setClock : entryWf (.setClock 65536 0) = false := by decide
theorem test_wf_putSign : entryWf (.putSign 4 0 0 0 0 0 []) = false := by decide
theorem test_wf_dropSign : entryWf (.dropSign 65536) = false := by decide

/-! ## Words of section 12.4, written out -/

theorem test_decode_moveSession : decodeEntry [0x0004, 0x012C, 0x000E] = some (.moveSession 300 14, []) := by decide
theorem test_decode_shiftSession : decodeEntry [0x0105, 0x004D, 0xFFF6] = some (.shiftSession true 77 (-10), []) := by decide
theorem test_decode_putSession :
    decodeEntry [0x0301, 0x02BC, 0x0514, 0x05FF, 0x021C, 0x0258, 0x0003, 0x0040]
      = some (.putSession 3 700 20 540 600 ⟨1535, 5⟩ ⟨3, 64⟩, []) := by decide
theorem test_decode_dropSession : decodeEntry [0x0002, 0x00FA] = some (.dropSession 250, []) := by decide
theorem test_decode_cancelSession : decodeEntry [0x0003, 0x00FA] = some (.cancelSession 250, []) := by decide
theorem test_decode_putRoom :
    decodeEntry [0x0106, 0x0014, 0x0010, 0x0020, 0x0A0F] = some (.putRoom 1 20 ⟨16, 32⟩ 15 10, []) := by decide
theorem test_decode_roomState : decodeEntry [0x0207, 0x0014] = some (.roomState 2 20, []) := by decide
theorem test_decode_setClock : decodeEntry [0x0008, 0xFFFF, 0x059F] = some (.setClock 65535 1439, []) := by decide
theorem test_decode_putSign :
    decodeEntry [0x1209, 0x0028, 0x1131, 0x003C, 0x0007, 0x000E] = some (.putSign 1 40 1 3 17 60 [7, 14], []) := by decide
theorem test_decode_dropSign : decodeEntry [0x000A, 0x01FF] = some (.dropSign 511, []) := by decide
theorem test_decode_unknownKind : decodeBatch [0x0002, 0x00FA, 0x000B] = .format 2 1 := by decide
theorem test_postWord : postWordOf 5 false 4 = 0x0504 ∧ laneOffset 2 127 = 0x03FE := by decide
theorem test_table_word_spells_none : decodeTableWord 16 0x0504 = none := rfl

/-! ## Formats and worked examples -/

set_option maxRecDepth 8000 in
theorem test_crc_digits :
    crc [0x31, 0x32, 0x33, 0x34, 0x35, 0x36, 0x37, 0x38, 0x39] = 0x29B1 ∧ crc [] = 0xFFFF :=
  ⟨rfl, rfl⟩
theorem test_default_styles :
    styleCode Styles.default.closed = 0x18 ∧ styleCode Styles.default.opened = 0 ∧ styleCode Styles.default.inSession = 4
      ∧ styleCode Styles.default.changeover = 6 ∧ styleCode Styles.default.held = 9 := by decide
theorem test_default_kinds :
    kindWord Kinds.default.door = 0x298C ∧ kindWord Kinds.default.corridor = 0x160F
      ∧ kindWord Kinds.default.lobby = 0x1714 ∧ lineWord SetupLogic.default.lines.q0 = 0x0029 := by decide
theorem test_health_example :
    healthBody (some { door with
      defn := { door.defn with line := 1 }, state := .refreshing, credits := 2, sequence := 6 }) = [0x0245, 0x0600]
      ∧ healthOffset 40 = 0x1940 := by decide
theorem test_presence_sweep :
    (exchangeFrame (.sweep true .none .none true)).take 10
      = [0x51, 0x7F, 0x80, 0x00, 0xFF, 0x01, 0x02, 0x00, 0x00, 0x00] := by decide
theorem test_routine_sweep :
    ((exchangeFrame (.sweep false .every .every false)).drop 5).take 5 = [0x00, 0x02, 0x00, 0x0F, 0x0F] := by decide
theorem test_clear_frame :
    ((exchangeFrame (.clear 40 17 { btn := true, jam := true })).drop 1).take 5 = [0x11, 0xEE, 0x00, 0xFF, 0x09] := by decide
theorem test_times :
    timeOf 545 480 540 = (.now, 0, 0, 0) ∧ timeOf 545 480 553 = (.inMinutes, 5, 0, 0)
      ∧ timeOf 545 480 578 = (.inMinutes, 30, 0, 0) ∧ timeOf 545 480 620 = (.at, 18, 20, 0)
      ∧ timeOf 545 480 1000 = (.at, 0, 40, 1) ∧ timeOf 548 480 553 = (.starting, 0, 0, 0) := by decide

/-- Section 1.10: room 7 before batches A and B. -/
def chain7 : Tab Session :=
  [(100, { talk 480 540 with cls := .priv }), (101, talk 540 600), (102, { talk 600 615 with cls := .brk })
  , (103, talk 615 675), (105, { talk 615 660 with cancelled := true })
  , (120, { talk 620 680 with room := 9, movedFrom := some 7 })]

/-- The working copy of section 1.10. -/
def work7 : Work := { live.workingCopy with sessions := chain7, now := 500 }

/-- The overlap judgement after one entry of section 1.10. -/
def judged7 (e : Entry) : Option Refused :=
  match simulate 30 0 e work7 with
  | .passed w => judgeOverlap 0x35B#10 w w.touched
  | .refused _ _ => none

theorem test_cascade_batch_a :
    judged7 (.shiftSession true 101 (-10)) = some { code := .overlap, failing := 0, first := 100, second := 101 } := by decide
theorem test_cascade_batch_b : judged7 (.shiftSession true 100 (-10)) = none := by decide

/-- Section 1.11: session 300 of room 12 moved to 14, 15 and 14. -/
def moves12 : Option Session :=
  let rooms := [(12, room14), (14, room14), (15, room14)]
  let w : Work := { live.workingCopy with sessions := [(300, { talk 540 600 with room := 12 })], rooms := rooms }
  [(0, 14), (3, 15), (6, 14)].foldl
      (fun (o : Option Work) m => o.bind fun v => match simulate 30 m.1 (.moveSession 300 m.2) v with
        | .passed v' => some v'
        | .refused _ _ => none) (some w)
    |>.bind fun v => Tab.get v.sessions 300

theorem test_moves_back_home : moves12.map (fun e => (e.room, e.movedFrom)) = some (14, none) := by decide

/-! ## Witnesses: states and operands that meet the hypotheses of the statements, clause by clause -/

theorem witness_StepRunsFrontCommand : ({ live with pending := [.pgoodFall] } : State).pending = .pgoodFall :: [] := rfl

theorem witness_EntryDecode_widest :
    entryWf (.putSession 15 65535 255 65535 65535 ⟨65535, 255⟩ ⟨65535, 255⟩) = true
      ∧ entryWf (.shiftSession true 65535 (-32768)) = true
      ∧ entryWf (.putSign 3 65535 15 15 255 65535 (List.replicate 15 65535)) = true := by decide
theorem witness_EntryDecode_batch : ∀ e ∈ [Entry.dropSession 0, .roomState 15 255], entryWf e = true := by decide
theorem witness_EntryDecode_unknown : ∀ n, entryLength 0x0000 = some n → ([] : List Word).length + 1 < n := by
  intro n h; simp [entryLength, field] at h
theorem witness_EntryDecode_short : ∀ n, entryLength 0x0001 = some n → (List.replicate 6 (0 : Word)).length + 1 < n := by
  intro n h; simp [entryLength, field] at h; simp [← h]

theorem strictFree_live : live.workingCopy.strictFree live.setup.matrix := by
  rintro i r - - x y ⟨hx, hy, -, -, hp, -⟩
  simp [State.workingCopy, live] at hx hy
  subst hx hy
  simp [chainPrecedes] at hp

/-- One state meets every invariant's premises, and its step answers a next state. -/
theorem witness_StepKeeps :
    let s := { live with pending := [.recordEnqueue] }
    s.setup.inRange = true ∧ s.storeOk = true ∧ s.signsOk = true ∧ s.creditsOk = true ∧ s.postQueueFits = true
      ∧ s.cacheOk = true ∧ s.post.ringOk = true ∧ s.path.insist ≤ 255 ∧ s.lanesOk = true ∧ s.memoryCanonical = true
      ∧ s.orderOk = true ∧ s.strictOk ∧ s.listsOk = true ∧ s.postsOk = true ∧ s.mirrorsOk = true
      ∧ ∃ t, step s = .next t :=
  ⟨by decide, by decide, by decide, by decide, by decide, by decide, by decide, by decide, by decide, by decide, by decide
  , ⟨strictFree_live, by simp [live, State.reset, Batch.check], by simp [live, State.reset], by decide⟩, by decide
  , by decide, by decide, _, rfl⟩

/-- A QUEUED lane's word that memory holds, a cached line, a fill that has read a word, and a queued post. -/
theorem witness_StepKeepsMemoryMirrors :
    let s : State :=
      { live with
        mem := writeWord [] 0x100 2
        pending := [.recordEnqueue]
        lane := { live.lane with
          commit := [0]
          lanes := live.lane.lanes.set 0 { Lane.empty with
            state := .queued, accepted := some (5, 0), shadow := [(0, { value := 2, partMark := false })] } }
        cache :=
          { lines := [{ line := 1535, data := List.replicate 32 0 }]
            fills := [{ line := 0, state := .reading, spoiled := false, data := [0] }] }
        path := { live.path with fillQueue := [0], postQueue := [{ offset := 0x27FE, value := 1 }] } }
    s.storeOk = true ∧ s.signsOk = true ∧ s.cacheOk = true ∧ s.orderOk = true ∧ s.post.ringOk = true ∧ s.postsOk = true
      ∧ s.mirrorsOk = true ∧ ∃ t, step s = .next t :=
  ⟨by decide, by decide, by decide, by decide, by decide, by decide, by decide, _, rfl⟩

/-- A status word on its way to memory. -/
def posting : State := { live with path := { live.path with postQueue := [{ offset := 0x600, value := 0x1234 }] } }

theorem witness_PowerAndReset_kept : posting.ownChoice = some .postWrite ∧ State.reset.ownChoice ≠ some .postWrite := by
  decide
theorem witness_PowerAndReset_cut : posting.path.postQueue = { offset := 0x600, value := 0x1234 } :: [] := rfl

/-- The part held by power-on, by the reset pin, and by both. -/
def heldBy (powered resetLow : Bool) : State :=
  { live with pins := { live.pins with powerOnEnded := powered, resetLow := resetLow } }

theorem witness_StartTakesDefaults_powerOn :
    (heldBy false false).pins.pgood = true ∧ (heldBy false false).pins.powerOnEnded = false
      ∧ (heldBy false false).pins.resetLow = false := by decide
theorem witness_StartTakesDefaults_pin :
    (heldBy true true).pins.pgood = true ∧ (heldBy true true).pins.powerOnEnded = true
      ∧ (heldBy true true).pins.resetLow = true := by decide
theorem witness_StartTakesDefaults_both :
    (heldBy false true).pins.pgood = true ∧ (heldBy false true).pins.powerOnEnded = false
      ∧ (heldBy false true).pins.resetLow = true := by decide
/-- Held by power-on and by the pin; the writes at the two ends of an area, by its own row and by HOST_WRITE. -/
theorem witness_HeldPart :
    let s := heldBy false false
    s.pins.pgood = true ∧ s.active = false ∧ (heldBy true true).pins.pgood = true ∧ (heldBy true true).active = false
      ∧ isHostAccess (.hostRead 0 true false) = true ∧ isHostAccess .restart = true
      ∧ s.busWrite .restart = some (s.regionAddress 4, .both 1)
      ∧ s.busWrite (.entryByteWrite 3 126 true 9) = some (s.regionAddress 0x4FC, .high 9)
      ∧ s.busWrite (.guardedWrite 4479 (.low 9)) = some (s.regionAddress 0x27FE, .low 9)
      ∧ s.busWrite (.hostWrite 0x3FFFF .neither) = some (0x7FFFE, .neither) := by decide

/-- `live` is active: the hypothesis of RestartBeginsTheReload, and of every statement about a host access or a step of a
part in service. -/
theorem witness_active : live.active = true ∧ State.reset.active = true := by decide

/-- The part in its reload, come to word `k`. -/
def reloadingAt (k : Nat) : State := { live with setup := { live.setup with phase := .reload k } }

theorem witness_Reload_words :
    (∀ k, (reloadingAt k).path.hold ≠ .granted) ∧ (reloadingAt 0).active = true ∧ (reloadingAt 0).setup.phase = .reload 0
      ∧ setupWordAt (6 + 2 * 1) = some (.style .closed) ∧ setupWordAt (6 + 2 * 5) = some (.style .held)
      ∧ setupWordAt (6 + 2 * 6) = some (.kind .door) ∧ setupWordAt (6 + 2 * 8) = some (.kind .lobby)
      ∧ setupWordAt (6 + 2 * 9) = some (.plain (.line 0)) ∧ setupWordAt (6 + 2 * 16) = some (.plain .insist)
      ∧ (reloadingAt 16).active = true ∧ (reloadingAt 16).setup.phase = .reload 16 := ⟨fun _ => by simp [reloadingAt, live, State.reset], by decide⟩

/-! ### Edit lanes -/

/-- The part in service with words captured in lane 0. -/
def captured (shadow : Tab Slot) : State := live.setLane 0 { Lane.empty with shadow := shadow }

/-- A whole captured word, and a partial one. -/
def whole : Slot := { value := 2, partMark := false }
def part1 : Slot := { value := 2, partMark := true }

theorem witness_EntryWrites :
    (captured [(126, whole)]).active = true ∧ ((captured [(126, whole)]).laneAt 0).state = .opened
      ∧ Tab.get ((captured [(126, whole)]).laneAt 0).shadow 126 = some whole
      ∧ Tab.get ((captured [(126, whole)]).laneAt 0).shadow 0 = none := by decide
theorem witness_ClosedLane :
    (applying .none).active = true ∧ ((applying .none).laneAt 0).state ≠ .opened
      ∧ 2 * (0xFF : BitVec 19).toNat = (applying .none).regionAddress (0x100 + (0 : Fin 4).val * 0x100 + 2 * 127)
      ∧ ∀ it ∈ (applying .none).beginHost.post.waiting, it.isGuard = true → it.carries Event.guard.mask = true := by decide
theorem witness_BadPost_partial :
    let s := captured [(0, part1)]
    s.active = true ∧ (s.laneAt 0).state = .opened ∧ Tab.sorted (s.laneAt 0).shadow = true
      ∧ (0 ≤ (0 : BitVec 7).toNat ∧ (∃ x, Tab.get (s.laneAt 0).shadow 0 = some x ∧ x.partMark = true)
        ∧ ∀ j, j < 0 → ¬ ∃ x, Tab.get (s.laneAt 0).shadow j = some x ∧ x.partMark = true) :=
  ⟨by decide, by decide, by decide, by decide, ⟨part1, rfl, rfl⟩, by omega⟩

theorem no_partial_0 (shadow : Tab Slot) (h : ∀ x ∈ shadow, x.2.partMark = false) (k : Nat) :
    ¬ ∃ x, Tab.get shadow k = some x ∧ x.partMark = true := by
  rintro ⟨x, hx, hp⟩
  have := h (k, x) (Tab.mem_of_get hx)
  simp [hp] at this

theorem witness_BadPost_sequence :
    let s := captured [(0, whole)]
    s.active = true ∧ (s.laneAt 0).state = .opened ∧ Tab.sorted (s.laneAt 0).shadow = true
      ∧ (∀ k, k ≤ (0 : BitVec 7).toNat → ¬ ∃ x, Tab.get (s.laneAt 0).shadow k = some x ∧ x.partMark = true)
      ∧ (1#8 ≠ (s.laneAt 0).expected ∨ (0 : BitVec 7).toNat = 127) ∧ (127#7).toNat = 127 :=
  ⟨by decide, by decide, by decide, fun k _ => no_partial_0 _ (by decide) k, by decide, by decide⟩
theorem witness_BadPost_hole :
    let s := captured [(1, whole)]
    s.active = true ∧ (s.laneAt 0).state = .opened ∧ Tab.sorted (s.laneAt 0).shadow = true
      ∧ (∀ k, k ≤ (1 : BitVec 7).toNat → ¬ ∃ x, Tab.get (s.laneAt 0).shadow k = some x ∧ x.partMark = true)
      ∧ 0#8 = (s.laneAt 0).expected ∧ (1 : BitVec 7).toNat ≠ 127
      ∧ 0 ≤ (1 : BitVec 7).toNat ∧ (Tab.get (s.laneAt 0).shadow 0).isSome ≠ true
      ∧ ∀ j, j < 0 → (Tab.get (s.laneAt 0).shadow j).isSome = true :=
  ⟨by decide, by decide, by decide, fun k _ => no_partial_0 _ (by decide) k, by decide, by decide, by decide, by decide
  , by omega⟩
theorem witness_BadPost_beyond :
    let s := captured [(0, whole), (126, whole)]
    s.active = true ∧ (s.laneAt 0).state = .opened ∧ Tab.sorted (s.laneAt 0).shadow = true
      ∧ (∀ k, k ≤ (0 : BitVec 7).toNat → ¬ ∃ x, Tab.get (s.laneAt 0).shadow k = some x ∧ x.partMark = true)
      ∧ 0#8 = (s.laneAt 0).expected ∧ (0 : BitVec 7).toNat ≠ 127
      ∧ (∀ k, k ≤ (0 : BitVec 7).toNat → (Tab.get (s.laneAt 0).shadow k).isSome = true)
      ∧ (0 : BitVec 7).toNat < 126 ∧ (Tab.get (s.laneAt 0).shadow 126).isSome = true
      ∧ ∀ j, (0 : BitVec 7).toNat < j → j < 126 → ¬ (Tab.get (s.laneAt 0).shadow j).isSome = true :=
  ⟨by decide, by decide, by decide, fun k _ => no_partial_0 _ (by decide) k, by decide, by decide
  , by intro k hk; obtain rfl : k = 0 := Nat.le_zero.mp hk; decide, by decide, by decide
  , by
    intro j h1 h2
    have h0 : j ≠ 0 := fun h => by simp [h] at h1
    have h126 : j ≠ 126 := by omega
    simp [captured, State.setLane, State.laneAt, Quad.set, Quad.get, Tab.get, h0, h126]⟩
set_option maxRecDepth 20000 in
/-- The widest span that can be accepted, 0 to 126, into an empty commit queue. -/
theorem witness_GoodPost :
    let s := captured ((List.range 127).map fun k => (k, whole))
    s.active = true ∧ (s.laneAt 0).state = .opened ∧ (126#7).toNat ≠ 127
      ∧ (∀ m ∈ s.lane.commit.head?, (s.laneAt m).state = .applying ∨ s.setup.phase ≠ .running)
      ∧ (∀ k, k ≤ (126#7).toNat → ∃ x, Tab.get (s.laneAt 0).shadow k = some x ∧ x.partMark = false)
      ∧ ∀ x ∈ (s.laneAt 0).shadow, x.1 ≤ (126#7).toNat ∧ x.2.partMark = false := by
  refine ⟨by decide, by decide, by decide, by decide, ?_, ?_⟩
  · intro k hk
    have h : ∀ k : Fin 127, Tab.get ((List.range 127).map fun k => (k, whole)) k.val = some whole := by decide
    exact ⟨whole, h ⟨k, Nat.lt_succ_of_le hk⟩, rfl⟩
  · decide
/-- Lane 1 posts behind lane 0, which is APPLYING. -/
theorem witness_GoodPost_behind :
    let s := (applying .none).setLane 1 { Lane.empty with shadow := [(0, whole)] }
    s.active = true ∧ (s.laneAt 1).state = .opened ∧ (0#7).toNat ≠ 127
      ∧ (∀ m ∈ s.lane.commit.head?, (s.laneAt m).state = .applying ∨ s.setup.phase ≠ .running)
      ∧ (∀ k, k ≤ (0#7).toNat → ∃ x, Tab.get (s.laneAt 1).shadow k = some x ∧ x.partMark = false)
      ∧ ∀ x ∈ (s.laneAt 1).shadow, x.1 ≤ (0#7).toNat ∧ x.2.partMark = false := by
  refine ⟨by decide, by decide, by decide, by decide, ?_, by decide⟩
  intro k hk
  obtain rfl : k = 0 := Nat.le_zero.mp hk
  exact ⟨whole, rfl, rfl⟩

/-! ### Decode and check -/

/-- Lane 0 QUEUED with the words of a batch. -/
def queued (words : List Word) : State :=
  { live with lane :=
    { live.lane with
      commit := [0]
      lanes := live.lane.lanes.set 0 { Lane.empty with
        state := .queued, accepted := some (5, words.length - 1)
        shadow := words.mapIdx fun i w => (i, { value := w, partMark := false }) } } }

/-- The words the decode reads of `queued`. -/
def queuedWords (s : State) : List Word :=
  (List.range (((s.laneAt 0).accepted.getD (0, 0)).2 + 1)).map fun k =>
    ((Tab.get (s.laneAt 0).shadow k).map (·.value)).getD 0

theorem witness_HeadBatch_entries :
    let s := queued [0x0002, 0x012C]
    s.active = true ∧ s.setup.phase = .running ∧ s.lane.commit = 0 :: [] ∧ (s.laneAt 0).state ≠ .opened ∧ s.lane.batch = .none
      ∧ decodeBatch (queuedWords s) = .entries [(0, .dropSession 300)] := by decide
theorem witness_HeadBatch_format :
    let s := queued [0x000B]
    s.active = true ∧ s.setup.phase = .running ∧ s.lane.commit = 0 :: [] ∧ (s.laneAt 0).state ≠ .opened ∧ s.lane.batch = .none
      ∧ decodeBatch (queuedWords s) = .format 0 0 := by decide

/-- The part in service with a check come to an entry: what every statement of an entry asks. -/
theorem witness_entry (w : Work) (e : Entry) :
    (checking w e).active = true ∧ (checking w e).nextEntry = some (checkOf w e, 0, e) := ⟨rfl, rfl⟩

/-- The RANGE test of PUT SESSION, as its statement writes it, on `checking`. -/
def putRange (w : Work) (cls id start fin : Nat) (title presenter : Handle) : Prop :=
  id = 0 ∨ 3 < cls ∨ fin ≤ start ∨ ¬ handleValid title ∨ (presenter.len ≠ 0 ∧ ¬ handleValid presenter)
    ∨ fin + live.setup.retain ≤ w.now

theorem witness_PutSession_range :
    putRange w0 0 0 540 600 ⟨1, 5⟩ ⟨0, 0⟩ ∧ putRange w0 4 1 540 600 ⟨1, 5⟩ ⟨0, 0⟩ ∧ putRange w0 3 1 600 600 ⟨1, 5⟩ ⟨0, 0⟩
      ∧ putRange w0 3 1 540 600 ⟨1535, 33⟩ ⟨0, 0⟩ ∧ putRange w0 3 1 540 600 ⟨1, 5⟩ ⟨0, 65⟩
      ∧ putRange w0 3 1 0 515 ⟨1, 5⟩ ⟨0, 0⟩ := by
  simp [putRange, handleValid, w0, State.workingCopy, live, SetupLogic.default]
theorem witness_PutSession_unknownRoom : ¬ putRange w0 3 1 0 516 ⟨1535, 32⟩ ⟨0, 0⟩ ∧ w0.noRoom 8 := by
  simp [putRange, handleValid, Work.noRoom, w0, State.workingCopy, live, SetupLogic.default, Tab.get]
theorem witness_PutSession_full :
    ¬ putRange wFull 0 65535 540 600 ⟨1, 64⟩ ⟨1534, 64⟩ ∧ ¬ wFull.noRoom 7 ∧ Tab.get wFull.sessions 65535 = none
      ∧ 1024 ≤ wFull.sessions.length := by
  refine ⟨by simp [putRange, handleValid, wFull, w0, State.workingCopy, live, SetupLogic.default]
    , by simp [Work.noRoom, wFull, w0, State.workingCopy, live, Tab.get], ?_, by simp [wFull]⟩
  cases h : Tab.get wFull.sessions 65535 with
  | none => rfl
  | some v => have := Tab.mem_of_get h; simp [wFull] at this
theorem witness_PutSession_held :
    ¬ putRange wHeld 0 1 540 600 ⟨1, 5⟩ ⟨0, 0⟩ ∧ ¬ wHeld.noRoom 7 ∧ wHeld.sessions.length < 1024 ∧ wHeld.roomHeld 7 := by
  refine ⟨?_, ?_, by decide, { room7 with state := .held }, rfl, rfl⟩ <;>
    simp [putRange, handleValid, Work.noRoom, wHeld, w0, State.workingCopy, live, SetupLogic.default, Tab.get]

theorem not_held {w : Work} {i : Nat} (h : w.held i = false) : ¬ w.roomHeld i := by
  rintro ⟨r, hr, hs⟩
  simp [Work.held, hr, hs] at h

/-- A new record, and one that replaces session 300 of room 7 by one of room 14. -/
theorem witness_PutSession_put :
    ¬ putRange w0 0 300 540 600 ⟨1, 5⟩ ⟨0, 0⟩ ∧ ¬ w0.noRoom 14 ∧ Tab.get w0.sessions 300 = some (talk 540 600)
      ∧ Tab.get w0.sessions 1 = none ∧ ¬ 1024 ≤ w0.sessions.length ∧ ¬ w0.roomHeld 7 ∧ ¬ w0.roomHeld 14 := by
  refine ⟨?_, ?_, rfl, rfl, by decide, not_held (by decide), not_held (by decide)⟩ <;>
    simp [putRange, handleValid, Work.noRoom, w0, State.workingCopy, live, SetupLogic.default, Tab.get]

theorem witness_DropCancelAndMove_dropCancel :
    (checking w0 (.dropSession 300)).active = true ∧ (checking wCancelled (.cancelSession 300)).active = true
      ∧ (checking w0 (.dropSession 300)).nextEntry = some (checkOf w0 (.dropSession 300), 0, .dropSession 300)
      ∧ (checking wCancelled (.cancelSession 300)).nextEntry
        = some (checkOf wCancelled (.cancelSession 300), 0, .cancelSession 300)
      ∧ Tab.get w0.sessions 0 = none ∧ Tab.get w0.sessions 300 = some (talk 540 600) ∧ ¬ w0.roomHeld 7
      ∧ Tab.get wHeld.sessions 300 = some (talk 540 600) ∧ wHeld.roomHeld 7
      ∧ Tab.get wCancelled.sessions 300 = some { talk 540 600 with cancelled := true } ∧ ¬ wCancelled.roomHeld 7 :=
  ⟨rfl, rfl, rfl, rfl, rfl, rfl, not_held (by decide), rfl, ⟨{ room7 with state := .held }, rfl, rfl⟩, rfl, not_held (by decide)⟩

/-- Unknown id 0; the room it is in (7); the undefined room 255; a HELD room; and room 14, which it may move to. -/
theorem witness_DropCancelAndMove_move :
    (checking w0 (.moveSession 300 14)).active = true
      ∧ (checking w0 (.moveSession 300 14)).nextEntry = some (checkOf w0 (.moveSession 300 14), 0, .moveSession 300 14)
      ∧ Tab.get w0.sessions 0 = none ∧ Tab.get w0.sessions 300 = some (talk 540 600) ∧ (talk 540 600).room = 7
      ∧ w0.noRoom 255 ∧ ¬ w0.noRoom 14 ∧ ¬ w0.roomHeld 7 ∧ ¬ w0.roomHeld 14
      ∧ Tab.get wHeld.sessions 300 = some (talk 540 600) ∧ ¬ wHeld.noRoom 14 ∧ wHeld.roomHeld 7 :=
  ⟨rfl, rfl, rfl, rfl, rfl, rfl, by simp [Work.noRoom, w0, State.workingCopy, live, Tab.get], not_held (by decide)
  , not_held (by decide), rfl, by simp [Work.noRoom, wHeld, w0, Tab.get], ⟨{ room7 with state := .held }, rfl, rfl⟩⟩

/-- Deltas 0 and 241 are refused; 240 and -240 move session 300; on a session near either bound they reach too far. -/
theorem witness_ShiftSession :
    (checking w0 (.shiftSession true 300 240)).active = true
      ∧ (checking w0 (.shiftSession true 300 240)).nextEntry
        = some (checkOf w0 (.shiftSession true 300 240), 0, .shiftSession true 300 240)
      ∧ Tab.sorted w0.sessions = true
      ∧ ((0 : Int) = 0 ∧ (240 : Int) < 241) ∧ ¬ ((240 : Int) = 0 ∨ (240 : Int) < -240 ∨ (240 : Int) < 240)
      ∧ ¬ ((-240 : Int) = 0 ∨ (-240 : Int) < -240 ∨ (240 : Int) < -240)
      ∧ Tab.get w0.sessions 0 = none ∧ Tab.get w0.sessions 300 = some (talk 540 600) ∧ ¬ w0.roomHeld 7 ∧ wHeld.roomHeld 7
      ∧ (((talk 239 600).start : Int) + (-240) < 0) ∧ (65535 < ((talk 540 65296).fin : Int) + 240)
      ∧ ¬ (((talk 540 600).start : Int) + (-240) < 0) :=
  ⟨rfl, rfl, rfl, by decide, by decide, by decide, rfl, rfl, not_held (by decide), ⟨{ room7 with state := .held }, rfl, rfl⟩
  , by decide, by decide, by decide⟩

/-- Each RANGE case one past its bound; values at their bounds for an undefined slot; room 7 changed, and put as it is. -/
theorem witness_PutRoomAndSetClock_room :
    (checking w0 (.putRoom 1 7 ⟨0, 10⟩ 3 10)).active = true
      ∧ (checking w0 (.putRoom 1 7 ⟨0, 10⟩ 3 10)).nextEntry
        = some (checkOf w0 (.putRoom 1 7 ⟨0, 10⟩ 3 10), 0, .putRoom 1 7 ⟨0, 10⟩ 3 10)
      ∧ (¬ handleValid ⟨0, 0⟩ ∧ 15 < 16 ∧ 1 < 2 ∧ 60 < 61)
      ∧ ¬ (¬ handleValid ⟨1535, 32⟩ ∨ 15 < 15 ∨ 1 < 1 ∨ 60 < 60)
      ∧ w0.noRoom 255 ∧ Tab.get w0.rooms 7 = some room7
      ∧ { room7 with name := ⟨0, 10⟩, zone := 3, policy := .strict, changeover := 10 } = room7
      ∧ { room7 with name := ⟨0, 10⟩, zone := 3, policy := .free, changeover := 10 } ≠ room7 := by
  refine ⟨rfl, rfl, ?_, ?_, rfl, rfl, rfl, by decide⟩ <;> simp [handleValid]

theorem witness_RoomState :
    (checking w0 (.roomState 3 7)).active = true
      ∧ (checking w0 (.roomState 3 7)).nextEntry = some (checkOf w0 (.roomState 3 7), 0, .roomState 3 7)
      ∧ 3 < 4 ∧ 3 ≤ 3 ∧ w0.noRoom 255 ∧ Tab.get w0.rooms 7 = some room7 ∧ Tab.get w0.rooms 14 = some room14
      ∧ room14.state = .closed ∧ Tab.get wHeld.rooms 7 = some { room7 with state := .held } :=
  ⟨rfl, rfl, by decide, by decide, rfl, rfl, rfl, rfl, rfl⟩
theorem witness_PutRoomAndSetClock_clock :
    (checking w0 (.setClock 65535 1439)).active = true
      ∧ (checking w0 (.setClock 65535 1439)).nextEntry
        = some (checkOf w0 (.setClock 65535 1439), 0, .setClock 65535 1439) ∧ 1439 < 1440 ∧ 1439 ≤ 1439 :=
  ⟨rfl, rfl, by decide, by decide⟩

/-- Slot 512 is out of range; room 255 is unknown to a DOOR; line 0 address 17 is slot 40's; line 3 address 127 is free. -/
theorem witness_PutSign :
    (checking w0 (.putSign 0 511 3 15 127 65535 [7])).active = true
      ∧ (checking w0 (.putSign 0 511 3 15 127 65535 [7])).nextEntry
        = some (checkOf w0 (.putSign 0 511 3 15 127 65535 [7]), 0, .putSign 0 511 3 15 127 65535 [7])
      ∧ Tab.sorted w0.signs = true
      ∧ 511 < 512
      ∧ ¬ (511 < 511 ∨ 2 < 0 ∨ 3 < 3 ∨ 127 < 127 ∨ (0 ≠ 2 ∧ ∃ r ∈ [7], 255 < r) ∨ (0 = 0 ∧ [7].length ≠ 1)
        ∨ (0 = 1 ∧ ([7].length < 1 ∨ 8 < [7].length)) ∨ (0 = 2 ∧ [7].length ≠ 1))
      ∧ (0 ≠ 2 ∧ ∃ r ∈ [255], w0.noRoom r) ∧ ¬ (0 ≠ 2 ∧ ∃ r ∈ [7], w0.noRoom r)
      ∧ (∃ d, Tab.get w0.signs 40 = some d ∧ 40 ≠ 511 ∧ d.line.val = 0 ∧ d.address = 17)
      ∧ (∀ j, j < 40 → ¬ ∃ d, Tab.get w0.signs j = some d ∧ j ≠ 511 ∧ d.line.val = 0 ∧ d.address = 17)
      ∧ ∀ i, ¬ ∃ d, Tab.get w0.signs i = some d ∧ i ≠ 511 ∧ d.line.val = 3 ∧ d.address = 127 := by
  refine ⟨rfl, rfl, rfl, by decide, by decide, ⟨by decide, 255, by simp, rfl⟩, ?_, ⟨door.defn, rfl, by decide, rfl, rfl⟩, ?_, ?_⟩
  · rintro ⟨-, r, hr, h⟩
    simp at hr
    simp [hr, Work.noRoom, w0, State.workingCopy, live, Tab.get] at h
  · rintro j hj ⟨d, hd, -⟩
    have : j ≠ 40 := by omega
    simp [w0, State.workingCopy, live, Tab.get, this] at hd
  · rintro i ⟨d, hd, -, hl, -⟩
    by_cases hi : i = 40
    · simp [w0, State.workingCopy, live, Tab.get, hi] at hd
      simp [← hd, door] at hl
    · simp [w0, State.workingCopy, live, Tab.get, hi] at hd
theorem witness_DropSign :
    (checking w0 (.dropSign 511)).active = true
      ∧ (checking w0 (.dropSign 511)).nextEntry = some (checkOf w0 (.dropSign 511), 0, .dropSign 511) ∧ 511 < 512
      ∧ Tab.get w0.signs 511 = none ∧ Tab.get w0.signs 40 ≠ none := by
  refine ⟨rfl, rfl, by decide, rfl, by decide⟩

/-! ### The end of a batch -/

/-- A check that has come to its end: its working copy, with room 7 touched by the entry at offset 3. -/
def ended (sessions : Tab Session) (refusal : Option Refused) : Check :=
  { entries := [], passed := 0, refusal := refusal, starts := 255
    work := { w0 with sessions := sessions, touched := [(7, 3)] } }

/-- Two sessions of room 7 in conflict. -/
def clashing : Tab Session := [(300, talk 540 600), (301, talk 599 660)]

theorem witness_CheckEnd_refused :
    let c := ended [] (some { code := .held, failing := 3, first := 0, second := 0 })
    let s := applying (.checking c)
    s.active = true ∧ s.lane.batch = .checking c ∧ s.applyingLane = some 0 ∧ s.clock.storeSignals = 0
      ∧ c.refusal = some { code := .held, failing := 3, first := 0, second := 0 } := by decide
theorem witness_CheckEnd_passes :
    let c := ended [(300, talk 540 600), (301, talk 600 660)] none
    let s := applying (.checking c)
    s.active = true ∧ s.lane.batch = .checking c ∧ s.applyingLane = some 0 ∧ s.clock.storeSignals = 0 ∧ c.refusal = none
      ∧ c.passed = c.entries.length ∧ Tab.sorted c.work.touched = true ∧ Tab.sorted c.work.sessions = true
      ∧ ∀ i off, c.work.touchedStrict i off → ∀ x y, ¬ c.work.conflict s.setup.matrix i x y := by
  refine ⟨by decide, by decide, by decide, by decide, by decide, by decide, by decide, by decide, ?_⟩
  rintro i off - x y ⟨hx, hy, -, -, hp, -, -, h1, h2, -⟩
  simp [ended] at hx hy
  rcases hx with rfl | rfl <;> rcases hy with rfl | rfl <;> (simp [talk, chainPrecedes] at hp h1 h2)
theorem conflict_clashing {x y : Nat × Session} {m : BitVec 10} {i : Nat}
    (h : (ended clashing none).work.conflict m i x y) : i = 7 ∧ x = (300, talk 540 600) ∧ y = (301, talk 599 660) := by
  obtain ⟨hx, hy, hr, -, hp, -⟩ := h
  simp [ended, clashing] at hx hy
  rcases hx with rfl | rfl <;> rcases hy with rfl | rfl <;> simp [talk, chainPrecedes] at hp hr ⊢ <;> omega
theorem witness_CheckEnd_overlap :
    let c := ended clashing none
    let s := applying (.checking c)
    let x := (300, talk 540 600)
    let y := (301, talk 599 660)
    s.active = true ∧ s.lane.batch = .checking c ∧ s.applyingLane = some 0 ∧ s.clock.storeSignals = 0 ∧ c.refusal = none
      ∧ c.passed = c.entries.length ∧ Tab.sorted c.work.touched = true ∧ Tab.sorted c.work.sessions = true
      ∧ c.work.touchedStrict 7 3 ∧ c.work.conflict s.setup.matrix 7 x y
      ∧ (∀ j o, c.work.touchedStrict j o → j < 7 → ∀ u v, ¬ c.work.conflict s.setup.matrix j u v)
      ∧ (∀ u v, c.work.conflict s.setup.matrix 7 u v → ¬ chainPrecedes u x)
      ∧ ∀ v, c.work.conflict s.setup.matrix 7 x v → ¬ chainPrecedes v y := by
  refine ⟨by decide, by decide, by decide, by decide, by decide, by decide, by decide, by decide, ⟨by decide, room7, rfl, rfl⟩
    , ⟨by decide, by decide, rfl, rfl, by simp [chainPrecedes, talk], rfl, rfl, by decide, by decide, by decide⟩, ?_, ?_, ?_⟩
  · intro j o _ hj u v h
    have := (conflict_clashing h).1
    omega
  · intro u v h
    simp [(conflict_clashing h).2.1, chainPrecedes]
  · intro v h
    simp [(conflict_clashing h).2.2, chainPrecedes]

/-- A definition of a DOOR of room 7 on line 0. -/
def doorAt (address lines : Nat) : SignDef := { door.defn with address := address, lines := lines }

/-- A batch that changes room 7 and sets the clock to its end; it moves sign 40, defines 41, drops 42 and redefines 43. -/
def applied7 : Work :=
  { w0 with
    now := 65535, clock := .ended, setClock := true, touched := [(7, 0)]
    signs := [(40, doorAt 18 3), (41, doorAt 19 3), (43, doorAt 21 4)], named := [40, 41, 42, 43], dropped := [42] }

/-- Its apply step asked for, while engine 0 works in a state. -/
def applying7 (e : EngineState) : State :=
  { applying (.applyRequested { entries := [], passed := 0, work := applied7, refusal := none, starts := 0 }) with
    signs := [(40, door), (42, { door with defn := doorAt 20 3 }), (43, { door with defn := doorAt 21 3 })]
    engines := (engine0 e).engines }

theorem witness_Apply :
    let s := applying7 (.requesting 40)
    s.active = true
      ∧ s.lane.batch = .applyRequested { entries := [], passed := 0, work := applied7, refusal := none, starts := 0 }
      ∧ s.applyingLane = some 0 ∧ s.clock.storeSignals = 0 ∧ s.comp.composition = none ∧ s.effectsBusy = false
      ∧ s.signsOk = true ∧ s.orderOk = true
      ∧ (s.clock.now ≠ applied7.now ∨ s.clock.origin ≠ applied7.origin ∨ s.clock.state ≠ applied7.clock)
      ∧ applied7.clock = .ended ∧ s.clock.state ≠ .ended
      ∧ ¬ (s.clock.now ≠ w0.now ∨ s.clock.origin ≠ w0.origin ∨ s.clock.state ≠ w0.clock)
      ∧ Tab.get applied7.rooms 7 = some room7 ∧ Tab.get applied7.touched 7 ≠ none
      ∧ Tab.get applied7.rooms 14 = some room14 ∧ room14.state = .closed ∧ Tab.get applied7.touched 14 = none
      ∧ Tab.get applied7.rooms 255 = none := by decide
/-- Sign 40 is moved, 41 is new, 42 is dropped and 43 is redefined; 40 and 42 leave line 0, 43 does not. -/
theorem witness_Apply_signs :
    let s := applying7 (.requesting 40)
    (s.sign 40 = some door ∧ 40 ∉ applied7.dropped ∧ Tab.get applied7.signs 40 = some (doorAt 18 3))
      ∧ (s.sign 41 = none ∧ Tab.get applied7.signs 41 = some (doorAt 19 3))
      ∧ ((s.sign 42).isSome = true ∧ 42 ∈ applied7.dropped ∧ Tab.get applied7.signs 42 = none)
      ∧ ((s.sign 43).isSome = true ∧ Tab.get applied7.signs 43 = some (doorAt 21 4))
      ∧ s.leavesLine applied7 0 40 = true ∧ s.leavesLine applied7 0 42 = true ∧ s.leavesLine applied7 0 43 = false
      ∧ (s.engine 0).state = .requesting 40 ∧ ((applying7 (.ready (.query 42 20))).engine 0).state = .ready (.query 42 20)
      ∧ exchangeSlot (.query 42 20) = some 42
      ∧ ((applying7 (.running (.query 42 20) false)).engine 0).state = .running (.query 42 20) false := by decide

/-- A result that waits for the post queue. -/
def resulting (r : LaneResult) (ends : Bool) (queue : List PostEntry) : State :=
  { applying .resulting with
    path := { live.path with postQueue := queue }
    post := { PostUnit.empty with
      waiting := [{ producer := .rooms, record := .laneResult 0 r ends, raises := (Event.lane 0).mask }] } }

theorem witness_LaneResult :
    let s := resulting .idle true (List.replicate 48 { offset := 0x580, value := 0 })
    s.active = true
      ∧ s.post.waiting = { producer := .rooms, record := .laneResult 0 .idle true, raises := (Event.lane 0).mask } :: []
      ∧ s.path.postQueue.length + 16 ≤ 64
      ∧ 64 < (resulting .idle true (List.replicate 49 { offset := 0x580, value := 0 })).path.postQueue.length + 16
      ∧ (resulting .idle false []).post.waiting
        = { producer := .rooms, record := .laneResult 0 .idle false, raises := (Event.lane 0).mask } :: [] := by decide

/-! ### Clock, rooms and credit -/

/-- The part counting minutes from the timebase or from the pin, at a minute. -/
def counting (pin : Bool) (now : Nat) : State :=
  { live with
    setup := { live.setup with control := if pin then 0x31 else 0x11 }
    clock := { live.clock with now := now, storeSignals := 1, creditSignals := 1 } }

theorem witness_MinuteEvents :
    (counting false 65534).active = true ∧ (counting false 65534).clock.state = .running
      ∧ (counting false 65534).setup.clockRun = true ∧ (counting false 65534).setup.minuteSrc = false
      ∧ (counting false 65534).clock.now + 1 = 65535
      ∧ (counting true 545).setup.clockRun = true ∧ (counting true 545).setup.minuteSrc = true
      ∧ (counting true 545).pins.minute = false ∧ live.setup.clockRun = false ∧ live.setup.minuteSrc = false := by decide
theorem witness_MinuteSignals_answer :
    (counting false 545).active = true ∧ 0 < (counting false 545).clock.storeSignals
      ∧ (counting false 545).roomsBusy = false := by decide
theorem witness_MinuteSignals_check :
    let s := { checking w0 (.dropSign 40) with clock := (counting false 545).clock }
    s.active = true ∧ 0 < s.clock.storeSignals ∧ s.roomsBusy = false
      ∧ s.lane.batch.check = some (checkOf w0 (.dropSign 40)) := by decide
/-- Sign 40, a DOOR of period 10 and cap 6: refilled at minute 550, waking from 0 credits with the mark; not at 545. -/
theorem witness_MinuteSignals_refill :
    let g := { door with credits := 0, deferred := true, state := .deferred }
    let s := { counting false 550 with signs := [(40, g)] }
    s.active = true ∧ 0 < s.clock.creditSignals ∧ s.producerBusy .credit = false ∧ s.sign 40 = some g
      ∧ (s.clock.now % (s.setup.paramsOf g.defn).period = 0 ∧ g.credits < (s.setup.paramsOf g.defn).cap)
      ∧ g.deferred = true ∧ g.credits = 0
      ∧ ¬ ((counting false 545).clock.now % (s.setup.paramsOf g.defn).period = 0 ∧ g.credits < 6)
      ∧ s.sign 41 = none := by decide

/-- Room 7's chain at minute 545: session 300 runs, 301 has ended and its changeover of 10 runs to 549, 302 is to come. -/
def around545 : Tab Session := [(300, talk 545 600), (301, talk 500 540), (302, talk 546 600)]

theorem witness_DerivedRoom_running :
    Tab.sorted around545 = true
      ∧ ((300, talk 545 600) ∈ around545 ∧ (talk 545 600).room = 7 ∧ (talk 545 600).cancelled = false)
      ∧ (talk 545 600).start ≤ 545 ∧ 545 < (talk 545 600).fin
      ∧ (∀ j y, (((j, y) ∈ around545 ∧ y.room = 7 ∧ y.cancelled = false) ∧ y.start ≤ 545 ∧ 545 < y.fin) →
        ¬ chainPrecedes (j, y) (300, talk 545 600)) := by
  refine ⟨by decide, by decide, by decide, by decide, ?_⟩
  rintro j y ⟨⟨h, -⟩, h1, h2⟩
  simp [around545] at h
  rcases h with ⟨rfl, rfl⟩ | ⟨rfl, rfl⟩ | ⟨rfl, rfl⟩ <;> simp [talk, chainPrecedes] at h1 h2 ⊢
theorem witness_DerivedRoom_next :
    ((302, talk 546 600) ∈ around545 ∧ (talk 546 600).room = 7 ∧ (talk 546 600).cancelled = false)
      ∧ 545 < (talk 546 600).start
      ∧ (∀ j y, (((j, y) ∈ around545 ∧ y.room = 7 ∧ y.cancelled = false) ∧ 545 < y.start) →
        ¬ chainPrecedes (j, y) (302, talk 546 600)) := by
  refine ⟨by decide, by decide, ?_⟩
  rintro j y ⟨⟨h, -⟩, h1⟩
  simp [around545] at h
  rcases h with ⟨rfl, rfl⟩ | ⟨rfl, rfl⟩ | ⟨rfl, rfl⟩ <;> simp [talk, chainPrecedes] at h1 ⊢
/-- With session 301 alone: none runs, the changeover runs at 549 and not at 550, none is later. -/
theorem witness_DerivedRoom_changeover :
    (∀ now, now = 549 ∨ now = 550 →
      (∀ k x, ¬ (((k, x) ∈ [(301, talk 500 540)] ∧ x.room = 7 ∧ x.cancelled = false) ∧ x.start ≤ now ∧ now < x.fin))
      ∧ ∀ k x, ¬ (((k, x) ∈ [(301, talk 500 540)] ∧ x.room = 7 ∧ x.cancelled = false) ∧ now < x.start))
      ∧ ((301, talk 500 540) ∈ [(301, talk 500 540)] ∧ (talk 500 540).fin ≤ 549
        ∧ 549 < (talk 500 540).fin + room7.changeover)
      ∧ ¬ ∃ k x, ((k, x) ∈ [(301, talk 500 540)] ∧ x.room = 7 ∧ x.cancelled = false) ∧ x.fin ≤ 550
        ∧ 550 < x.fin + room7.changeover := by
  refine ⟨?_, by decide, ?_⟩
  · rintro now hn
    refine ⟨?_, ?_⟩
    · rintro k x ⟨⟨h, -⟩, -, h2⟩
      simp at h
      simp [h.2, talk] at h2
      omega
    · rintro k x ⟨⟨h, -⟩, h2⟩
      simp at h
      simp [h.2, talk] at h2
      omega
  · rintro ⟨k, x, ⟨h, -⟩, -, h2⟩
    simp at h
    simp [h.2, talk, room7] at h2

/-! ### Faces -/

/-- The part's selection, with rooms 7 and 9 in use and 14 CLOSED, and sessions running, to come, moved away and beyond the
window at minute 545. -/
def view : Selection :=
  { live.selection with
    sessions :=
      [ (300, talk 540 600), (301, { talk 546 660 with room := 9, movedFrom := some 7 }), (302, talk 578 660)
      , (303, { talk 579 660 with room := 14 }), (304, talk 606 660) ]
    rooms := [(7, room7), (9, room7), (14, room14)] }

/-- A DOOR of a room in use and of a CLOSED one, a CORRIDOR that names a room twice, and a LOBBY of zone 3; session 302 shows an
IN line of 30 for the 33 minutes before it. -/
theorem witness_Faces :
    let corridor : SignDef := { door.defn with targets := .corridor [7, 14, 7, 9] }
    let lobby : SignDef := { door.defn with targets := .lobby 8 }
    Tab.sorted view.sessions = true
      ∧ door.defn.targets = .door 7 ∧ Tab.get view.rooms 7 = some room7
      ∧ { door.defn with targets := .door 14 }.targets = .door 14 ∧ Tab.get view.rooms 14 = some room14
      ∧ room14.state = .closed ∧ corridor.targets = .corridor [7, 14, 7, 9] ∧ lobby.targets = .lobby 8
      ∧ ((composeFace view door.defn).lines.map fun l => (l.id, l.note, l.time, l.a))
        = [(300, .none, .now, 0), (301, .movedAway, .starting, 0), (302, .none, .inMinutes, 30)]
      ∧ (composeFace view { door.defn with targets := .door 14 }).lines = []
      ∧ ((composeFace view corridor).lines.map (·.id)) = [300, 301]
      ∧ ((composeFace view lobby).lines.map (·.id)) = [300, 301, 302] := by decide

/-- A face of a header and one line, and the bytes of the pool lines their texts need: the last of them whole lines. -/
theorem witness_FaceBody :
    let f := composeFace { view with sessions := [(300, talk 540 600)] } door.defn
    let taken : Tab (List Byte) := [(0, List.replicate 32 65), (1, List.replicate 32 66)]
    f.lines.length ≤ 8 ∧ (∀ l ∈ f.lines, 1 ≤ l.title.len)
      ∧ (∀ h ∈ f.header :: f.lines.flatMap fun l => [l.title, l.extra],
        h.len ≤ 64 ∧ ∀ l ∈ List.range' h.line ((h.len + 31) / 32), ∃ b, Tab.get taken l = some b ∧ b.length = 32) := by
  refine ⟨by decide, by decide, ?_⟩
  intro h hh
  have : h = ⟨0, 10⟩ ∨ h = ⟨1, 5⟩ ∨ h = ⟨0, 0⟩ := by revert h; decide
  rcases this with rfl | rfl | rfl
  · exact ⟨by decide, fun l hl => ⟨List.replicate 32 65, by obtain rfl : l = 0 := (by simpa using hl); rfl, rfl⟩⟩
  · exact ⟨by decide, fun l hl => ⟨List.replicate 32 66, by obtain rfl : l = 1 := (by simpa using hl); rfl, rfl⟩⟩
  · exact ⟨by decide, by simp⟩

/-! ### Compositions and text -/

/-- `live` with dirty signs: 39 LOST, 40 PENDING, 41 SENDING. -/
def dirty (l : List Nat) : State :=
  { live with
    signs := [(39, { door with state := .lost }), (40, door), (41, { door with state := .sending })]
    comp := { live.comp with dirty := l } }

theorem none_requesting (s : State) (h : ∀ n, (s.engine n).state = .idle ∨ (s.engine n).state = .off) (n : Fin 4) (i : Nat) :
    (s.engine n).state ≠ .requesting i := by
  rcases h n with h | h <;> simp [h]

/-- Sign 40 is taken after 39, LOST; sign 41 stands after it. -/
theorem witness_DirtySign_taken :
    let s := dirty [39, 40, 41]
    s.active = true ∧ s.comp.composition = none ∧ s.applyPending = false ∧ s.clock.state ≠ .unset
      ∧ (∀ n i, (s.engine n).state ≠ .requesting i) ∧ sortedIndices s.comp.dirty = true
      ∧ 40 ∈ s.comp.dirty ∧ s.sign 40 = some door ∧ door.state ≠ .sending ∧ door.state ≠ .lost
      ∧ ∀ j ∈ s.comp.dirty,
        (if s.comp.servicePos < j then 40 ≤ s.comp.servicePos ∨ j < 40 else 40 ≤ s.comp.servicePos ∧ j < 40) →
          ∀ h, s.sign j = some h → h.state = .sending ∨ h.state = .lost := by
  refine ⟨by decide, by decide, by decide, by decide, none_requesting _ (by decide), by decide, by decide, rfl, by decide
    , by decide, ?_⟩
  intro j hj hb h hs
  simp [dirty] at hj
  rcases hj with rfl | rfl | rfl
  · simp [dirty, State.sign, Tab.get] at hs; simp [← hs]
  · simp at hb; omega
  · simp [dirty, State.sign, Tab.get] at hs; simp [← hs]
theorem witness_DirtySign_none :
    let s := dirty [39, 41]
    s.active = true ∧ s.comp.composition = none ∧ s.applyPending = false ∧ s.clock.state ≠ .unset
      ∧ (∀ n i, (s.engine n).state ≠ .requesting i) ∧ sortedIndices s.comp.dirty = true
      ∧ ∀ j ∈ s.comp.dirty, ∀ h, s.sign j = some h → h.state = .sending ∨ h.state = .lost := by
  refine ⟨by decide, by decide, by decide, by decide, none_requesting _ (by decide), by decide, ?_⟩
  intro j hj h hs
  simp [dirty] at hj
  rcases hj with rfl | rfl <;> simp [dirty, State.sign, Tab.get] at hs <;> simp [← hs]

/-- A composition of a face with no text, for an engine or for the dirty set. -/
def composing (engine : Option (Fin 4)) (orphan : Bool) : Composition :=
  { slot := 40, engine := engine, orphan := orphan, face := { style := Styles.default.opened, header := noText, lines := [] }
    wanted := [], taken := [] }

theorem witness_Requests_none :
    (live.setComposition (some (composing none false))).comp.composition ≠ none
      ∧ (applying (.applyRequested (checkOf w0 (.dropSign 40)))).applyPending = true
      ∧ State.reset.clock.state = .unset := by decide
theorem witness_Requests_served :
    let s := (engine0 (.requesting 40)).setEngine 2 { Engine.stopped with state := .requesting 41 }
    s.active = true ∧ s.comp.composition = none ∧ s.applyPending = false ∧ s.clock.state ≠ .unset
      ∧ (s.engine 0).state = .requesting 40 ∧ s.sign 40 = some door
      ∧ ∀ m : Fin 4, (m - s.comp.lastServed - 1).val < ((0 : Fin 4) - s.comp.lastServed - 1).val →
        ∀ i, (s.engine m).state ≠ .requesting i := by
  refine ⟨by decide, by decide, by decide, by decide, rfl, rfl, ?_⟩
  intro m hm
  have h : ∀ m : Fin 4, ¬ (m - (3 : Fin 4) - 1).val < ((0 : Fin 4) - 3 - 1).val := by decide
  exact absurd hm (h m)
/-- Wanted lines, and a pending fill of each of some lines. -/
def wanting (wanted : List Nat) (fills : List (Nat × FillState)) : State :=
  { live.setComposition (some { composing none false with wanted := wanted }) with
    cache := { lines := [], fills := fills.map fun f =>
      { line := f.1, state := f.2, spoiled := false, data := List.replicate (if f.2 = .holding then 16 else 0) 7 } } }

/-- Lines to be issued up to the last of the pool; a line held; a set of four where line 0 has no fill, so that 4 yields; the
same where it has one; and no line left. -/
theorem witness_Composition :
    (∀ wanted fills, (wanting wanted fills).comp.composition = some { composing none false with wanted := wanted })
      ∧ (∀ wanted ∈ [[0, 1, 1535], [4, 0], [0, 1, 2, 3, 4], []], noRepeat wanted = true)
      ∧ ((wanting [4, 0] [(4, .holding)]).cache.held 4).isSome = true
      ∧ (let s := wanting [0, 1, 2, 3, 4] [(1, .waiting), (2, .holding), (3, .reading), (4, .holding)]
        s.cache.entry 0 = none ∧ (∀ f ∈ s.cache.fills, f.line ≠ 0) ∧ 4 ≤ s.cache.fills.length
          ∧ (∃ f, (s.cache.fills.find? fun x => x.line = 4) = some f ∧ f.state = .holding))
      ∧ (wanting [] []).producerBusy .credit = false :=
  ⟨fun _ _ => rfl, by decide, by decide, ⟨by decide, by decide, by decide, _, rfl, rfl⟩, by decide⟩
/-- R73: with the set full, HOLDING line 4, the latest in the list, yields to line 0, which has no fill; where line 0's own fill
is pending, no line yields. -/
theorem test_yield :
    ((wanting [0, 1, 2, 3, 4] [(1, .waiting), (2, .holding), (3, .reading), (4, .holding)]).advance.cache.fills.map (·.line))
        = [1, 2, 3, 0]
      ∧ ((wanting [0, 1, 2, 3, 4] [(0, .waiting), (2, .holding), (3, .reading), (4, .holding)]).advance.cache.fills.map
        (·.line)) = [0, 2, 3, 4] := by decide

/-- Sign 40 with a shown record of the composed face, altered. -/
def shownAs (full struct : Word) (resync : Bool) (credits : Nat) (st : SignState) : Sign :=
  let r := recordOf [] (composing none false).face resync
  { door with
    state := st, credits := credits
    shown := { r with fullDigest := r.fullDigest + full, structDigest := r.structDigest + struct } }

/-- Sign 40 so, with QUIET as given. -/
def showing (quiet : Bool) (g : Sign) (engine : EngineState) : State :=
  { (engine0 engine) with
    signs := [(40, g)]
    setup := { live.setup with control := if quiet then 0x41 else 1 } }

/-- The classes of the face against each shown record, as the statements write them. -/
def equalTo (g : Sign) : Prop :=
  g.shown.resync = false ∧ g.shown.fullDigest = crc (faceBody [] (composing none false).face)
def urgentFor (g : Sign) : Prop :=
  ¬ equalTo g ∧ (g.shown.resync = true ∨ g.shown.style ≠ (composing none false).face.style
    ∨ ¬ ∀ x, x ∈ g.shown.noted ↔ x ∈ notedOf (composing none false).face)
def contentFor (g : Sign) : Prop :=
  ¬ equalTo g ∧ ¬ urgentFor g ∧ g.shown.structDigest ≠ crc (structBody [] (composing none false).face)
def tickFor (g : Sign) : Prop := ¬ equalTo g ∧ ¬ urgentFor g ∧ ¬ contentFor g

theorem class_equal (c : Nat) (st : SignState) : equalTo (shownAs 0 0 false c st) := by
  simp [equalTo, shownAs, recordOf, composing]
theorem class_urgent (c : Nat) (st : SignState) : urgentFor (shownAs 0 0 true c st) := by
  simp [urgentFor, equalTo, shownAs, recordOf]
theorem class_content (c : Nat) (st : SignState) : contentFor (shownAs 1 1 false c st) := by
  simp [contentFor, urgentFor, equalTo, shownAs, recordOf, composing]
theorem class_tick (c : Nat) (st : SignState) : tickFor (shownAs 1 0 false c st) := by
  simp [tickFor, contentFor, urgentFor, equalTo, shownAs, recordOf, composing]

/-- Every class, at the credits where the budget turns, with QUIET clear and set, and for a LOST sign. -/
theorem witness_DirtyClass :
    let c := composing none false
    c.engine = none ∧ c.orphan = false
      ∧ (∀ quiet g st, (showing quiet g st).sign c.slot = some g)
      ∧ (shownAs 0 0 false 0 .lost).state = .lost ∧ (shownAs 0 0 false 0 .synced).state ≠ .lost
      ∧ equalTo (shownAs 0 0 false 0 .synced) ∧ urgentFor (shownAs 0 0 true 0 .synced)
      ∧ (contentFor (shownAs 1 1 false 1 .synced) ∧ 1 ≤ (shownAs 1 1 false 1 .synced).credits)
      ∧ (contentFor (shownAs 1 1 false 0 .synced) ∧ (shownAs 1 1 false 0 .synced).credits = 0)
      ∧ (tickFor (shownAs 1 0 false 2 .synced) ∧ 2 ≤ (shownAs 1 0 false 2 .synced).credits)
      ∧ (tickFor (shownAs 1 0 false 1 .synced) ∧ (shownAs 1 0 false 1 .synced).credits ≤ 1)
      ∧ (∀ g st, (showing false g st).setup.quiet = false ∧ (showing true g st).setup.quiet = true) :=
  ⟨rfl, rfl, fun _ _ _ => rfl, rfl, by simp [shownAs], class_equal _ _, class_urgent _ _
  , ⟨class_content _ _, by simp [shownAs]⟩, ⟨class_content _ _, by simp [shownAs]⟩, ⟨class_tick _ _, by simp [shownAs]⟩
  , ⟨class_tick _ _, by simp [shownAs]⟩, fun _ _ => ⟨by simp [showing, SetupLogic.quiet], by simp [showing, SetupLogic.quiet]⟩⟩

theorem witness_SendTime :
    let c := composing (some 0) false
    c.engine = some 0 ∧ c.orphan = false ∧ (composing (some 0) true).orphan = true
      ∧ (∀ quiet g st, (showing quiet g st).sign c.slot = some g ∧ ((showing quiet g st).engine 0).state = st)
      ∧ (EngineState.requesting 40 = .requesting c.slot) ∧ EngineState.idle ≠ .requesting c.slot
      ∧ equalTo (shownAs 0 0 false 0 .pending) ∧ urgentFor (shownAs 0 0 true 0 .pending)
      ∧ (contentFor (shownAs 1 1 false 1 .pending) ∧ 1 ≤ (shownAs 1 1 false 1 .pending).credits)
      ∧ (contentFor (shownAs 1 1 false 0 .pending) ∧ (shownAs 1 1 false 0 .pending).credits = 0)
      ∧ (tickFor (shownAs 1 0 false 2 .pending) ∧ 2 ≤ (shownAs 1 0 false 2 .pending).credits)
      ∧ (tickFor (shownAs 1 0 false 1 .pending) ∧ (shownAs 1 0 false 1 .pending).credits ≤ 1)
      ∧ (∀ g st, (showing false g st).setup.quiet = false ∧ (showing true g st).setup.quiet = true
        ∧ ((showing false g st).port 0).state = .idle) :=
  ⟨rfl, rfl, rfl, fun _ _ _ => ⟨rfl, rfl⟩, rfl, by decide, class_equal _ _, class_urgent _ _
  , ⟨class_content _ _, by simp [shownAs]⟩, ⟨class_content _ _, by simp [shownAs]⟩, ⟨class_tick _ _, by simp [shownAs]⟩
  , ⟨class_tick _ _, by simp [shownAs]⟩, fun _ _ => ⟨by simp [showing, SetupLogic.quiet]
  , by simp [showing, SetupLogic.quiet], rfl⟩⟩

/-- A fill of pool line 1535 with words read, in a state. -/
def filling (n : Nat) (st : FillState) : State :=
  { live with
    path := { live.path with fillQueue := if st = .holding then [] else [1535] }
    cache := { lines := [], fills := [{ line := 1535, state := st, spoiled := false, data := List.replicate n 0 }] } }

theorem witness_FillRead :
    (∀ n st, (filling n st).path.hold ≠ .granted) ∧ (filling 14 .reading).active = true
      ∧ (filling 14 .reading).reloading = false
      ∧ (filling 14 .reading).path.fillQueue = 1535 :: [] ∧ 1535 ∉ ([] : List Nat)
      ∧ (filling 14 .reading).path.postQueue = []
      ∧ (∃ f, (filling 14 .reading).cache.fill 1535 = some f ∧ f.data.length < 15)
      ∧ (filling 15 .reading).active = true ∧ (filling 15 .reading).reloading = false
      ∧ (filling 15 .reading).path.fillQueue = 1535 :: []
      ∧ (∃ f, (filling 15 .reading).cache.fill 1535 = some f ∧ 15 ≤ f.data.length)
      ∧ { filling 14 .reading with path :=
          { (filling 14 .reading).path with lastChoicePost := true } }.path.lastChoicePost = true :=
  ⟨fun _ _ => by simp [filling, live, State.reset], by decide, by decide, rfl, by decide, rfl, ⟨_, rfl, by decide⟩, by decide
  , by decide, rfl, ⟨_, rfl, by decide⟩, rfl⟩
theorem witness_PoolWrites :
    live.active = true ∧ Drive.low 0 ≠ .neither ∧ Drive.both 0 ≠ .neither ∧ live.beginHost.cache.fill 1535 = none
      ∧ (∃ f, (filling 0 .waiting).cache.fill (1535 : Fin 1536).val = some f ∧ f.state ≠ .holding)
      ∧ (∃ f, (filling 16 .holding).beginHost.cache.fill (1535 : Fin 1536).val = some f ∧ f.state = .holding) :=
  ⟨by decide, by decide, by decide, by decide, ⟨_, rfl, by decide⟩, ⟨_, rfl, by decide⟩⟩

/-! ### Segment engines and line ports -/

/-- `live` with engine 0 idle and owing, with its lists and a due flag. -/
def owing (owed : Tab ClearMask) (lists : FaceLists) (due presence : Bool) : State :=
  { live with
    engines := { live.engines with q0 :=
      { live.engines.q0 with owed := owed, due := due, presence := presence, routine := if presence then 0 else 4 } }
    lists := { live.lists with q0 := lists } }

/-- Lists with sign 40 on one of them. -/
def onUrgent : FaceLists := { urgent := [40], content := [], tick := [] }
def onContent : FaceLists := { urgent := [], content := [40], tick := [] }
def onTick : FaceLists := { urgent := [], content := [], tick := [40] }
def onNone : FaceLists := { urgent := [], content := [], tick := [] }

/-- No mask, and the mask of BTN. -/
def noMask : ClearMask := { btn := false, jam := false }
def btnMask : ClearMask := { btn := true, jam := false }

/-- Address 16 holds no sign; 17 holds sign 40. -/
theorem witness_Engine_owed :
    let s := owing [(16, noMask), (17, btnMask)] onUrgent true true
    s.active = true ∧ (s.engine 0).state = .idle ∧ Tab.sorted (s.engine 0).owed = true
      ∧ (17, btnMask) ∈ (s.engine 0).owed ∧ (∃ g, s.signAt 0 17 = some (40, g) ∧ g.state ≠ .lost)
      ∧ (∀ b k, (b, k) ∈ (s.engine 0).owed → b < 17 → ∀ i, ¬ ∃ g, s.signAt 0 b = some (i, g) ∧ g.state ≠ .lost)
      ∧ (btnMask.btn = true ∨ btnMask.jam = true) ∧ (noMask.btn = false ∧ noMask.jam = false) := by
  refine ⟨by decide, by decide, by decide, by decide, ⟨door, rfl, by decide⟩, ?_, by decide, by decide⟩
  rintro b k hb hlt i ⟨g, hg, -⟩
  simp [owing, State.engine, Quad.get] at hb
  rcases hb with ⟨rfl, rfl⟩ | ⟨rfl, rfl⟩
  · revert hg; simp [State.signAt, owing, live, door]
  · simp at hlt
/-- With nothing owed: an URGENT front, a due sweep of either kind, a CONTENT and a TICK front, and no work at all. -/
theorem witness_Engine_lists :
    (∀ l due p, (owing [] l due p).active = true ∧ ((owing [] l due p).engine 0).state = .idle
      ∧ ∀ a m, (a, m) ∈ ((owing [] l due p).engine 0).owed →
        ∀ i, ¬ ∃ g, (owing [] l due p).signAt 0 a = some (i, g) ∧ g.state ≠ .lost)
      ∧ (onUrgent.urgent.find? fun i => (live.sign i).any fun g => g.state = .pending) = some 40
      ∧ (onNone.urgent.find? fun i => (live.sign i).any fun g => g.state = .pending) = none
      ∧ ((owing [] onNone true true).engine 0).due = true ∧ ((owing [] onNone true true).engine 0).presence = true
      ∧ ¬ (((owing [] onNone true false).engine 0).presence = true
        ∨ live.setup.presenceInterval ≤ ((owing [] onNone true false).engine 0).routine + 1)
      ∧ ((owing [] onContent false false).engine 0).due = false
      ∧ (onContent.content.find? fun i => (live.sign i).any fun g => g.state = .pending) = some 40
      ∧ (onTick.tick.find? fun i => (live.sign i).any fun g => g.state = .pending) = some 40
      ∧ (onTick.content.find? fun i => (live.sign i).any fun g => g.state = .pending) = none
      ∧ (onNone.tick.find? fun i => (live.sign i).any fun g => g.state = .pending) = none := by
  refine ⟨fun l due p => ⟨rfl, rfl, ?_⟩, by decide, by decide, by decide, by decide, by decide, by decide, by decide, by decide
    , by decide, by decide⟩
  intro a m h
  simp [owing, State.engine, Quad.get] at h

/-- Engine 0 in a state and port 0 in a state, with sign 40 as given. -/
def onLine (e : EngineState) (p : PortState) (frame : List Byte) (g : Sign) : State :=
  { (engine0 e).setPort 0 { live.ports.q0 with state := p, frame := frame } with signs := [(40, g)] }

/-- A QUERY, a CLEAR and a FACE to sign 40. -/
def query40 : Exchange := .query 40 17
def clear40 : Exchange := .clear 40 17 btnMask
def face40 : Exchange :=
  .face 40 17 6 .content (recordOf [] (composing none false).face false) (faceBody [] (composing none false).face)

theorem witness_TimersAndPort :
    let idle := onLine .idle .sending [] door
    let sent := onLine (.running query40 false) .sending [1] door
    let swept := onLine (.running (.sweep true .none .none true) false) .sending [1] door
    let ready := onLine (.ready query40) .quiet [] door
    idle.active = true ∧ (idle.engine 0).sweepTimer ≠ none ∧ (idle.port 0).state = .sending ∧ (idle.port 0).frame = []
      ∧ (idle.engine 0).state ≠ .ready query40
      ∧ (ready.port 0).state = .quiet ∧ (ready.engine 0).state = .ready query40
      ∧ (sent.port 0).state = .sending ∧ (sent.port 0).frame ≠ [] ∧ (sent.engine 0).sweeping = false
      ∧ (swept.port 0).state = .sending ∧ (swept.port 0).frame ≠ [] ∧ (swept.engine 0).sweeping = true
      ∧ (onLine .idle .idle [] { door with state := .refreshing, timer := some 12 }).sign (40 : Fin 512).val
        = some { door with state := .refreshing, timer := some 12 } := by decide

/-- The reply of sign 40 as section 7.3 builds it, with flags. -/
def reply40 (kind sequence : Byte) (flags : SignFlags) : Reply :=
  Panel.replyOf { Panel.fresh 17 with flags := flags, last := 5 } kind sequence

theorem good40 (kind sequence : Byte) (flags : SignFlags) : goodReply (reply40 kind sequence flags) kind 17 := by
  refine ⟨rfl, rfl, rfl, rfl, ?_⟩
  simp [reply40, Panel.replyOf, joinBytes_hi_lo]

/-- A STATUS to a QUERY and to a CLEAR, an ACCEPT and a BUSY to a FACE; with an unconfirmed send and without; and an outcome to
be ignored. -/
theorem witness_GoodReplies :
    (∀ x ignored, let s := onLine (.running x ignored) .awaiting [1] door
      s.active = true ∧ (s.engine 0).state = .running x ignored ∧ (s.port 0).state = .awaiting ∧ s.sign 40 = some door
        ∧ Tab.sorted s.signs = true)
      ∧ answers query40 (reply40 0x61 5 .every)
      ∧ query40 = .query 40 17 ∧ goodReply (reply40 0x61 5 .every) 0x61 17 ∧ clear40 = .clear 40 17 btnMask
      ∧ (∃ r b, face40 = .face 40 17 6 .content r b) ∧ (reply40 0x62 6 .none).sequence = 6
      ∧ goodReply (reply40 0x62 6 .none) 0x62 17 ∧ goodReply (reply40 0x63 6 .none) 0x63 17
      ∧ door.unconfirmed = none
      ∧ { door with unconfirmed := some (5, blankRecord .default) }.unconfirmed = some (5, blankRecord .default) :=
  ⟨fun _ _ => ⟨rfl, rfl, rfl, rfl, rfl⟩, good40 _ _ _, rfl, good40 _ _ _, rfl, ⟨_, _, rfl⟩, rfl, good40 _ _ _, good40 _ _ _
  , rfl, rfl⟩

/-- A late reply, a gap, and a STATUS that answers a FACE; an ignored outcome; the third failure and an earlier one. -/
theorem witness_BadReplies :
    (∀ x ignored g, let s := onLine (.running x ignored) .awaiting [1] g
      s.active = true ∧ (s.engine 0).state = .running x ignored ∧ (s.port 0).state = .awaiting ∧ s.sign 40 = some g)
      ∧ (Instr.answerTimeout 0 = .answerTimeout 0) ∧ (Instr.replyGap 0 = .replyGap 0)
      ∧ ¬ answers face40 (reply40 0x61 6 .none)
      ∧ query40 = .query 40 17 ∧ clear40 = .clear 40 17 btnMask ∧ (∃ r b, face40 = .face 40 17 6 .content r b)
      ∧ 2 ≤ { door with failures := 2 }.failures ∧ { door with failures := 1 }.failures < 2 := by
  refine ⟨fun _ _ _ => ⟨rfl, rfl, rfl, rfl⟩, rfl, rfl, ?_, rfl, rfl, ⟨_, _, rfl⟩, by decide, by decide⟩
  simp [answers, face40, goodReply, reply40, Panel.replyOf]

/-- A presence sweep shows a LOST sign 40 at address 17; a routine sweep shows one that is not LOST. -/
theorem witness_SlotMap :
    let s := onLine (.running (.sweep true .none .none true) false) .slots [1] { door with state := .lost }
    let r := onLine (.running (.sweep false .every .every false) false) .slots [1] door
    s.active = true ∧ (s.engine 0).state = .running (.sweep true .none .none true) false ∧ (s.port 0).state = .slots
      ∧ signDefsOk s.signDefs = true ∧ s.sign 40 = some { door with state := .lost }
      ∧ (door.defn.line = 0 ∧ (1#128 <<< 17).getLsbD door.defn.address = true)
      ∧ r.active = true ∧ (r.engine 0).state = .running (.sweep false .every .every false) false
      ∧ (r.port 0).state = .slots ∧ signDefsOk r.signDefs = true ∧ r.sign 40 = some door ∧ door.state ≠ .lost
      ∧ s.sign 41 = none := by decide

set_option maxRecDepth 20000 in
/-- A sign at the highest address; the frames of each kind sent to it and to another; a FACE with a well-formed body, fresh and
repeated, with the sign refreshing and not; and a sweep that it qualifies in and one that it does not. -/
theorem witness_SignsAnswer :
    let p := Panel.fresh 127
    let r : FaceRecord := blankRecord .default
    let body := faceBody [] (composing none false).face
    p.address = byteOf 127 ∧ 127 < 128 ∧ 17 < 128 ∧ 17 ≠ 127
      ∧ body.length ≤ 1171 ∧ faceBodyOk body = true
      ∧ (∃ x : Exchange, x = .face 40 127 0 .content { r with resync := false } body ∧ p.refreshing = false ∧ 0 = p.last)
      ∧ (∃ x : Exchange, x = .face 40 127 1 .content r body ∧ r.resync = true) ∧ { p with refreshing := true }.refreshing = true
      ∧ (∃ x : Exchange, x = .query 40 17) ∧ (∃ x : Exchange, x = .clear 40 127 btnMask)
      ∧ (Exchange.sweep true .none .none true = .sweep true .none .none true)
      ∧ ((p.hearsFrame (exchangeFrame (.sweep false .every .every false))).reception = .waiting)
      ∧ ((p.hearsFrame (exchangeFrame (.sweep true .none .none true))).reception = .counting) := by
  refine ⟨by decide, by decide, by decide, by decide, by decide, by decide, ⟨_, rfl, by decide, by decide⟩, ⟨_, rfl, by decide⟩
    , by decide, ⟨_, rfl⟩, ⟨_, rfl⟩, rfl, by decide, by decide⟩

/-- A press of sign 40, with presses behind it, and the ring's entries. -/
def pressed (later : List Press) (ring : List RingEntry) : State :=
  { live with
    engines := { live.engines with q0 :=
      { live.engines.q0 with state := .finishing, presses := { slot := 40, address := 17 } :: later } }
    post := { live.post with ring := ring, ringWrite := BitVec.ofNat 8 ring.length } }

/-- A ring entry of a sign at a place. -/
def entryAt (place sign : Nat) : RingEntry := { place := place, sign := sign, room := none, minute := 0, count := 255 }

theorem witness_Press :
    (∀ later ring, (pressed later ring).active = true
      ∧ ((pressed later ring).engine 0).presses = { slot := 40, address := 17 } :: later
      ∧ (pressed later ring).post.ring = ring ∧ (pressed later ring).ringBusy = false)
      ∧ ([entryAt 0 40].find? fun y => y.sign = 40) = some (entryAt 0 40)
      ∧ (∀ x ∈ (List.range 32).map fun i => entryAt i (100 + i), x.sign ≠ 40)
      ∧ 32 ≤ ((List.range 32).map fun i => entryAt i (100 + i)).length
      ∧ (∀ x ∈ (List.range 31).map fun i => entryAt i (100 + i), x.sign ≠ 40)
      ∧ ((List.range 31).map fun i => entryAt i (100 + i)).length < 32
      ∧ ((pressed [] []).engine 0).state = .finishing
      ∧ ((pressed [] []).setWaiting [{ producer := .ring 1, record := .ringWriteCount 1, raises := 0 }]).ringBusy = true :=
  ⟨fun _ _ => ⟨rfl, rfl, rfl, rfl⟩, by decide, by decide, by decide, by decide, by decide, by decide, by decide⟩

/-! ### The memory path and status posting -/

theorem witness_StatusSpan_ack : live.active = true ∧ Drive.low 0 ≠ .neither ∧ Drive.high 0 ≠ .neither := by decide
/-- With read count 254 and write count 2, four entries are unconsumed: 2 is taken, 3 is not. -/
theorem witness_StatusSpan_readCount :
    let s := { live with post := { live.post with
      ringRead := 254, ringWrite := 2, ring := (List.range 4).map fun i => entryAt ((254 + i) % 32) i } }
    s.active = true
      ∧ ((2#16).setWidth 8 - s.beginHost.post.ringRead).toNat ≤ (s.beginHost.post.ringWrite - s.beginHost.post.ringRead).toNat
      ∧ (s.beginHost.post.ringWrite - s.beginHost.post.ringRead).toNat < ((3#16).setWidth 8 - s.beginHost.post.ringRead).toNat
      ∧ 0x500 + 2 * (65 : Fin 4480).val ≠ 0x580 ∧ 0x500 + 2 * (65 : Fin 4480).val ≠ 0x682 := by decide
/-- An address of each area, at the edges of the area, and writes that have an owner. -/
theorem witness_HostWrites :
    live.active = true ∧ 2 * (0x8000 : BitVec 19).toNat / 0x10000 ≠ live.path.base.val
      ∧ 2 * (0x1400 : BitVec 19).toNat = live.regionAddress 0x2800 ∧ 2 * (0x1FFF : BitVec 19).toNat = live.regionAddress 0x3FFE
      ∧ 2 * (0x14 : BitVec 19).toNat = live.regionAddress 0x28 ∧ setupWordAt 0x28 = none ∧ setupWordAt 0xFE = none
      ∧ (∀ v, Drive.low 1 ≠ .both v) ∧ 2 * (2 : BitVec 19).toNat = live.regionAddress 4 ∧ (2 : Word) ≠ 1
      ∧ 2 * (0x27F : BitVec 19).toNat = live.regionAddress (0x1FE + (3 : Fin 4).val * 0x100) ∧ (live.laneAt 3).state = .opened
      ∧ 2 * (0x2C0 : BitVec 19).toNat = live.regionAddress 0x580 ∧ 2 * (0x341 : BitVec 19).toNat = live.regionAddress 0x682
      ∧ 2 * (0x13FF : BitVec 19).toNat = live.regionAddress (0x500 + 2 * (4479 : Fin 4480).val)
      ∧ 2 * (0x7FFF : BitVec 19).toNat = live.regionAddress (0x4000 + 0x20 * (1535 : Fin 1536).val + 2 * (15 : Fin 16).val)
      ∧ 2 * (0x27E : BitVec 19).toNat = live.regionAddress (0x100 + (3 : Fin 4).val * 0x100 + 2 * (126 : Fin 127).val)
      ∧ 2 * (1 : BitVec 19).toNat = live.regionAddress 2 ∧ 2 * (3 : BitVec 19).toNat = live.regionAddress 6
      ∧ 2 * (0 : BitVec 19).toNat = live.regionAddress 0
      ∧ live.busWrite (.postWord 3 5 4) = some (2 * (0x27F : BitVec 19).toNat, .both 0x0504)
      ∧ live.busWrite (.segSet 3) = some (2 * (0 : BitVec 19).toNat, .both 0x8008)
      ∧ live.busWrite (.kind .lobby 7) = some (2 * (0xB : BitVec 19).toNat, .both 7) := by
  refine ⟨by decide, by decide, by decide, by decide, by decide, by decide, by decide, fun v => by simp, ?_⟩
  decide

/-- Two values queued for one word. -/
def twice : State :=
  { live with path := { live.path with
    postQueue := [{ offset := 0x600, value := 1 }, { offset := 0x600, value := 2 }] } }

theorem witness_Reads :
    twice.active = true ∧ 2 * (0x300 : BitVec 19).toNat = twice.regionAddress 0x600
      ∧ twice.beginHost.path.postQueue = [{ offset := 0x600, value := 1 }] ++ { offset := 0x600, value := 2 } :: []
      ∧ (∀ e ∈ live.beginHost.path.postQueue, 2 * (0x300 : BitVec 19).toNat = live.regionAddress e.offset → 0x10000 ≤ e.offset)
      ∧ twice.reloading = false ∧ twice.path.hold ≠ .granted ∧ twice.path.fillQueue = [] := by decide

/-- Own work waits at the threshold, with the host access that begins next not yet held, held, or next to be forwarded. -/
def insisting (h : Hold) : State :=
  { posting with path := { posting.path with insist := 16, stretchNext := true, hold := h } }

/-- Own work waits at the threshold; the count is below it with no own work; WAIT is asserted; the own access has been made. -/
theorem witness_Insist :
    (insisting .none).active = true ∧ (insisting .none).path.stretchNext = true ∧ (insisting .none).ownWork = true
      ∧ (insisting .none).path.hold = .none
      ∧ live.active = true ∧ live.path.stretchNext = false ∧ live.ownWork = false ∧ live.path.hold = .none
      ∧ (insisting .waiting).active = true ∧ (insisting .waiting).path.hold = .waiting
      ∧ (insisting .granted).active = true ∧ (insisting .granted).path.hold = .granted
      ∧ isHostAccess (.hostRead 0 true true) = true ∧ isHostAccess .restart = true := by decide

/-- A record or raise that waits before a queue with places left, in a phase. -/
def waitingWith (it : Item) (left : Nat) (phase : StartPhase) : State :=
  { live with
    setup := { live.setup with phase := phase }
    path := { live.path with postQueue := List.replicate (64 - left) { offset := 0x600, value := 0 } }
    post := { live.post with waiting := [it] } }

/-- A raise of GUARD, the room record of room 7, and a record of the fill. -/
def guardRaise : Item := { producer := .post, record := .raise Event.guard.mask, raises := 0 }
def roomItem : Item := { producer := .rooms, record := .room 7, raises := 0 }
def fillItem (k : Nat) : Item := { producer := .fill, record := fillRecord k, raises := 0 }

theorem witness_Records :
    (∀ it left phase, (waitingWith it left phase).post.waiting = it :: [])
      ∧ guardRaise.record = .raise Event.guard.mask
      ∧ Event.guard.mask &&& ~~~(waitingWith guardRaise 1 .running).post.flags ≠ 0
      ∧ Event.guard.mask &&& ~~~({ (waitingWith guardRaise 1 .running).post with flags := Event.guard.mask }).flags = 0
      ∧ (waitingWith guardRaise 1 .running).path.postQueue.length + recordSize guardRaise.record ≤ 64
      ∧ ¬ (waitingWith guardRaise 0 .running).path.postQueue.length + recordSize guardRaise.record ≤ 64
      ∧ roomItem.plain = true ∧ (waitingWith roomItem 8 .running).path.postQueue.length + recordSize roomItem.record ≤ 64
      ∧ ¬ (waitingWith roomItem 7 .running).path.postQueue.length + recordSize roomItem.record ≤ 64
      ∧ roomItem.producer ≠ .fill ∧ (∀ n, roomItem.producer ≠ .engine n ∧ roomItem.producer ≠ .ring n)
      ∧ (fillItem 812).producer = .fill ∧ (fillItem 812).plain = true ∧ (fillItem 812).raises = 0
      ∧ (waitingWith (fillItem 812) 16 (.fill 812)).setup.phase = .fill 812 ∧ 812 < 813
      ∧ (waitingWith (fillItem 813) 16 (.fill 813)).setup.phase = .fill 813 ∧ (fillItem 813).plain = true
      ∧ (waitingWith (fillItem 813) 16 (.fill 813)).path.postQueue.length + recordSize (fillItem 813).record ≤ 64 :=
  ⟨fun _ _ _ => rfl, rfl, by decide, by decide, by decide, by decide, by decide, by decide, by decide, by decide
  , fun n => by simp [roomItem], by decide, by decide, by decide, by decide, by decide, by decide, by decide, by decide⟩
/-- The last record of the credit logic, of an engine and of the ring posting; a composition that waits to end. -/
theorem witness_Records_producers :
    let item := fun (p : Producer) => ({ producer := p, record := .health 40, raises := 0 } : Item)
    let s := (waitingWith (item .credit) 4 .running).setComposition (some (composing none false))
    s.active = true ∧ s.post.waiting = item .credit :: [] ∧ (item .credit).plain = true
      ∧ s.path.postQueue.length + recordSize (item .credit).record ≤ 64
      ∧ s.comp.composition = some (composing none false) ∧ (composing none false).wanted = []
      ∧ (s.setWaiting []).producerBusy .credit = false
      ∧ (item (.engine 0)).producer = .engine 0 ∧ (item (.ring 0)).producer = .ring 0
      ∧ ({ producer := .ring 0, record := .ringWriteCount 1, raises := 0 } : Item).plain = true := by decide
/-- At the end of the fill a held result and a QUEUED head wait. -/
theorem witness_Records_last :
    let s := { waitingWith (fillItem 813) 16 (.fill 813) with lane :=
      { live.lane with
        commit := [1]
        lanes := { live.lane.lanes with
          q0 := { Lane.empty with heldResult := some .idle }, q1 := { Lane.empty with state := .queued } } } }
    (s.laneAt 0).heldResult = some .idle ∧ s.lane.commit.head? = some 1 ∧ (s.laneAt 1).state = .queued := by decide

/-- A change of the enable mask, of a ring entry, of a room and a sign, and of an echo section. -/
theorem witness_ChangedValues :
    let changes := fun (c : Instr) (s : State) (p : State → Bool) => s.storeOk = true ∧ s.signsOk = true
      ∧ s.post.ringOk = true ∧ s.postsOk = true ∧ s.active = true
      ∧ after c s (fun t => t.active && t.setup.restartCount = s.setup.restartCount && p t) = true
    changes (.enable 0x8001) live (fun t => t.setup.enable ≠ live.setup.enable)
      ∧ changes (.guardedWrite 0 (.high 1)) live (fun t => t.post.guardByte ≠ live.post.guardByte)
      ∧ changes (.callPress 0) (pressed [] []) (fun t => t.post.ringWrite = 1 && t.post.ring = [{ entryAt 0 40 with
        room := some 7, minute := 545, count := 1 }])
      ∧ changes .minuteSignal (counting false 600) (fun t => (roomBody (t.room 7) ≠ roomBody (live.room 7) : Bool))
      ∧ changes .timebaseExpiry (counting false 545) (fun t => t.setup.phase = .running
        && echoBody t .summary ≠ echoBody (counting false 545) .summary)
      ∧ changes .refill (counting false 550) (fun t => (healthBody (t.sign 40) ≠ healthBody (live.sign 40) : Bool)) := by
  decide

/-- A RUNNING part: the summary section and the records of room 7 and sign 40 stay as they are at a fill read, and so does
room 7 at a host access; the phase of a part in its fill is at most its last record. -/
theorem witness_UnchangedValues :
    let keeps := fun (c : Instr) (s : State) => s.storeOk = true ∧ s.signsOk = true ∧ s.post.ringOk = true
      ∧ s.postsOk = true ∧ s.active = true ∧ s.setup.phase = .running ∧ s.setup.inRange = true ∧ s.creditsOk = true
      ∧ after c s (fun t => t.active && t.setup.restartCount = s.setup.restartCount
        && echoBody t .summary = echoBody s .summary && roomBody (t.room 7) = roomBody (s.room 7)
        && healthBody (t.sign 40) = healthBody (s.sign 40)) = true
    keeps .fillRead (filling 14 .reading) ∧ isHostAccess .fillRead = false ∧ (Instr.fillRead ≠ .answerTimeout 0)
      ∧ keeps (.snoop 9 0 (.both 1)) live
      ∧ (∀ k, (waitingWith (fillItem 813) 16 (.fill 813)).setup.phase = .fill k → k ≤ 813) :=
  ⟨by decide, by decide, by decide, by decide, by simp [waitingWith]⟩

/-! ### Setup words -/

/-- Line 1 disabled and OFF; line 0 requesting for a composition, with a FACE ready, awaiting and being sent. -/
theorem witness_Lines :
    live.active = true ∧ live.beginHost.setup.seg 1 = false ∧ (live.beginHost.engine 1).state = .off
      ∧ live.beginHost.setup.seg 0 = true
      ∧ (∀ e p f, let s := (onLine e p f door).setComposition (some (composing (some 0) false))
        (s.engine 0).state = e ∧ (s.port 0).state = p ∧ s.sign 40 = some door
          ∧ s.comp.composition = some (composing (some 0) false) ∧ s.beginHost = s)
      ∧ (composing (some 0) false).engine = some 0 ∧ (∃ r b, face40 = .face 40 17 6 .content r b)
      ∧ PortState.sending ≠ .awaiting
      ∧ (∀ c, live.beginHost.comp.composition = some c → c.engine ≠ some 0)
      ∧ (∀ slot, (live.beginHost.engine 0).state ≠ .requesting slot)
      ∧ ∀ slot a q r rec body, (live.beginHost.engine 0).state ≠ .ready (.face slot a q r rec body)
        ∧ (live.beginHost.engine 0).state ≠ .running (.face slot a q r rec body) false := by
  have he : (live.beginHost.engine 0).state = .idle := rfl
  have hn : live.beginHost.comp.composition = none := rfl
  refine ⟨by decide, by decide, by decide, by decide, fun _ _ _ => ⟨rfl, rfl, rfl, rfl, rfl⟩, rfl, ⟨_, _, rfl⟩, by decide, ?_, ?_, ?_⟩
  · simp [hn]
  · simp [he]
  · simp [he]
/-- A QUIET that is set, and sign 40 carrying the mark. -/
theorem witness_Quiet :
    let s := showing true { door with deferred := true, state := .deferred } .idle
    s.active = true ∧ s.beginHost.setup.quiet = true
      ∧ (40, { door with deferred := true, state := .deferred }) ∈ s.beginHost.signs := by decide

/-! ## One command at a time -/

theorem test_reset_steps : after .recordEnqueue State.reset (fun t => t.path.postQueue.length = 16) = true := by decide
theorem test_idle : (match step State.reset with | .next t => decide (t = State.reset) | _ => false) = true := by decide
theorem test_read_newest :
    after (.hostRead 0x300 true true) twice (fun t => t.path.hostData = { upper := some 0, lower := some 2 }) = true := by
  decide
/-- R173, R174: the access the threshold holds back waits for one own access, comes before a second one, and counts though no
own work is left as it is forwarded. -/
theorem test_held_access_counts :
    after .insistStall (insisting .none) (fun s => s.path.wait && after .postWrite s fun t =>
      t.path.postQueue = [] && t.path.insist = 0 && !t.path.wait && after (.hostRead 0 true true) t fun u =>
        u.path.insist = 1 && u.path.hold = .none) = true := by decide
theorem test_one_own_access_per_hold :
    after .postWrite { twice with path := { twice.path with hold := .waiting } } (fun s =>
      s.path.postQueue.length = 1 && after .postWrite s fun t => decide (t = s)) = true := by decide
theorem test_ack_low_byte :
    after (.ackMerge (.low 0xFE)) { live with post := { live.post with flags := 0x1FFF } }
      (fun t => t.post.flags = 0x1FFE) = true := by decide
theorem test_apply_drop :
    after .dropSession (checking w0 (.dropSession 300)) (fun t => match t.lane.batch with
      | .checking c => c.work.sessions = [] && c.passed = 1
      | _ => false) = true := by decide
theorem test_call_press_counts_to_255 :
    after (.callPress 0) (pressed [] [entryAt 0 40]) (fun t => t.post.ring = [entryAt 0 40]) = true := by decide
theorem test_minute_ends_clock :
    after .timebaseExpiry (counting false 65534) (fun t => t.clock.state = .ended && t.clock.now = 65535) = true := by decide
theorem test_restart_counts :
    after .restart { live with setup := { live.setup with restartCount := 65535 } }
      (fun t => t.setup.restartCount = 0 && t.setup.phase = .reload 0) = true := by decide
theorem test_panel_busy :
    (Panel.onFace { Panel.fresh 17 with last := 5, refreshing := true } 6 false []).2.kind = 0x63 := by decide
theorem test_panel_repeat :
    (Panel.onFace { Panel.fresh 17 with last := 5, shown := [1] } 5 false []).1.shown = [1] := by decide
/-- R120: 0x53 is sent start bit first, least significant data bit next. -/
theorem test_character :
    charLevels 0x53
      = [.space, .mark, .mark, .space, .space, .mark, .space, .mark, .space, .mark] ∧ readChar (charLevels 0x53) = (0x53, false) := by
  decide
/-- R121: a BREAK of 20 bit times aborts a reply not begun; 19 are no BREAK. -/
theorem test_break_aborts :
    let p : Panel := { Panel.fresh 17 with reception := .replying (reply40 0x61 5 .none) }
    (p.spaced 20).begins.2 = none ∧ (p.spaced 19).begins.2 = some (reply40 0x61 5 .none) :=
  ⟨rfl, rfl⟩
/-- R133: the last accepted sequence of a sign that has never accepted a face is 0. -/
theorem test_panel_fresh : ((Panel.fresh 17).replyOf 0x61 (Panel.fresh 17).last).sequence = 0 := by decide
/-- R77, R158: a sign is not marked for a line that only the FACE to be ignored holds. -/
theorem test_ignored_face_marks_none :
    let x : Exchange := .face 40 17 6 .content { (blankRecord .default) with textLines := [9] } []
    let s := fun (ignored : Bool) => onLine (.running x ignored) .awaiting [1] { door with state := .sending }
    after (.snoop 9 0 (.both 1)) (s false) (fun t => t.comp.dirty = [40]) = true
      ∧ after (.snoop 9 0 (.both 1)) (s true) (fun t => t.comp.dirty = []) = true := by decide
/-- R62: a minute at which no room changes posts no room record. -/
theorem test_unchanged_room_not_posted :
    after .minuteSignal { counting false 545 with signs := [] }
      (fun t => t.post.waiting = [] && (t.path.postQueue.all fun e => decide (e.offset < 0x800))) = true := by decide
/-- R50: CLOCK_END is raised by the minute that reaches 65,535 and by no minute before it. -/
theorem test_clock_end_raised_once :
    after .timebaseExpiry (counting false 65534) (fun t => t.raising Event.clockEnd.mask) = true
      ∧ after .timebaseExpiry (counting false 65533) (fun t => !t.raising Event.clockEnd.mask) = true := by decide
/-- R136: a line stopped while its FACE or QUERY is sent goes on driving some part of it that ends with a character; one stopped
while it awaits a reply drives nothing. -/
theorem test_frame_is_cut_off :
    (cutLevels [1, 2, 3] 0).length = 0 ∧ (cutLevels [1, 2, 3] 20).length = 20 ∧ (cutLevels [1, 2, 3] 36).length = 45
      ∧ (cutLevels [1, 2, 3] 45).length = 45 ∧ (cutLevels [1, 2, 3] 65).length = 65
      ∧ after (.segClear 0) (onLine (.running query40 false) .awaiting [1] door) (fun t => (t.port 0).drives.isNone) = true := by
  decide
/-- R153, R185: a STATUS that changes nothing hands the sign's health record. -/
theorem test_status_hands_health :
    let t := (onLine (.running query40 false) .awaiting [1] door).onStatus 0 40 17 .query .none 5
    t.signs = [(40, door)] ∧ t.path.postQueue.length = 4 := by decide
/-- R114, R154, R185: a send that goes ahead is handed by the credit logic, and its new sequence by the engine. -/
theorem test_send_hands_twice :
    let sent := fun (q : Byte) => live.setSign 40 { door with state := .sending, sequence := q }
    ((sent 6).syncClosed live (some 0)).path.postQueue.length = 8
      ∧ ((sent 5).syncClosed live (some 0)).path.postQueue.length = 4 := by decide
/-- Log entry 20: with PGOOD low a step of the part changes nothing. -/
theorem test_pgood_low_does_nothing :
    let s := { checking w0 (.dropSession 300) with pins := { live.pins with pgood := false } }
    (match exec .dropSession s with | .next t => decide (t = s) | _ => false) = true := by decide

end Sys2Proof.Tests
end

section
/-! SHIFT SESSION (R19, R20): what runs of table updates leave, the shifted set by lookup, the outcomes of the simulation in
R19's order, and the working copy an entry that passes leaves. -/

namespace Sys2Proof.Machine

/-! ## Runs of table updates -/

section Runs
variable {α β : Type} {key : β → Nat} {val : β → α}

/-- A run of updates leaves every key it does not name as it was. -/
theorem Tab.get_foldl_set_of_forall_ne {l : List β} {i : Nat} (h : ∀ b ∈ l, key b ≠ i) (t : Tab α) :
    Tab.get (l.foldl (fun t b => Tab.set t (key b) (val b)) t) i = Tab.get t i := by
  induction l generalizing t with
  | nil => rfl
  | cons b l ih =>
    obtain ⟨hb, hl⟩ := List.forall_mem_cons.1 h
    exact (ih hl _).trans (Tab.get_set_of_ne t (val b) hb.symm)

/-- A run of updates that agree on a key gives it their value. The induction is on the last update, which decides. -/
theorem Tab.get_foldl_set_of_mem {l : List β} {b : β} (hb : b ∈ l) (h : ∀ a ∈ l, key a = key b → val a = val b)
    (t : Tab α) : Tab.get (l.foldl (fun t b => Tab.set t (key b) (val b)) t) (key b) = some (val b) := by
  induction l using List.reverseRecOn with
  | nil => cases hb
  | append_singleton l a ih =>
    rw [List.foldl_append, List.foldl_cons, List.foldl_nil, Tab.get_set]
    split
    next hk => rw [h a (by simp) hk.symm]
    next hk =>
      have hbl : b ∈ l := (List.mem_append.1 hb).resolve_right fun hba => hk (by rw [List.mem_singleton.1 hba])
      exact ih hbl fun c hc => h c (List.mem_append_left _ hc)

end Runs

/-! ## Touched rooms and HELD rooms of a working copy -/

theorem Work.get_touched_touch_of_mem (w : Work) (off : Nat) {rooms : List Nat} {r : Nat} (h : r ∈ rooms) :
    Tab.get (w.touch off rooms).touched r = some off :=
  Tab.get_foldl_set_of_mem (key := id) (val := fun _ => off) h (fun _ _ _ => rfl) w.touched

theorem Work.get_touched_touch_of_not_mem (w : Work) (off : Nat) {rooms : List Nat} {r : Nat} (h : r ∉ rooms) :
    Tab.get (w.touch off rooms).touched r = Tab.get w.touched r :=
  Tab.get_foldl_set_of_forall_ne (key := id) (val := fun _ => off) (fun _ hb => ne_of_mem_of_not_mem hb h) w.touched

/-- The test of the simulation is R58's HELD. -/
theorem Work.held_iff_roomHeld (w : Work) (room : Nat) : w.held room = true ↔ w.roomHeld room := by
  unfold Work.held Work.roomHeld
  cases Tab.get w.rooms room with
  | none => simp
  | some r => simp

/-! ## The shifted set -/

section ShiftedSet
variable {cascade : Bool} {id : Nat} {e : Session} {t : Tab Session}

/-- The shifted set by lookup: the target alone, or with CASCADE what its room holds that starts no earlier (R19). -/
theorem mem_shiftedSet (hs : Tab.sorted t = true) (he : Tab.get t id = some e) (i : Nat) (x : Session) :
    (i, x) ∈ shiftedSet cascade id e t
      ↔ Tab.get t i = some x ∧ if cascade then x.room = e.room ∧ e.start ≤ x.start else i = id := by
  cases cascade with
  | false =>
    simp only [shiftedSet, Bool.false_eq_true, if_false, List.mem_singleton, Prod.mk.injEq]
    constructor
    · rintro ⟨rfl, rfl⟩; exact ⟨he, rfl⟩
    · rintro ⟨hx, rfl⟩; exact ⟨rfl, Option.some.inj (hx.symm.trans he)⟩
  | true =>
    have hmem : (i, x) ∈ t ↔ Tab.get t i = some x := ⟨Tab.get_of_mem hs, Tab.mem_of_get⟩
    simp [shiftedSet, hmem]

/-- An id stands in the shifted set with one record only. -/
theorem shiftedSet_functional (hs : Tab.sorted t = true) (he : Tab.get t id = some e) {a b : Nat × Session}
    (ha : a ∈ shiftedSet cascade id e t) (hb : b ∈ shiftedSet cascade id e t) (hk : a.1 = b.1) : a.2 = b.2 := by
  have hga := ((mem_shiftedSet hs he a.1 a.2).1 ha).1
  have hgb := ((mem_shiftedSet hs he b.1 b.2).1 hb).1
  rw [hk, hgb] at hga
  exact (Option.some.inj hga).symm

end ShiftedSet

/-! ## The effect -/

/-- A session with its start and end moved by a delta (R20). -/
def Session.shift (delta : Int) (x : Session) : Session :=
  { x with start := shifted x.start delta, fin := shifted x.fin delta }

/-- The rooms a shift of a set touches: the target's room and the moved-from rooms of the set (R20). -/
def shiftedRooms (room : Nat) (set : Tab Session) : List Nat :=
  room :: set.flatMap fun (x : Nat × Session) => x.2.movedFrom.toList

/-- The working copy that a SHIFT SESSION entry which passes leaves: a set shifted, and its rooms touched (R20). -/
def Work.shiftAll (w : Work) (off room : Nat) (delta : Int) (set : Tab Session) : Work :=
  { w with sessions := set.foldl (fun t (x : Nat × Session) => Tab.set t x.1 (x.2.shift delta)) w.sessions }.touch off
    (shiftedRooms room set)

/-- A time that a shift does not carry below 0 moves by the delta. -/
theorem shifted_cast {t : Nat} {delta : Int} (h : 0 ≤ (t : Int) + delta) : (shifted t delta : Int) = t + delta :=
  Int.toNat_of_nonneg h

section ShiftAll
variable (w : Work) (off room : Nat) (delta : Int) {set : Tab Session}

theorem Work.shiftAll_frame :
    w.shiftAll off room delta set
      = { w with sessions := (w.shiftAll off room delta set).sessions, touched := (w.shiftAll off room delta set).touched } :=
  rfl

theorem Work.sessions_shiftAll :
    (w.shiftAll off room delta set).sessions
      = set.foldl (fun t (x : Nat × Session) => Tab.set t x.1 (x.2.shift delta)) w.sessions := rfl

theorem Work.get_sessions_shiftAll_of_mem {i : Nat} {x : Session} (h : (i, x) ∈ set)
    (hf : ∀ a ∈ set, a.1 = i → a.2 = x) :
    Tab.get (w.shiftAll off room delta set).sessions i = some (x.shift delta) := by
  rw [Work.sessions_shiftAll]
  exact Tab.get_foldl_set_of_mem (key := Prod.fst) (val := fun a : Nat × Session => a.2.shift delta) h
    (fun a ha hk => congrArg (Session.shift delta) (hf a ha hk)) w.sessions

theorem Work.get_sessions_shiftAll_of_not_mem {i : Nat} (h : ∀ x, (i, x) ∉ set) :
    Tab.get (w.shiftAll off room delta set).sessions i = Tab.get w.sessions i := by
  rw [Work.sessions_shiftAll]
  refine Tab.get_foldl_set_of_forall_ne (key := Prod.fst) (val := fun a : Nat × Session => a.2.shift delta) ?_ w.sessions
  rintro ⟨j, x⟩ hx rfl
  exact h x hx

theorem mem_shiftedRooms {r : Nat} :
    r ∈ shiftedRooms room set ↔ r = room ∨ ∃ i x, (i, x) ∈ set ∧ x.movedFrom = some r := by
  simp [shiftedRooms, List.mem_flatMap]

theorem Work.get_touched_shiftAll_of_mem {r : Nat} (h : r = room ∨ ∃ i x, (i, x) ∈ set ∧ x.movedFrom = some r) :
    Tab.get (w.shiftAll off room delta set).touched r = some off :=
  Work.get_touched_touch_of_mem _ off ((mem_shiftedRooms room).2 h)

theorem Work.get_touched_shiftAll_of_not_mem {r : Nat} (hne : r ≠ room)
    (h : ∀ i x, (i, x) ∈ set → x.movedFrom ≠ some r) :
    Tab.get (w.shiftAll off room delta set).touched r = Tab.get w.touched r := by
  refine Work.get_touched_touch_of_not_mem _ off fun hr => ?_
  rcases (mem_shiftedRooms room).1 hr with rfl | ⟨i, x, hx, hm⟩
  · exact hne rfl
  · exact h i x hx hm

end ShiftAll

/-! ## The tests, in R19's order -/

section Order
variable (off : Nat) {cascade : Bool} {id : Nat} {delta : Int} {w : Work} {e : Session}

/-- The first test of R19, as the simulation makes it. -/
theorem deltaTest_iff :
    (delta = 0 || delta < -240 || 240 < delta : Bool) = true ↔ delta = 0 ∨ delta < -240 ∨ 240 < delta := by
  simp [or_assoc]

/-- Whether a delta carries a member of a set past either bound of the venue minute (R19). -/
def reachesTooFar (delta : Int) (set : Tab Session) : Bool :=
  set.any fun x => decide ((x.2.start : Int) + delta < 0) || decide (65535 < (x.2.fin : Int) + delta)

theorem reachesTooFar_iff (set : Tab Session) :
    reachesTooFar delta set = true
      ↔ ∃ i x, (i, x) ∈ set ∧ ((x.start : Int) + delta < 0 ∨ 65535 < (x.fin : Int) + delta) := by
  simp [reachesTooFar]

theorem simShiftSession_delta_range (hd : delta = 0 ∨ delta < -240 ∨ 240 < delta) :
    simShiftSession off cascade id delta w = .refused .range 0 :=
  if_pos (deltaTest_iff.2 hd)

theorem simShiftSession_unknownId (hd : ¬ (delta = 0 ∨ delta < -240 ∨ 240 < delta)) (he : Tab.get w.sessions id = none) :
    simShiftSession off cascade id delta w = .refused .unknownId 0 := by
  rw [simShiftSession, if_neg (mt deltaTest_iff.1 hd), he]

/-- Past the first two tests: the bounds of the shifted set, then HELD, then the effect. -/
theorem simShiftSession_target (hd : ¬ (delta = 0 ∨ delta < -240 ∨ 240 < delta))
    (he : Tab.get w.sessions id = some e) :
    simShiftSession off cascade id delta w
      = if reachesTooFar delta (shiftedSet cascade id e w.sessions) then .refused .range 0
        else if w.held e.room then .refused .held 0
        else .passed (w.shiftAll off e.room delta (shiftedSet cascade id e w.sessions)) := by
  rw [simShiftSession, if_neg (mt deltaTest_iff.1 hd), he]
  rfl

end Order

/-! ## The command -/

/-- SHIFT SESSION takes the entry the check has come to. -/
theorem exec_shiftSession {c : Check} {off id : Nat} {cascade : Bool} {delta : Int} {s : State} (ha : s.active = true)
    (hn : s.nextEntry = some (c, off, .shiftSession cascade id delta)) :
    exec .shiftSession s = .next (s.simulated c off (simShiftSession off cascade id delta c.work)) := by
  show Host.Outcome.next (s.working _) = _
  rw [State.working_active ha, hn]

theorem State.simulated_refused (s : State) (c : Check) (off : Nat) (code : Code) (first : Nat) :
    s.simulated c off (.refused code first) = s.refuses c off code first := rfl

theorem State.simulated_passed (s : State) (c : Check) (off : Nat) (w : Work) :
    s.simulated c off (.passed w) = s.passes c w := rfl

/-- Settles O25: R19's tests decide which of the simulation's outcomes is taken; the last shifts the set and no other
session. -/
theorem shiftSessionShiftsTheSet : Obligations.ShiftSessionShiftsTheSet := by
  intro c off cascade id delta s ha hn hs w range
  have hexec := exec_shiftSession ha hn
  refine ⟨fun hd => ?_, fun hd he => ?_, ?_⟩
  · rw [hexec, simShiftSession_delta_range off hd, State.simulated_refused]
  · rw [hexec, simShiftSession_unknownId off hd he, State.simulated_refused]
  intro e hd he inSet tooFar
  have hset : ∀ i x, (i, x) ∈ shiftedSet cascade id e w.sessions ↔ inSet i x := mem_shiftedSet hs he
  have hfar : reachesTooFar delta (shiftedSet cascade id e w.sessions) = true ↔ tooFar := by
    simp only [reachesTooFar_iff, hset, tooFar]
  rw [hexec, simShiftSession_target off hd he]
  refine ⟨fun far => ?_, fun near held => ?_, fun near free => ?_⟩
  · rw [if_pos (hfar.2 far), State.simulated_refused]
  · rw [if_neg (mt hfar.1 near), if_pos ((w.held_iff_roomHeld _).2 held), State.simulated_refused]
  rw [if_neg (mt hfar.1 near), if_neg (mt (w.held_iff_roomHeld _).1 free), State.simulated_passed]
  refine ⟨_, rfl, w.shiftAll_frame off e.room delta, fun i x hx => ?_, fun i out => ?_, fun r hr => ?_,
    fun r hne hout => ?_⟩
  · have hmem := (hset i x).2 hx
    have hstart : 0 ≤ (x.start : Int) + delta := not_lt.1 fun h => near ⟨i, x, hx, .inl h⟩
    have hfin := (le_or_gt 0 ((x.fin : Int) + delta)).imp_left shifted_cast
    exact ⟨x.shift delta, w.get_sessions_shiftAll_of_mem off e.room delta hmem fun a ha hk =>
      shiftedSet_functional hs he ha hmem hk, shifted_cast hstart, hfin, rfl⟩
  · exact w.get_sessions_shiftAll_of_not_mem off e.room delta fun x hx => out x ((hset i x).1 hx)
  · exact w.get_touched_shiftAll_of_mem off e.room delta (by simpa only [hset] using hr)
  · exact w.get_touched_shiftAll_of_not_mem off e.room delta hne fun i x hx => hout i x ((hset i x).1 hx)

end Sys2Proof.Machine
end

section
/-! ROOM STATE (R59, R60): the table of actions, the outcomes of the simulation in R59's order, and the room slot that an entry
which changes the room leaves. -/

namespace Sys2Proof.Machine

/-! ## R60's table, a row for each action -/

section Actions
variable (st : RoomState)

theorem roomAction_open : roomAction 0 st = if st = .closed then some .opened else none := by cases st <;> rfl
theorem roomAction_close : roomAction 1 st = if st = .closed then none else some .closed := by cases st <;> rfl
theorem roomAction_hold : roomAction 2 st = if st = .held then none else some .held := by cases st <;> rfl
theorem roomAction_release : roomAction 3 st = if st = .held then some .opened else none := by cases st <;> rfl

end Actions

/-! ## The effect -/

/-- The working copy with a room slot given a value, by the entry at `off` (R11). -/
def Work.writeRoom (w : Work) (off room : Nat) (r : Room) : Work :=
  { w with rooms := Tab.set w.rooms room r }.touch off [room]

theorem Work.changesRoom_writeRoom (w : Work) (off room : Nat) (r : Room) :
    w.changesRoom (w.writeRoom off room r) off room r :=
  ⟨rfl, fun i => Tab.get_set w.rooms room i r, fun i => Tab.get_set w.touched room i off⟩

/-! ## The tests, in R59's order -/

section Order
variable (off : Nat) {action room : Nat} {w : Work} {r : Room}

theorem simRoomState_range (h : 3 < action) : simRoomState off action room w = .refused .range 0 := if_pos h

theorem simRoomState_unknownRoom (h : action ≤ 3) (hr : w.noRoom room) :
    simRoomState off action room w = .refused .unknownRoom 0 := by
  rw [simRoomState, if_neg (not_lt.2 h), hr]

theorem simRoomState_unchanged (h : action ≤ 3) (hr : Tab.get w.rooms room = some r)
    (hst : roomAction action r.state = none) : simRoomState off action room w = .passed w := by
  simp only [simRoomState, if_neg (not_lt.2 h), hr, hst]

theorem simRoomState_changed {st : RoomState} (h : action ≤ 3) (hr : Tab.get w.rooms room = some r)
    (hst : roomAction action r.state = some st) :
    simRoomState off action room w = .passed (w.writeRoom off room { r with state := st }) := by
  simp only [simRoomState, if_neg (not_lt.2 h), hr, hst, Work.writeRoom]

end Order

/-! ## The command -/

/-- ROOM STATE takes the entry the check has come to. -/
theorem exec_roomState {c : Check} {off action room : Nat} {s : State} (ha : s.active = true)
    (hn : s.nextEntry = some (c, off, .roomState action room)) :
    exec .roomState s = .next (s.simulated c off (simRoomState off action room c.work)) := by
  show Host.Outcome.next (s.working _) = _
  rw [State.working_active ha, hn]

/-- Settles O27: the tests of R59 in order; past them the row of R60's table that the action names decides. -/
theorem roomStateFollowsTheTable : Obligations.RoomStateFollowsTheTable := by
  intro c off action room s ha hn w
  have hexec := exec_roomState ha hn
  refine ⟨fun h => ?_, fun h hr => ?_, ?_⟩
  · rw [hexec, simRoomState_range off h, State.simulated_refused]
  · rw [hexec, simRoomState_unknownRoom off h hr, State.simulated_refused]
  intro r h hr becomes stays
  have changed : ∀ st, roomAction action r.state = some st → becomes st := fun st hst =>
    ⟨w.writeRoom off room { r with state := st },
      by rw [hexec, simRoomState_changed off h hr hst, State.simulated_passed], w.changesRoom_writeRoom off room _⟩
  have unchanged : roomAction action r.state = none → stays := fun hst => by
    show exec .roomState s = .next (s.passes c w)
    rw [hexec, simRoomState_unchanged off h hr hst, State.simulated_passed]
  refine ⟨?opens, ?closes, ?holds, ?releases⟩
  case opens =>
    rintro rfl
    split
    next hs => exact changed _ ((roomAction_open _).trans (if_pos hs))
    next hs => exact unchanged ((roomAction_open _).trans (if_neg hs))
  case closes =>
    rintro rfl
    split
    next hs => exact unchanged ((roomAction_close _).trans (if_pos hs))
    next hs => exact changed _ ((roomAction_close _).trans (if_neg hs))
  case holds =>
    rintro rfl
    split
    next hs => exact unchanged ((roomAction_hold _).trans (if_pos hs))
    next hs => exact changed _ ((roomAction_hold _).trans (if_neg hs))
  case releases =>
    rintro rfl
    split
    next hs => exact changed _ ((roomAction_release _).trans (if_pos hs))
    next hs => exact unchanged ((roomAction_release _).trans (if_neg hs))

end Sys2Proof.Machine
end

section
/-! Derived rooms (R3, R56, R57): the insertion sort puts a list in order, the chain of a room, the first of an ordered list
that has a property, and the values a derivation gives from the chain. -/

namespace Sys2Proof.Machine

/-! ## The insertion sort -/

section Sorting
variable {α : Type} {lt : α → α → Bool}

theorem insertBy_eq_orderedInsert (x : α) (l : List α) :
    insertBy lt x l = l.orderedInsert (fun a b => lt a b = true) x := by
  induction l with
  | nil => rfl
  | cons y l ih => rw [insertBy, List.orderedInsert_cons, ih]

theorem sortBy_perm (l : List α) : (sortBy lt l).Perm l := by
  induction l with
  | nil => exact .nil
  | cons x l ih =>
    rw [sortBy, insertBy_eq_orderedInsert]
    exact (List.perm_orderedInsert _ x _).trans (ih.cons x)

@[simp] theorem mem_sortBy {l : List α} {x : α} : x ∈ sortBy lt l ↔ x ∈ l := (sortBy_perm l).mem_iff

theorem mem_insertBy {l : List α} {x y : α} : y ∈ insertBy lt x l ↔ y = x ∨ y ∈ l := by
  rw [insertBy_eq_orderedInsert, List.mem_orderedInsert]

theorem pairwise_insertBy (trans : ∀ a b c, lt a b = true → lt b c = true → lt a c = true) {x : α} {l : List α}
    (hl : l.Pairwise fun a b => lt a b = true) (hx : ∀ y ∈ l, lt x y = true ∨ lt y x = true) :
    (insertBy lt x l).Pairwise fun a b => lt a b = true := by
  induction l with
  | nil => exact List.pairwise_singleton _ x
  | cons y l ih =>
    obtain ⟨hy, hl'⟩ := List.pairwise_cons.1 hl
    obtain ⟨hxy, hxl⟩ := List.forall_mem_cons.1 hx
    rw [insertBy]
    split
    next h => exact List.pairwise_cons.2 ⟨List.forall_mem_cons.2 ⟨h, fun z hz => trans _ _ _ h (hy z hz)⟩, hl⟩
    next h =>
      refine List.pairwise_cons.2 ⟨fun z hz => ?_, ih hl' hxl⟩
      rcases mem_insertBy.1 hz with rfl | hz
      · exact hxy.resolve_left h
      · exact hy z hz

/-- A strict order that compares the members of a list orders them strictly. -/
theorem pairwise_sortBy (trans : ∀ a b c, lt a b = true → lt b c = true → lt a c = true) {l : List α}
    (hl : l.Pairwise fun a b => lt a b = true ∨ lt b a = true) : (sortBy lt l).Pairwise fun a b => lt a b = true := by
  induction l with
  | nil => exact .nil
  | cons x l ih =>
    obtain ⟨hx, hl'⟩ := List.pairwise_cons.1 hl
    exact pairwise_insertBy trans (ih hl') fun y hy => hx y (mem_sortBy.1 hy)

/-- In an ordered list, the first member with a property is the one that no other with it precedes. -/
theorem find?_eq_some_of_least {R : α → α → Prop} {p : α → Bool} {l : List α} {x : α} (hl : l.Pairwise R) (hx : x ∈ l)
    (hp : p x = true) (least : ∀ y ∈ l, p y = true → ¬ R y x) : l.find? p = some x := by
  induction l with
  | nil => cases hx
  | cons y l ih =>
    obtain ⟨hy, hl'⟩ := List.pairwise_cons.1 hl
    obtain ⟨hleast, hleast'⟩ := List.forall_mem_cons.1 least
    rcases List.mem_cons.1 hx with rfl | hx
    · exact List.find?_cons_of_pos hp
    · have hpy : ¬ p y = true := fun h => hleast h (hy x hx)
      rw [List.find?_cons_of_neg hpy]
      exact ih hl' hx hleast'

end Sorting

/-! ## Chain order and the chain of a room -/

theorem chainBefore_iff (x y : Nat × Session) : chainBefore x y = true ↔ chainPrecedes x y := by
  simp [chainBefore, chainPrecedes]

theorem chainPrecedes_irrefl (x : Nat × Session) : ¬ chainPrecedes x x := by
  unfold chainPrecedes; omega

theorem chainPrecedes_trans {x y z : Nat × Session} (h1 : chainPrecedes x y) (h2 : chainPrecedes y z) :
    chainPrecedes x z := by
  unfold chainPrecedes at *; omega

theorem chainPrecedes_of_ne {x y : Nat × Session} (h : x.1 ≠ y.1) : chainPrecedes x y ∨ chainPrecedes y x := by
  unfold chainPrecedes; omega

section Chain
variable {t : Tab Session} {i : Nat}

theorem mem_chainOf {e : Nat × Session} : e ∈ chainOf t i ↔ e ∈ t ∧ e.2.room = i := by
  simp [chainOf]

theorem pairwise_chainOf (hs : Tab.sorted t = true) : (chainOf t i).Pairwise chainPrecedes := by
  have hkeys := (Tab.sorted_iff _).1 (Tab.sorted_filter (fun e => decide (e.2.room = i)) hs)
  have hsort : (chainOf t i).Pairwise fun x y => chainBefore x y = true :=
    pairwise_sortBy
      (fun x y z hxy hyz => by simp only [chainBefore_iff] at *; exact chainPrecedes_trans hxy hyz)
      (hkeys.imp fun {x y} h => by simpa only [chainBefore_iff] using chainPrecedes_of_ne h.ne)
  exact hsort.imp fun {x y} h => (chainBefore_iff x y).1 h

/-- Sessions of a table of which one precedes the other have different ids. -/
theorem ne_of_chainPrecedes (hs : Tab.sorted t = true) {x y : Nat × Session} (hx : x ∈ t) (hy : y ∈ t)
    (h : chainPrecedes x y) : x.1 ≠ y.1 := by
  intro hk
  have hval : Tab.get t x.1 = some y.2 := by rw [hk]; exact Tab.get_of_mem hs hy
  have heq : x = y := Prod.ext hk (Option.some.inj ((Tab.get_of_mem hs hx).symm.trans hval))
  exact chainPrecedes_irrefl y (heq ▸ h)

end Chain

/-! ## The values a derivation gives -/

theorem running_iff {now : Nat} {e : Session} :
    running now e = true ↔ e.cancelled = false ∧ e.start ≤ now ∧ now < e.fin := by
  simp [running, and_assoc]

/-- The next session of a chain at `now`, or 0 (R57). -/
def nextOf (chain : List (Nat × Session)) (now : Nat) : Nat :=
  ((chain.find? fun e => !e.2.cancelled && decide (now < e.2.start)).map (·.1)).getD 0

/-- Whether a session of a chain that is not cancelled has its changeover at `now` (R56). -/
def turnsOver (chain : List (Nat × Session)) (now changeover : Nat) : Bool :=
  chain.any fun e => !e.2.cancelled && decide (e.2.fin ≤ now) && decide (now < e.2.fin + changeover)

section Derive
variable {chain : List (Nat × Session)} {now : Nat} (r : Room)

/-- A room in which sessions are in progress, the first of them in chain order named. -/
theorem deriveRoom_of_filter_cons {x : Nat × Session} {t : List (Nat × Session)}
    (h : (chain.filter fun e => running now e.2) = x :: t) :
    deriveRoom chain now r
      = { r with state := .inSession, current := x.1, next := nextOf chain now, overlap := !t.isEmpty } := by
  rw [deriveRoom, h]; rfl

/-- A room in which no session is in progress. -/
theorem deriveRoom_of_filter_nil (h : (chain.filter fun e => running now e.2) = []) :
    deriveRoom chain now r
      = { r with
          state := if turnsOver chain now r.changeover then .changeover else .opened
          current := 0, next := nextOf chain now, overlap := false } := by
  rw [deriveRoom, h]; rfl

theorem deriveRoom_frame :
    deriveRoom chain now r
      = { r with
          state := (deriveRoom chain now r).state, current := (deriveRoom chain now r).current
          next := (deriveRoom chain now r).next, overlap := (deriveRoom chain now r).overlap } := by
  cases h : chain.filter fun e => running now e.2 with
  | nil => rw [deriveRoom_of_filter_nil r h]
  | cons x t => rw [deriveRoom_of_filter_cons r h]

theorem deriveRoom_next : (deriveRoom chain now r).next = nextOf chain now := by
  cases h : chain.filter fun e => running now e.2 with
  | nil => rw [deriveRoom_of_filter_nil r h]
  | cons x t => rw [deriveRoom_of_filter_cons r h]

theorem deriveRoom_of_running {x : Nat × Session} (h : chain.find? (fun e => running now e.2) = some x) :
    (deriveRoom chain now r).state = .inSession ∧ (deriveRoom chain now r).current = x.1 := by
  rw [← List.head?_filter] at h
  obtain ⟨t, ht⟩ := List.head?_eq_some_iff.1 h
  rw [deriveRoom_of_filter_cons r ht]
  exact ⟨rfl, rfl⟩

theorem deriveRoom_of_not_running (h : ∀ e ∈ chain, ¬ running now e.2 = true) :
    (deriveRoom chain now r).state = (if turnsOver chain now r.changeover then .changeover else .opened)
      ∧ (deriveRoom chain now r).current = 0 := by
  rw [deriveRoom_of_filter_nil r (List.filter_eq_nil_iff.2 h)]
  exact ⟨rfl, rfl⟩

/-- The overlap flag says that two sessions are in progress: in an ordered chain, two with different ids. -/
theorem deriveRoom_overlap_iff (hne : chain.Pairwise fun x y => x.1 ≠ y.1) :
    (deriveRoom chain now r).overlap = true
      ↔ ∃ x ∈ chain, ∃ y ∈ chain, x.1 ≠ y.1 ∧ running now x.2 = true ∧ running now y.2 = true := by
  have hmem : ∀ e, e ∈ chain.filter (fun e => running now e.2) ↔ e ∈ chain ∧ running now e.2 = true := fun e =>
    List.mem_filter
  have hfil := hne.filter fun e => running now e.2
  generalize h : (chain.filter fun e => running now e.2) = l at hmem hfil
  match l with
  | [] =>
    rw [deriveRoom_of_filter_nil r h]
    refine iff_of_false Bool.false_ne_true ?_
    rintro ⟨x, hx, -, -, -, hrx, -⟩
    exact List.not_mem_nil ((hmem x).2 ⟨hx, hrx⟩)
  | [z] =>
    rw [deriveRoom_of_filter_cons r h]
    refine iff_of_false Bool.false_ne_true ?_
    rintro ⟨x, hx, y, hy, hxy, hrx, hry⟩
    have hxz := List.mem_singleton.1 ((hmem x).2 ⟨hx, hrx⟩)
    have hyz := List.mem_singleton.1 ((hmem y).2 ⟨hy, hry⟩)
    exact hxy (by rw [hxz, hyz])
  | x :: y :: t =>
    rw [deriveRoom_of_filter_cons r h]
    obtain ⟨hx, hrx⟩ := (hmem x).1 (by simp)
    obtain ⟨hy, hry⟩ := (hmem y).1 (by simp)
    have hxy : x.1 ≠ y.1 := List.rel_of_pairwise_cons hfil (List.mem_cons_self ..)
    exact iff_of_true rfl ⟨x, hx, y, hy, hxy, hrx, hry⟩

theorem nextOf_of_least {x : Nat × Session} (hc : chain.Pairwise chainPrecedes) (hx : x ∈ chain)
    (hcan : x.2.cancelled = false) (hlater : now < x.2.start)
    (least : ∀ y ∈ chain, y.2.cancelled = false → now < y.2.start → ¬ chainPrecedes y x) : nextOf chain now = x.1 := by
  rw [nextOf, find?_eq_some_of_least hc hx (by simp [hcan, hlater]) fun y hy hp => ?_]
  · rfl
  · simp only [Bool.and_eq_true, Bool.not_eq_true', decide_eq_true_eq] at hp
    exact least y hy hp.1 hp.2

theorem nextOf_of_forall_not (h : ∀ e ∈ chain, e.2.cancelled = false → ¬ now < e.2.start) : nextOf chain now = 0 := by
  rw [nextOf, List.find?_eq_none.2 fun e he => by simpa using h e he]
  rfl

theorem turnsOver_iff {changeover : Nat} :
    turnsOver chain now changeover = true
      ↔ ∃ e ∈ chain, e.2.cancelled = false ∧ e.2.fin ≤ now ∧ now < e.2.fin + changeover := by
  simp [turnsOver, and_assoc]

end Derive

/-- Settles O35: the first session in progress, the changeovers, the first session to come and the count of those in
progress, each read off the room's chain, which stands in chain order. -/
theorem derivedRoomFollowsItsChain : Obligations.DerivedRoomFollowsItsChain := by
  intro sessions i now r hs d ofRoom runs turning later
  have hc : (chainOf sessions i).Pairwise chainPrecedes := pairwise_chainOf hs
  have hof : ∀ k x, ofRoom k x ↔ (k, x) ∈ chainOf sessions i ∧ x.cancelled = false := fun k x =>
    and_assoc.symm.trans (and_congr_left' mem_chainOf.symm)
  have hruns : ∀ k x, runs k x ↔ (k, x) ∈ chainOf sessions i ∧ running now x = true := fun k x => by
    rw [running_iff, ← and_assoc, ← hof]
  have hturning : turnsOver (chainOf sessions i) now r.changeover = true ↔ turning := by
    simp only [turnsOver_iff, turning, hof, Prod.exists, and_assoc]
  have hidle : (∀ k x, ¬ runs k x) → ∀ e ∈ chainOf sessions i, ¬ running now e.2 = true := fun idle e he hr =>
    idle e.1 e.2 ((hruns _ _).2 ⟨he, hr⟩)
  have hnext : d.next = nextOf (chainOf sessions i) now := deriveRoom_next r
  refine ⟨fun e => mem_chainOf, hc, ?inSession, ?changeover, ?opened, ?next, ?noNext, ?overlap, deriveRoom_frame r⟩
  case inSession =>
    intro k x hx least
    obtain ⟨hmem, hrun⟩ := (hruns k x).1 hx
    exact deriveRoom_of_running r (find?_eq_some_of_least hc hmem hrun fun y hy hr =>
      least y.1 y.2 ((hruns _ _).2 ⟨hy, hr⟩))
  case changeover =>
    intro idle turns
    obtain ⟨hstate, hcurrent⟩ := deriveRoom_of_not_running r (hidle idle)
    exact ⟨hstate.trans (if_pos (hturning.2 turns)), hcurrent⟩
  case opened =>
    intro idle still
    obtain ⟨hstate, hcurrent⟩ := deriveRoom_of_not_running r (hidle idle)
    exact ⟨hstate.trans (if_neg (mt hturning.1 still)), hcurrent⟩
  case next =>
    rintro k x ⟨hx, hlater⟩ least
    obtain ⟨hmem, hcan⟩ := (hof k x).1 hx
    exact hnext.trans (nextOf_of_least hc hmem hcan hlater fun y hy hyc hyl =>
      least y.1 y.2 ⟨(hof _ _).2 ⟨hy, hyc⟩, hyl⟩)
  case noNext =>
    intro last
    exact hnext.trans (nextOf_of_forall_not fun e he hcan hlater => last e.1 e.2 ⟨(hof _ _).2 ⟨he, hcan⟩, hlater⟩)
  case overlap =>
    have hne : (chainOf sessions i).Pairwise fun x y => x.1 ≠ y.1 := hc.imp_of_mem fun hx hy h =>
      ne_of_chainPrecedes hs (mem_chainOf.1 hx).1 (mem_chainOf.1 hy).1 h
    refine (deriveRoom_overlap_iff r hne).trans ⟨?_, ?_⟩
    · rintro ⟨x, hx, y, hy, hxy, hrx, hry⟩
      exact ⟨x.1, x.2, y.1, y.2, hxy, (hruns _ _).2 ⟨hx, hrx⟩, (hruns _ _).2 ⟨hy, hry⟩⟩
    · rintro ⟨j, y, k, x, hjk, hy, hx⟩
      obtain ⟨hym, hyr⟩ := (hruns j y).1 hy
      obtain ⟨hxm, hxr⟩ := (hruns k x).1 hx
      exact ⟨(j, y), hym, (k, x), hxm, hjk, hyr, hxr⟩

end Sys2Proof.Machine
end

section
/-! DROP SIGN (R140): the outcomes of the simulation in R140's order, and the working copy that an entry which passes leaves. -/

namespace Sys2Proof.Machine

theorem Tab.not_has_iff {α : Type} (t : Tab α) (k : Nat) : (!Tab.has t k) = true ↔ Tab.get t k = none := by
  simp [Tab.has]

/-! ## The effect -/

/-- The working copy with a sign slot emptied: the batch has named and dropped the slot (R140). -/
def Work.dropSign (w : Work) (slot : Nat) : Work :=
  { w with signs := Tab.del w.signs slot, named := insertIndex slot w.named, dropped := insertIndex slot w.dropped }

/-- Nothing else of the working copy changes. -/
theorem Work.dropSign_frame (w : Work) (slot : Nat) :
    w.dropSign slot = { w with signs := (w.dropSign slot).signs, named := (w.dropSign slot).named,
                               dropped := (w.dropSign slot).dropped } := rfl

theorem Work.get_signs_dropSign (w : Work) (slot i : Nat) :
    Tab.get (w.dropSign slot).signs i = if i = slot then none else Tab.get w.signs i :=
  Tab.get_del w.signs slot i

theorem Work.mem_named_dropSign (w : Work) (slot i : Nat) : i ∈ (w.dropSign slot).named ↔ i = slot ∨ i ∈ w.named :=
  mem_insertIndex slot i w.named

theorem Work.mem_dropped_dropSign (w : Work) (slot i : Nat) :
    i ∈ (w.dropSign slot).dropped ↔ i = slot ∨ i ∈ w.dropped :=
  mem_insertIndex slot i w.dropped

/-! ## The tests, in R140's order -/

section Order
variable {slot : Nat} {w : Work}

theorem simDropSign_range (h : 511 < slot) : simDropSign slot w = .refused .range 0 := if_pos h

theorem simDropSign_unknownSign (h : slot ≤ 511) (he : Tab.get w.signs slot = none) :
    simDropSign slot w = .refused .unknownSign 0 := by
  rw [simDropSign, if_neg (not_lt.2 h), if_pos ((Tab.not_has_iff _ _).2 he)]

theorem simDropSign_defined (h : slot ≤ 511) (hd : Tab.get w.signs slot ≠ none) :
    simDropSign slot w = .passed (w.dropSign slot) := by
  rw [simDropSign, if_neg (not_lt.2 h), if_neg (mt (Tab.not_has_iff _ _).1 hd), Work.dropSign]

end Order

/-! ## The command -/

/-- DROP SIGN takes the entry the check has come to. -/
theorem exec_dropSign {c : Check} {off slot : Nat} {s : State} (ha : s.active = true)
    (hn : s.nextEntry = some (c, off, .dropSign slot)) :
    exec .dropSign s = .next (s.simulated c off (simDropSign slot c.work)) := by
  show Host.Outcome.next (s.working _) = _
  rw [State.working_active ha, hn]

/-- Settles O29: R140's tests decide which of the simulation's outcomes is taken; past them the slot is emptied, named and
dropped. -/
theorem dropSignEmptiesTheSlot : Obligations.DropSignEmptiesTheSlot := by
  intro c off slot s ha hn w
  have hexec := exec_dropSign ha hn
  refine ⟨fun h => ?range, fun h he => ?unknownSign, fun h hd => ?passes⟩
  case range => rw [hexec, simDropSign_range h, State.simulated_refused]
  case unknownSign => rw [hexec, simDropSign_unknownSign h he, State.simulated_refused]
  case passes =>
    have hpass : exec .dropSign s = .next (s.passes c (w.dropSign slot)) := by
      rw [hexec, simDropSign_defined h hd, State.simulated_passed]
    exact ⟨w.dropSign slot, hpass, w.dropSign_frame slot, w.get_signs_dropSign slot, w.mem_named_dropSign slot,
      w.mem_dropped_dropSign slot⟩

end Sys2Proof.Machine
end

section
/-! What a command can do, said once (95_what_each_step_holds.md): each command is a chain of acts, and an act changes the blocks
of its group in one of the ways listed here. The invariants are then facts about single acts. -/

namespace Sys2Proof.Machine

/-! ## The path unit, memory and the post unit's own values -/

/-- A word that no copy the part keeps is taken from: no entry word of a lane and no word of the text pool (R24, R66). -/
def State.outside (s : State) (a : Nat) : Prop :=
  a % 2 = 0 ∧ (∀ (n : Fin 4) (k : Nat), k < 127 → a ≠ s.regionAddress (laneOffset n k))
    ∧ ∀ l i : Nat, l < 1536 → i < 16 → a ≠ s.regionAddress (poolOffset l + 2 * i)

/-- The path unit's counters, its hold and the host's data change; its queues and the region base stay. -/
def PathUnit.turns (p q : PathUnit) : Prop :=
  q.base = p.base ∧ q.postQueue = p.postQueue ∧ q.fillQueue = p.fillQueue ∧ (p.insist ≤ 255 → q.insist ≤ 255)

/-- Acts on memory, the path unit, the flags, the guarded address and the call ring. -/
inductive PathAct (s : State) : State → Prop where
  | turns (p : PathUnit) (h : s.path.turns p) : PathAct s { s with path := p }
  | free (i : Nat) : PathAct s { s with freeIndex := i }
  | drains (e : PostEntry) (q : List PostEntry) (h : s.path.postQueue = e :: q) :
    PathAct s { s with mem := writeWord s.mem (s.regionAddress e.offset) e.value, path := { s.path with postQueue := q } }
  | cuts (e : PostEntry) (h : e ∈ s.path.postQueue) (i : Nat) (hi : i ≤ 1) (v : Byte) :
    PathAct s { s with mem := writeByte s.mem (s.regionAddress e.offset + i) v }
  | forwards (a : Nat) (d : Drive) (h : s.outside a) : PathAct s (s.forward a d)
  | passes (a : Nat) (d : Drive) (hp : s.pins.pgood = true) (ha : s.active = false) : PathAct s (s.forward a d)
  | unqueues (o : Nat) : PathAct s (s.unqueue o)
  | flags (f : BitVec 13) : PathAct s { s with post := { s.post with flags := f } }
  | guards (a : Nat) (b : Bool) : PathAct s { s with post := { s.post with guardAddress := a, guardByte := b } }
  | counts (i c : Nat) (h1 : 1 ≤ c) (h2 : c ≤ 255) : PathAct s { s with post := { s.post with
      ring := s.post.ring.map fun (x : RingEntry) => if x.sign = i then { x with count := c } else x } }
  | rings (e : RingEntry) (hp : e.place = s.post.ringWrite.toNat % Config.ringSize) (hc : e.count = 1)
      (hn : ∀ x ∈ s.post.ring, x.sign ≠ e.sign) (hl : s.post.ring.length < Config.ringSize) :
    PathAct s { s with post := { s.post with ring := s.post.ring ++ [e], ringWrite := s.post.ringWrite + 1 } }
  | consumes (v : Byte) (h : readCountTaken s.post v = true) : PathAct s { s with post := { s.post with
      ringRead := v, ring := s.post.ring.drop (ringDistance s.post.ringRead v) } }

/-! ## Signs, face queues, engines and ports -/

/-- An engine's new work fits the signs: none, the work it had, or new work, no FACE, for a sign of its line. -/
def State.fitsWork (s : State) (n : Fin 4) (e : Engine) : Prop :=
  e.servesSlot = none
    ∨ (e.servesSlot = (s.engine n).servesSlot ∧ e.sendsFace = (s.engine n).sendsFace)
    ∨ (e.sendsFace = false ∧ ∃ i, e.servesSlot = some i
      ∧ ((∃ g, (i, g) ∈ s.signs ∧ g.defn.line = n) ∨ ∃ r, i ∈ (s.lists.get n).get r))

/-- The state with another dirty set. -/
def State.setDirty (s : State) (d : List Nat) : State := { s with comp := { s.comp with dirty := d } }

/-- Acts on the dirty set, the signs, the face queues, the engines and the ports. -/
inductive SignAct (s : State) : State → Prop where
  | dirty (d : List Nat) (h : sortedIndices s.comp.dirty = true → sortedIndices d = true) :
    SignAct s (s.setDirty d)
  | arbiter (i : Nat) (n : Fin 4) : SignAct s { s with comp := { s.comp with servicePos := i, lastServed := n } }
  | ports (q : Quad Port) : SignAct s { s with ports := q }
  | engine (n : Fin 4) (e : Engine) (ho : Tab.sorted (s.engine n).owed = true → Tab.sorted e.owed = true)
      (hw : s.fitsWork n e) : SignAct s (s.setEngine n e)
  | sign (i : Nat) (g g' : Sign) (hg : s.sign i = some g) (hd : g'.defn = g.defn) (hs : g'.state = g.state)
      (hf : g'.deferred = g.deferred) (hc : g'.credits ≤ g.credits) : SignAct s (s.setSign i g')
  | accepted (n : Fin 4) (i : Nat) (g g' : Sign) (e : Engine) (hg : s.sign i = some g)
      (hw : (s.engine n).servesSlot = some i) (hx : (s.engine n).sendsFace = true) (hd : g'.defn = g.defn)
      (hs : g'.state = .refreshing) (hf : g'.deferred = g.deferred) (hc : g'.credits ≤ g.credits)
      (he : e.servesSlot = none) (ho : Tab.sorted (s.engine n).owed = true → Tab.sorted e.owed = true) :
    SignAct s ((s.setSign i g').setEngine n e)
  | returned (n : Fin 4) (i : Nat) (g g' : Sign) (r : Rank) (e : Engine) (hg : s.sign i = some g)
      (hw : (s.engine n).servesSlot = some i) (hx : (s.engine n).sendsFace = true) (hd : g'.defn = g.defn)
      (hs : g'.state = .pending ∨ g'.state = .refreshing) (hf : g'.deferred = g.deferred) (hc : g'.credits = g.credits)
      (he : e.servesSlot = none) (ho : Tab.sorted (s.engine n).owed = true → Tab.sorted e.owed = true) :
    SignAct s (((s.setSign i g').returnToHead g.defn.line i r).setEngine n e)
  | lost (n : Fin 4) (i : Nat) (g : Sign) (e : Engine) (hg : s.sign i = some g)
      (hw : (s.engine n).servesSlot = some i)
      (he : e.servesSlot = none) (ho : Tab.sorted (s.engine n).owed = true → Tab.sorted e.owed = true) :
    SignAct s (((s.setSign i (lostSign g)).leaveLists g.defn.line i).setEngine n e)
  | back (i : Nat) (g : Sign) (hg : (i, g) ∈ s.signs) (hl : g.state = .lost) :
    SignAct s (s.setSign i (backSign s.setup.styles g))
  | refreshed (i : Nat) (g : Sign) (hg : s.sign i = some g) :
    SignAct s (s.setSign i { g with timer := none, state := s.afterRefresh i g })
  | ends (c : Composition) (h : s.comp.composition = some c) : SignAct s (s.endComposition c)
  | orphans (c : Composition) (h : s.comp.composition = some c) :
    SignAct s (s.setComposition (some { c with orphan := true }))
  | begins (i : Nat) (g : Sign) (n : Option (Fin 4)) (hg : s.sign i = some g) (hs : n = none → g.state ≠ .sending) :
    SignAct s (s.setComposition (some
      { slot := i, engine := n, orphan := false, face := composeFace s.selection g.defn
        wanted := textLinesOf (composeFace s.selection g.defn), taken := [] }))

/-! ## The text cache -/

/-- The lines a composition takes, those it still wants, and the cache and the fill queue it leaves, as `advance` gives them
(R70, R71, R73). -/
def State.coursed (s : State) (c : Composition) : State :=
  let r := takeLines c.wanted s.cache c.taken
  let f := issueFills r.1 (yieldPlace r.1 r.2.1) s.path.fillQueue
  { s with cache := f.1, path := { s.path with fillQueue := f.2 } }.setComposition
    (some { c with wanted := r.1, taken := r.2.2 })

/-- The fill at the head of the fill queue with one more word read from memory (R72). -/
def State.wordRead (s : State) (l : Nat) (f : Fill) : Word :=
  readWord s.mem (s.regionAddress (poolOffset l + 2 * f.data.length))

/-- Acts on the text cache and the fill queue. -/
inductive CacheAct (s : State) : State → Prop where
  | courses (c : Composition) (h : s.comp.composition = some c) : CacheAct s (s.coursed c)
  | touches (ls : List Nat) : CacheAct s { s with cache := s.cache.touchList ls }
  | empties : CacheAct s { s with cache := { s.cache with lines := [] } }
  | skips (l : Nat) (q : List Nat) (hq : s.path.fillQueue = l :: q) (hf : s.cache.fill l = none) :
    CacheAct s { s with path := { s.path with fillQueue := s.path.fillQueue.filter (· ≠ l) } }
  | reads (l : Nat) (q : List Nat) (f : Fill) (hq : s.path.fillQueue = l :: q) (hf : s.cache.fill l = some f)
      (hl : f.data.length < 15) : CacheAct s { s with cache := s.cache.readWord l (s.wordRead l f) }
  | arrives (l : Nat) (q : List Nat) (f : Fill) (hq : s.path.fillQueue = l :: q) (hf : s.cache.fill l = some f)
      (hl : ¬ f.data.length < 15) :
    CacheAct s (State.arrive { s with cache := s.cache.readWord l (s.wordRead l f) }
      { f with data := f.data ++ [s.wordRead l f] })
  | snoops (l w : Nat) (d : Drive) (hl : l < 1536) (hw : w < 16) :
    CacheAct s (State.spoil
      { s.forwardAt (poolOffset l + 2 * w) d with cache := (s.forwardAt (poolOffset l + 2 * w) d).cache.without l } l)

/-! ## Lanes and batches -/

/-- Acts on the lanes, and on memory where a lane captures. -/
inductive LaneAct (s : State) : State → Prop where
  | captures (n : Fin 4) (k : Nat) (v : Word) (hk : k < 127) (ho : (s.laneAt n).state = .opened) :
    LaneAct s ((s.forward (s.regionAddress (laneOffset n k)) (.both v)).setLane n (captureWord (s.laneAt n) k v))
  | capturesByte (n : Fin 4) (k i : Nat) (d : Drive) (hk : k < 127) (ho : (s.laneAt n).state = .opened) :
    LaneAct s ((s.forward (s.regionAddress (laneOffset n k)) d).setLane n (captureByte (s.laneAt n) k i d))
  | clears (n : Fin 4) (ho : (s.laneAt n).state = .opened) : LaneAct s (s.setLane n (clearedLane (s.laneAt n)))
  | holds (n : Fin 4) (r : Option LaneResult) : LaneAct s (s.setLane n { s.laneAt n with heldResult := r })
  | accepts (n : Fin 4) (q : Byte) (e : Nat) (ho : (s.laneAt n).state = .opened)
      (hj : judgePost (s.laneAt n) q e = .accepted) :
    LaneAct s { s with lane := { s.lane with
      lanes := s.lane.lanes.set n (acceptedLane (s.laneAt n) q e), commit := s.lane.commit ++ [n] } }
  | promotes (n : Fin 4) (rest : List (Fin 4)) (hc : s.lane.commit = n :: rest) (hr : s.setup.phase = .running)
      (hq : (s.laneAt n).state = .queued) : LaneAct s (s.setLane n { s.laneAt n with state := .applying })
  | begins (es : List (Nat × Entry)) (n : Fin 4) (hb : s.lane.batch = .none) (hn : (s.laneAt n).state = .applying)
      (hw : ∀ e ∈ es, entryWf e.2 = true) : LaneAct s (s.beginCheck es)
  | simulates (c : Check) (off : Nat) (e : Entry) (h : s.nextEntry = some (c, off, e)) :
    LaneAct s (s.simulated c off (simulate s.setup.retain off e c.work))
  | results : LaneAct s (s.setBatch .resulting)
  | passes (c : Check) (hb : s.lane.batch = .checking c) (he : endOfCheck s.setup.matrix c = .passes) :
    LaneAct s (s.setBatch (.applyRequested c))
  | releases (n : Fin 4) : LaneAct s { s with lane :=
      { lanes := s.lane.lanes.set n { s.laneAt n with state := .opened, shadow := [], accepted := none }
        commit := s.lane.commit.filter (· ≠ n), batch := .none } }

/-! ## Setup, the clock and the store -/

/-- Setup values taken: each stays in its range, and the KIND words, the matrix and the phase stay. -/
def SetupLogic.takes (u v : SetupLogic) : Prop :=
  v.kinds = u.kinds ∧ v.matrix = u.matrix ∧ v.phase = u.phase ∧ (u.inRange = true → v.inRange = true)

/-- The record that heads the waiting records enters the queue, with what it raises: what comes of the start-up fill's record
before the fill goes on (R169, R193). -/
def State.fillEntered (s : State) (it : Item) (rest : List Item) : State :=
  (((s.setWaiting rest).readyForLast .fill).enqueue it.record).handRaise it.raises

/-- Acts on setup, the clock and the store. -/
inductive SetupAct (s : State) : State → Prop where
  | values (u : SetupLogic) (h : s.setup.takes u) : SetupAct s { s with setup := u }
  | matrix (v : Word) (h : s.reloading = true) :
    SetupAct s { s with setup := { s.setup with matrix := matrixOf v, pendingMatrix := false } }
  | kind (k : SignKind) (p : KindParams) (h : p.inRange = true) : SetupAct s { s with
      setup := { s.setup with kinds := s.setup.kinds.set k p }, signs := capCredits k p.cap s.signs }
  | reloads (k : Nat) (h : s.reloading = true) : SetupAct s { s with setup := { s.setup with phase := .reload k } }
  | fills (h : s.reloading = true) : SetupAct s (s.handFill 0)
  | fillNext (k : Nat) (it : Item) (rest : List Item) (hw : s.post.waiting = it :: rest) (hp : it.producer = .fill)
      (hk : s.setup.phase = .fill k) (hs : s.hasPlaces (recordSize it.record) = true) :
    SetupAct s ((s.fillEntered it rest).handFill (k + 1))
  | fillLast (k : Nat) (it : Item) (rest : List Item) (hw : s.post.waiting = it :: rest) (hp : it.producer = .fill)
      (hk : s.setup.phase = .fill k) (hs : s.hasPlaces (recordSize it.record) = true) :
    SetupAct s { s.fillEntered it rest with setup := { (s.fillEntered it rest).setup with phase := .running } }
  | clock (c : ClockUnit) : SetupAct s { s with clock := c }
  | refills (c : ClockUnit) : SetupAct s { s with
      clock := c, signs := s.signs.map fun (e : Nat × Sign) => (e.1, refillSign s.setup s.clock.now e.2) }
  | minute (c : ClockUnit) (d : List Nat) (h : sortedIndices s.comp.dirty = true → sortedIndices d = true) :
    SetupAct s (State.startOver { s with
      clock := c
      store :=
        { sessions := retired s.setup.retain s.clock.now s.store.sessions
          rooms := deriveAll (retired s.setup.retain s.clock.now s.store.sessions) s.clock.now s.store.rooms }
      comp := { s.comp with dirty := d } })
  | applies (c : Check) (h : s.lane.batch = .applyRequested c) : SetupAct s ((s.applied c.work).setBatch .resulting)

/-! ## Power, the reset pin and restart -/

/-- Acts that start the part or hold it. -/
inductive StartAct (s : State) : State → Prop where
  | blocks (p : Pins) : StartAct s { s.blocksReset with pins := p }
  | pins (p : Pins) (h : p.pgood = false ∨ (p.pgood = s.pins.pgood ∧ p.powerOnEnded = s.pins.powerOnEnded
      ∧ p.resetLow = s.pins.resetLow)) : StartAct s { s with pins := p }
  | straps (p : Pins) (b : Fin 16) (hg : s.pins.pgood = true) (ha : s.active = false) (hp : p.pgood = true)
      (hh : p.powerOnEnded = false ∨ p.resetLow = true) :
    StartAct s { s with pins := p, path := { s.path with base := b } }
  | starts (p : Pins) (b : Fin 16) (m : Bool) : StartAct s (State.start { s with pins := p } b m)
  | restarts : StartAct s s.restart

/-! ## Records handed -/

/-- Records and raises are handed, and may enter the post queue: nothing else changes, the queue keeps its bound, and, where
`P` holds, what is queued and on its way keeps its form (R169). -/
structure Hands (P : Prop) (s t : State) : Prop where
  frame : t = { s with
    path := { s.path with postQueue := t.path.postQueue }
    post := { s.post with stamps := t.post.stamps, waiting := t.post.waiting, backlog := t.post.backlog } }
  fits : s.postQueueFits = true → t.postQueueFits = true
  posts : P → s.postsOk = true → t.postsOk = true

/-- One act of a part. `P` says whether what is handed is claimed to keep its form, and the lanes and the cache to change only
while the part is active. -/
inductive Act (P : Prop) (s : State) : State → Prop where
  | path {t : State} (h : PathAct s t) : Act P s t
  | sign {t : State} (h : SignAct s t) : Act P s t
  | cache {t : State} (h : CacheAct s t) (ha : P → s.active = true) : Act P s t
  | lane {t : State} (h : LaneAct s t) (ha : P → s.active = true) : Act P s t
  | setup {t : State} (h : SetupAct s t) : Act P s t
  | start {t : State} (h : StartAct s t) (ha : P → t.active = s.active) : Act P s t
  | hands {t : State} (h : Hands P s t) : Act P s t

/-- A chain of acts. -/
abbrev Acts (P : Prop) : State → State → Prop := Relation.ReflTransGen (Act P)

end Sys2Proof.Machine
end

section
/-! The store's tables (R1, R3, R5): what an entry, a retire and a derivation leave of them. -/

namespace Sys2Proof.Machine

/-! ## Tables of records -/

theorem Tab.has_iff {α : Type} {t : Tab α} {k : Nat} : Tab.has t k = true ↔ ∃ v, Tab.get t k = some v := by
  simp [Tab.has, Option.isSome_iff_exists]

theorem Tab.has_map {α β : Type} (f : Nat × α → β) (t : Tab α) (k : Nat) :
    Tab.has (t.map fun e => (e.1, f e)) k = Tab.has t k := by
  simp [Tab.has, Tab.get_map fun i v => f (i, v)]

/-- The removal of a key leaves of a table a part of it. -/
theorem Tab.del_sublist {α : Type} (t : Tab α) (k : Nat) : (Tab.del t k).Sublist t := List.filter_sublist

section Sessions
variable {rooms rooms' : Tab Room} {t : Tab Session}

theorem sessionsOk_iff : sessionsOk rooms t = true
    ↔ Tab.sorted t = true ∧ t.length ≤ Config.maxSessions ∧ ∀ e ∈ t, sessionOk rooms e = true := by
  simp [sessionsOk, and_assoc]

/-- A record stays one the store may hold while the defined rooms stay defined. -/
theorem sessionOk_mono (h : ∀ i, Tab.has rooms i = true → Tab.has rooms' i = true) {e : Nat × Session}
    (he : sessionOk rooms e = true) : sessionOk rooms' e = true := by
  simp only [sessionOk, Bool.and_eq_true, decide_eq_true_eq] at he ⊢
  obtain ⟨⟨⟨rest, hroom⟩, hmoved⟩, hne⟩ := he
  refine ⟨⟨⟨rest, h _ hroom⟩, ?_⟩, hne⟩
  cases hm : e.2.movedFrom with
  | none => rfl
  | some i => rw [hm] at hmoved; exact h i hmoved

theorem sessionsOk_mono (h : ∀ i, Tab.has rooms i = true → Tab.has rooms' i = true)
    (ht : sessionsOk rooms t = true) : sessionsOk rooms' t = true := by
  rw [sessionsOk_iff] at ht ⊢
  obtain ⟨hs, hl, ha⟩ := ht
  exact ⟨hs, hl, fun e he => sessionOk_mono h (ha e he)⟩

/-- Records leave the table: by a retire, by a DROP SESSION. -/
theorem sessionsOk_filter (p : Nat × Session → Bool) (ht : sessionsOk rooms t = true) :
    sessionsOk rooms (t.filter p) = true := by
  rw [sessionsOk_iff] at ht ⊢
  obtain ⟨hs, hl, ha⟩ := ht
  exact ⟨Tab.sorted_filter p hs, (List.length_filter_le _ _).trans hl, fun e he => ha e (List.mem_filter.1 he).1⟩

/-- A record is put: in a place that is taken already, or in a table with a free place. -/
theorem sessionsOk_set {id : Nat} {x : Session} (hx : sessionOk rooms (id, x) = true)
    (hroom : Tab.has t id = true ∨ t.length < Config.maxSessions) (ht : sessionsOk rooms t = true) :
    sessionsOk rooms (Tab.set t id x) = true := by
  rw [sessionsOk_iff] at ht ⊢
  obtain ⟨hs, hl, ha⟩ := ht
  refine ⟨Tab.sorted_set id x hs, ?_, fun e he => ?_⟩
  · rcases hroom with h | h
    · obtain ⟨w, hw⟩ := Tab.has_iff.1 h
      rw [Tab.length_set_of_has x hs hw]; exact hl
    · exact (Tab.length_set_le t id x).trans h
  · rcases Tab.mem_set he with rfl | he
    · exact hx
    · exact ha e he

end Sessions

section Rooms
variable {t : Tab Room}

theorem roomsOk_iff : roomsOk t = true ↔ Tab.sorted t = true ∧ ∀ e ∈ t, roomOk e = true := by simp [roomsOk]

theorem roomsOk_set {i : Nat} {r : Room} (hr : roomOk (i, r) = true) (ht : roomsOk t = true) :
    roomsOk (Tab.set t i r) = true := by
  rw [roomsOk_iff] at ht ⊢
  refine ⟨Tab.sorted_set i r ht.1, fun e he => ?_⟩
  rcases Tab.mem_set he with rfl | he
  · exact hr
  · exact ht.2 e he

/-- A derivation changes no room's definition. -/
theorem roomsOk_map (f : Nat × Room → Room)
    (hf : ∀ e, (f e).name = e.2.name ∧ (f e).zone = e.2.zone ∧ (f e).changeover = e.2.changeover)
    (ht : roomsOk t = true) : roomsOk (t.map fun e => (e.1, f e)) = true := by
  rw [roomsOk_iff] at ht ⊢
  refine ⟨Tab.sorted_map f ht.1, fun e he => ?_⟩
  obtain ⟨x, hx, rfl⟩ := List.mem_map.1 he
  obtain ⟨hn, hz, hc⟩ := hf x
  have := ht.2 x hx
  simpa [roomOk, hn, hz, hc] using this

end Rooms

/-! ## Derivations -/

/-- A derivation keeps a room's definition: its name, zone, policy and changeover (R56, R57). -/
theorem deriveRoom_definition (chain : List (Nat × Session)) (now : Nat) (r : Room) :
    (deriveRoom chain now r).name = r.name ∧ (deriveRoom chain now r).zone = r.zone
      ∧ (deriveRoom chain now r).changeover = r.changeover ∧ (deriveRoom chain now r).policy = r.policy := by
  rw [deriveRoom_frame r]; exact ⟨rfl, rfl, rfl, rfl⟩

/-- The room a derivation of every room in use leaves in a place. -/
def derivedAt (t : Tab Session) (now : Nat) (e : Nat × Room) : Room :=
  if roomFixed e.2.state then e.2 else deriveRoom (chainOf t e.1) now e.2

theorem deriveAll_eq (t : Tab Session) (now : Nat) (rooms : Tab Room) :
    deriveAll t now rooms = rooms.map fun e => (e.1, derivedAt t now e) := rfl

theorem derivedAt_definition (t : Tab Session) (now : Nat) (e : Nat × Room) :
    (derivedAt t now e).name = e.2.name ∧ (derivedAt t now e).zone = e.2.zone
      ∧ (derivedAt t now e).changeover = e.2.changeover ∧ (derivedAt t now e).policy = e.2.policy := by
  unfold derivedAt
  split
  · exact ⟨rfl, rfl, rfl, rfl⟩
  · exact deriveRoom_definition _ _ _

/-- The room an apply step leaves in a place. -/
def appliedAt (t : Tab Session) (now : Nat) (clockSet : Bool) (touched : Tab Nat) (e : Nat × Room) : Room :=
  if roomFixed e.2.state then (if Tab.has touched e.1 then fixedRoom e.2 else e.2)
  else if clockSet || Tab.has touched e.1 then deriveRoom (chainOf t e.1) now e.2
  else e.2

theorem deriveAfterApply_eq (t : Tab Session) (now : Nat) (clockSet : Bool) (touched : Tab Nat) (rooms : Tab Room) :
    deriveAfterApply t now clockSet touched rooms = rooms.map fun e => (e.1, appliedAt t now clockSet touched e) := rfl

theorem appliedAt_definition (t : Tab Session) (now : Nat) (clockSet : Bool) (touched : Tab Nat) (e : Nat × Room) :
    (appliedAt t now clockSet touched e).name = e.2.name ∧ (appliedAt t now clockSet touched e).zone = e.2.zone
      ∧ (appliedAt t now clockSet touched e).changeover = e.2.changeover
      ∧ (appliedAt t now clockSet touched e).policy = e.2.policy := by
  unfold appliedAt
  split
  · split <;> exact ⟨rfl, rfl, rfl, rfl⟩
  · split
    · exact deriveRoom_definition _ _ _
    · exact ⟨rfl, rfl, rfl, rfl⟩

/-! ## The entry kinds -/

/-- A working copy whose session and room tables the store may take. -/
def Work.storeOk (w : Work) : Prop := sessionsOk w.rooms w.sessions = true ∧ roomsOk w.rooms = true

theorem Check.storeOk_iff (c : Check) :
    c.storeOk = true ↔ c.work.storeOk ∧ ∀ e ∈ c.entries, entryWf e.2 = true := by
  simp [Check.storeOk, Work.storeOk, and_assoc]

theorem State.storeOk_iff (s : State) : s.storeOk = true
    ↔ sessionsOk s.store.rooms s.store.sessions = true ∧ roomsOk s.store.rooms = true
      ∧ ∀ c, s.lane.batch.check = some c → c.storeOk = true := by
  simp [State.storeOk, Option.all_eq_true, and_assoc]

section Kinds
variable {w w' : Work} {off : Nat}

theorem sessionOk_of_get {rooms : Tab Room} {t : Tab Session} (ht : sessionsOk rooms t = true) {id : Nat} {e : Session}
    (he : Tab.get t id = some e) : sessionOk rooms (id, e) = true :=
  (sessionsOk_iff.1 ht).2.2 _ (Tab.mem_of_get he)

theorem simPutSession_storeOk {retain cls id room start fin : Nat} {title presenter : Handle} (hw : w.storeOk)
    (he : entryWf (.putSession cls id room start fin title presenter) = true)
    (h : simPutSession retain off cls id room start fin title presenter w = .passed w') : w'.storeOk := by
  unfold simPutSession at h
  split at h
  · cases h
  split at h
  · cases h
  rename_i hrange
  split at h
  · cases h
  rename_i hroom
  dsimp only at h
  split at h
  · cases h
  rename_i hfull
  split at h
  · cases h
  cases h
  refine ⟨sessionsOk_set ?_ ?_ hw.1, hw.2⟩
  · simp only [Bool.or_eq_true, not_or, Bool.not_eq_true, decide_eq_true_eq, Bool.not_eq_false']
      at hrange
    simp only [entryWf, Bool.and_eq_true, decide_eq_true_eq] at he
    obtain ⟨⟨⟨⟨hid, hfin⟩, htitle⟩, hpres⟩, _⟩ := hrange
    simp only [sessionOk, Bool.and_eq_true, decide_eq_true_eq]
    refine ⟨⟨⟨⟨⟨⟨⟨⟨?_, ?_⟩, ?_⟩, ?_⟩, ?_⟩, ?_⟩, ?_⟩, rfl⟩, by simp⟩
    · show 1 ≤ id; omega
    · show id ≤ 65535; omega
    · show start < fin; omega
    · show fin ≤ 65535; omega
    · simpa using htitle
    · simpa using hpres
    · show Tab.has w.rooms room = true; simpa using hroom
  · by_cases hn : Tab.has w.sessions id = true
    · exact .inl hn
    · refine .inr ?_
      have hnone : Tab.get w.sessions id = none := (Tab.not_has_iff _ _).1 (by simpa using hn)
      simpa [hnone] using hfull

theorem simDropSession_storeOk {id : Nat} (hw : w.storeOk) (h : simDropSession off id w = .passed w') : w'.storeOk := by
  unfold simDropSession at h
  split at h
  · cases h
  split at h
  · cases h
  cases h
  exact ⟨sessionsOk_filter _ hw.1, hw.2⟩

theorem simCancelSession_storeOk {id : Nat} (hw : w.storeOk) (h : simCancelSession off id w = .passed w') :
    w'.storeOk := by
  unfold simCancelSession at h
  split at h
  · cases h
  rename_i e he
  split at h
  · cases h
  split at h
  · cases h; exact hw
  cases h
  exact ⟨sessionsOk_set (sessionOk_of_get (e := e) hw.1 he :) (.inl (Tab.has_iff.2 ⟨e, he⟩)) hw.1, hw.2⟩

theorem simMoveSession_storeOk {id room : Nat} (hw : w.storeOk) (h : simMoveSession off id room w = .passed w') :
    w'.storeOk := by
  unfold simMoveSession at h
  split at h
  · cases h
  rename_i e he
  split at h
  · cases h
  rename_i hne
  split at h
  · cases h
  rename_i hroom
  split at h
  · cases h
  cases h
  refine ⟨sessionsOk_set ?_ (.inl (Tab.has_iff.2 ⟨e, he⟩)) hw.1, hw.2⟩
  have hok := sessionOk_of_get hw.1 he
  simp only [sessionOk, Bool.and_eq_true, decide_eq_true_eq] at hok ⊢
  obtain ⟨⟨⟨rest, hhas⟩, -⟩, -⟩ := hok
  have hroom' : Tab.has w.rooms room = true := by simpa using hroom
  refine ⟨⟨⟨rest, hroom'⟩, ?_⟩, ?_⟩
  · split
    · rfl
    · exact hhas
  · split
    · simp
    · simpa using Ne.symm hne

/-- A run of updates with records the table may hold, in places that are taken, keeps the table one the store may hold. -/
theorem sessionsOk_foldl_set {rooms : Tab Room} (f : Nat × Session → Session) (l : Tab Session) :
    ∀ t : Tab Session, (∀ x ∈ l, sessionOk rooms (x.1, f x) = true ∧ Tab.has t x.1 = true) → sessionsOk rooms t = true →
      sessionsOk rooms (l.foldl (fun t x => Tab.set t x.1 (f x)) t) = true := by
  induction l with
  | nil => intro t _ ht; exact ht
  | cons x l ih =>
    intro t h ht
    obtain ⟨hx, hl⟩ := List.forall_mem_cons.1 h
    refine ih _ (fun y hy => ⟨(hl y hy).1, ?_⟩) (sessionsOk_set hx.1 (.inl hx.2) ht)
    rw [Tab.has_set, (hl y hy).2, Bool.or_true]

theorem simShiftSession_storeOk {cascade : Bool} {id : Nat} {delta : Int} (hw : w.storeOk)
    (h : simShiftSession off cascade id delta w = .passed w') : w'.storeOk := by
  unfold simShiftSession at h
  split at h
  · cases h
  split at h
  · cases h
  rename_i e he
  dsimp only at h
  split at h
  · cases h
  rename_i hfar
  split at h
  · cases h
  cases h
  refine ⟨sessionsOk_foldl_set (fun x => x.2.shift delta) _ _ (fun x hx => ?_) hw.1, hw.2⟩
  have hget := ((mem_shiftedSet (sessionsOk_iff.1 hw.1).1 he x.1 x.2).1 hx).1
  have hok := sessionOk_of_get hw.1 hget
  simp only [List.any_eq_true, not_exists, not_and, Bool.or_eq_true, decide_eq_true_eq, not_or, not_lt] at hfar
  obtain ⟨hlo, hhi⟩ := hfar x hx
  refine ⟨?_, Tab.has_iff.2 ⟨_, hget⟩⟩
  simp only [sessionOk, Bool.and_eq_true, decide_eq_true_eq] at hok ⊢
  obtain ⟨⟨⟨⟨⟨⟨⟨⟨h1, h2⟩, h3⟩, h4⟩, h5⟩, h6⟩, h7⟩, h8⟩, h9⟩ := hok
  refine ⟨⟨⟨⟨⟨⟨⟨⟨h1, h2⟩, ?_⟩, ?_⟩, h5⟩, h6⟩, h7⟩, h8⟩, h9⟩
  · show shifted x.2.start delta < shifted x.2.fin delta
    unfold shifted; omega
  · show shifted x.2.fin delta ≤ 65535
    unfold shifted; omega

theorem storeOk_set_room {room : Nat} {r : Room} (hr : roomOk (room, r) = true) (hw : w.storeOk) :
    sessionsOk (Tab.set w.rooms room r) w.sessions = true ∧ roomsOk (Tab.set w.rooms room r) = true :=
  ⟨sessionsOk_mono (fun i hi => by rw [Tab.has_set, hi, Bool.or_true]) hw.1, roomsOk_set hr hw.2⟩

theorem simPutRoom_storeOk {policy room zone changeover : Nat} {name : Handle} (hw : w.storeOk)
    (he : entryWf (.putRoom policy room name zone changeover) = true)
    (h : simPutRoom off policy room name zone changeover w = .passed w') : w'.storeOk := by
  unfold simPutRoom at h
  split at h
  · cases h
  split at h
  · cases h
  rename_i hrange
  have hok : requiredOk name = true ∧ zone ≤ 15 ∧ changeover ≤ 60 ∧ room < 256 := by
    simp only [entryWf, Bool.and_eq_true, decide_eq_true_eq] at he
    simp only [Bool.or_eq_true, decide_eq_true_eq, not_or, Bool.not_eq_true', Bool.not_eq_false, not_lt] at hrange
    exact ⟨hrange.1.1, hrange.1.2, hrange.2, he.1.1.1.1.2⟩
  split at h
  · cases h
    exact storeOk_set_room (by simp [roomOk, hok]) hw
  · dsimp only at h
    split at h
    · cases h; exact hw
    · cases h
      exact storeOk_set_room (by simp [roomOk, hok]) hw

theorem simRoomState_storeOk {action room : Nat} (hw : w.storeOk) (h : simRoomState off action room w = .passed w') :
    w'.storeOk := by
  unfold simRoomState at h
  split at h
  · cases h
  split at h
  · cases h
  rename_i r hr
  split at h
  · cases h; exact hw
  · cases h
    have := (roomsOk_iff.1 hw.2).2 _ (Tab.mem_of_get hr)
    exact storeOk_set_room this hw

theorem simSetClock_storeOk {minute origin : Nat} (hw : w.storeOk) (h : simSetClock minute origin w = .passed w') :
    w'.storeOk := by
  unfold simSetClock at h
  split at h
  · cases h
  · cases h; exact hw

theorem simPutSign_storeOk {kind slot line lines address lookahead : Nat} {targets : List Nat} (hw : w.storeOk)
    (h : simPutSign kind slot line lines address lookahead targets w = .passed w') : w'.storeOk := by
  unfold simPutSign at h
  split at h
  · cases h
  split at h
  · cases h
  split at h
  · cases h
  split at h
  · cases h
  · cases h; exact hw

theorem simDropSign_storeOk {slot : Nat} (hw : w.storeOk) (h : simDropSign slot w = .passed w') : w'.storeOk := by
  unfold simDropSign at h
  split at h
  · cases h
  split at h
  · cases h
  · cases h; exact hw

/-- Every entry leaves tables the store may take (R12, R37). -/
theorem simulate_storeOk {retain : Nat} {e : Entry} (hw : w.storeOk) (he : entryWf e = true)
    (h : simulate retain off e w = .passed w') : w'.storeOk := by
  cases e with
  | putSession cls id room start fin title presenter => exact simPutSession_storeOk hw he h
  | dropSession id => exact simDropSession_storeOk hw h
  | cancelSession id => exact simCancelSession_storeOk hw h
  | moveSession id room => exact simMoveSession_storeOk hw h
  | shiftSession cascade id delta => exact simShiftSession_storeOk hw h
  | putRoom policy room name zone changeover => exact simPutRoom_storeOk hw he h
  | roomState action room => exact simRoomState_storeOk hw h
  | setClock minute origin => exact simSetClock_storeOk hw h
  | putSign kind slot line lines address lookahead targets => exact simPutSign_storeOk hw h
  | dropSign slot => exact simDropSign_storeOk hw h

end Kinds

end Sys2Proof.Machine
end

section
/-! What each group of acts leaves unchanged. -/

namespace Sys2Proof.Machine

/-! ## The frame of the signs -/

/-- The state with the compositor, the sign table, the face queues, the engines and the ports put aside. -/
def State.signless (s : State) : State :=
  { s with
    comp := { composition := none, dirty := [], servicePos := 0, lastServed := 0 }
    signs := [], lists := .all { urgent := [], content := [], tick := [] }, engines := .all .stopped
    ports := .all .stopped }

/-- `t` is `s` but for the compositor, the sign table, the face queues, the engines and the ports. -/
def State.signsOnly (s t : State) : Prop := t.signless = s.signless

theorem State.signsOnly.refl (s : State) : State.signsOnly s s := rfl

theorem State.signsOnly.trans {s t u : State} (h1 : State.signsOnly s t) (h2 : State.signsOnly t u) :
    State.signsOnly s u := Eq.trans h2 h1

theorem State.signsOnly.eq {s t : State} (h : State.signsOnly s t) :
    t = { s with comp := t.comp, signs := t.signs, lists := t.lists, engines := t.engines, ports := t.ports } := by
  have h' : t.signless = s.signless := h
  calc t = { t.signless with
        comp := t.comp, signs := t.signs, lists := t.lists, engines := t.engines, ports := t.ports } := rfl
    _ = _ := by rw [h']; rfl

theorem signsOnly_handToPort (s : State) (n : Fin 4) : State.signsOnly s (s.handToPort n) := by
  unfold State.handToPort
  split
  · split <;> rfl
  · rfl

theorem signsOnly_judgeDirty (s : State) (i : Nat) (g : Sign) (c : FaceClass) :
    State.signsOnly s (s.judgeDirty i g c) := by
  unfold State.judgeDirty
  split
  · rfl
  · cases c <;> dsimp only <;> (repeat' split) <;> rfl

theorem signsOnly_sendFace (s : State) (n : Fin 4) (i : Nat) (g : Sign) (r : Rank) (rec : FaceRecord) (b : List Byte) :
    State.signsOnly s (s.sendFace n i g r rec b) :=
  State.signsOnly.trans rfl (signsOnly_handToPort _ n)

theorem signsOnly_judgeSend (s : State) (n : Fin 4) (i : Nat) (g : Sign) (c : FaceClass) (rec : FaceRecord)
    (b : List Byte) : State.signsOnly s (s.judgeSend n i g c rec b) := by
  unfold State.judgeSend
  split
  · rfl
  · cases c with
    | equal => rfl
    | urgent => exact signsOnly_sendFace ..
    | content =>
      dsimp only
      split
      · exact signsOnly_sendFace ..
      · rfl
    | tick =>
      dsimp only
      split
      · exact signsOnly_sendFace ..
      · rfl

theorem signsOnly_endComposition (s : State) (c : Composition) : State.signsOnly s (s.endComposition c) := by
  unfold State.endComposition
  dsimp only
  split
  · rfl
  · split
    · rfl
    · split
      · exact State.signsOnly.trans (t := s.setComposition none) rfl (signsOnly_judgeDirty ..)
      · exact State.signsOnly.trans (t := s.setComposition none) rfl (signsOnly_judgeSend ..)

theorem SignAct.signsOnly {s t : State} (h : SignAct s t) : State.signsOnly s t := by
  cases h with
  | ends c hc => exact signsOnly_endComposition s c
  | _ => rfl

theorem SignAct.frame {s t : State} (h : SignAct s t) :
    t = { s with comp := t.comp, signs := t.signs, lists := t.lists, engines := t.engines, ports := t.ports } :=
  h.signsOnly.eq

/-! ## The frames of the cache, the lanes and the path unit -/

theorem CacheAct.frame {s t : State} (h : CacheAct s t) :
    t = { s with
      mem := t.mem, cache := t.cache, path := { s.path with fillQueue := t.path.fillQueue }
      comp := { s.comp with composition := t.comp.composition } } := by
  cases h with
  | arrives => unfold State.arrive; dsimp only; (repeat' split) <;> rfl
  | snoops => unfold State.spoil; (repeat' split) <;> rfl
  | _ => rfl

theorem LaneAct.frame {s t : State} (h : LaneAct s t) : t = { s with mem := t.mem, lane := t.lane } := by cases h <;> rfl

theorem PathAct.frame {s t : State} (h : PathAct s t) :
    t = { s with freeIndex := t.freeIndex, mem := t.mem, path := t.path, post := t.post } := by cases h <;> rfl

/-! ## The frame of setup, the clock and the store -/

/-- The waiting records with a raise handed (R178). -/
def raised (f : BitVec 13) (w : List Item) : List Item :=
  if f = 0 then w else (joinRaise f w).getD (w ++ [{ producer := .post, record := .raise f, raises := 0 }])

theorem handRaise_eq (s : State) (f : BitVec 13) : s.handRaise f = s.setWaiting (raised f s.post.waiting) := by
  unfold State.handRaise raised
  split
  · rfl
  · split <;> simp_all

theorem readyForLast_eq (s : State) (p : Producer) :
    ∃ b, s.readyForLast p = { s with setup := { s.setup with ready := b } } := by
  unfold State.readyForLast
  split
  · exact ⟨true, rfl⟩
  · exact ⟨s.setup.ready, rfl⟩

/-- What a record of the start-up fill changes as it enters: the ready word, the post queue, the stamps and the waiting
records. -/
theorem fillEntered_eq (s : State) (it : Item) (rest : List Item) :
    ∃ (b : Bool) (q : List PostEntry) (st : Tab Word), s.fillEntered it rest = { s with
      setup := { s.setup with ready := b }, path := { s.path with postQueue := q }
      post := { s.post with stamps := st, waiting := raised it.raises rest } } := by
  obtain ⟨b, hb⟩ := readyForLast_eq (s.setWaiting rest) .fill
  unfold State.fillEntered
  rw [hb, handRaise_eq]
  exact ⟨b, _, _, rfl⟩

/-! ## Starting over -/

/-- A check in progress, or one whose apply step has been asked for, starts over; no other batch does (R38, R39). -/
theorem startOver_eq (s : State) :
    (s.lane.batch.check = none ∧ s.startOver = s)
      ∨ ∃ c, s.lane.batch.check = some c ∧ s.startOver = s.setBatch (.checking { c with
          passed := 0, work := s.workingCopy, refusal := none, starts := min 255 (c.starts + 1) }) := by
  unfold State.startOver Batch.check
  cases s.lane.batch with
  | none => exact .inl ⟨rfl, rfl⟩
  | checking c => exact .inr ⟨c, rfl, rfl⟩
  | applyRequested c => exact .inr ⟨c, rfl, rfl⟩
  | resulting => exact .inl ⟨rfl, rfl⟩

/-! ## The apply step's state -/

/-- A check starts over in the lane unit alone. -/
theorem startOver_frame (s : State) : s.startOver = { s with lane := s.startOver.lane } := by
  rcases startOver_eq s with ⟨-, h⟩ | ⟨c, -, h⟩
  · rw [h]
  · rw [h]; rfl

/-- The sessions an apply step leaves: those of the working copy, less those a SET CLOCK's retire takes (R13, R54). -/
def State.appliedSessions (s : State) (w : Work) : Tab Session :=
  if w.setClock then retired s.setup.retain (appliedClock s.clock w).now w.sessions else w.sessions

/-- The rooms an apply step leaves (R54, R61). -/
def State.appliedRooms (s : State) (w : Work) : Tab Room :=
  deriveAfterApply (s.appliedSessions w) (appliedClock s.clock w).now (clockDiffers s.clock w) w.touched w.rooms

/-- The state of an apply step with the store and the clock in force, before a sign is changed. -/
def State.storeApplied (s : State) (w : Work) : State :=
  { s with clock := appliedClock s.clock w, store := { sessions := s.appliedSessions w, rooms := s.appliedRooms w } }

@[simp] theorem State.setDirty_setDirty (s : State) (d d' : List Nat) : (s.setDirty d).setDirty d' = s.setDirty d' := rfl

/-- Marking leaves all but the dirty set as it is. -/
theorem markDirty_eq (s : State) (i : Nat) : ∃ d, s.markDirty i = s.setDirty d := by
  unfold State.markDirty
  split
  · exact ⟨_, rfl⟩
  · exact ⟨s.comp.dirty, rfl⟩

theorem foldl_marks {β : Type} (f : State → β → State) (h : ∀ s b, ∃ d, f s b = s.setDirty d) (l : List β) (s : State) :
    ∃ d, l.foldl f s = s.setDirty d := by
  induction l generalizing s with
  | nil => exact ⟨s.comp.dirty, rfl⟩
  | cons b l ih =>
    obtain ⟨d, hd⟩ := h s b
    obtain ⟨d', hd'⟩ := ih (f s b)
    exact ⟨d', by rw [List.foldl_cons, hd', hd]; rfl⟩

theorem markWhere_eq (s : State) (p : Nat × Sign → Bool) : ∃ d, s.markWhere p = s.setDirty d :=
  foldl_marks (fun (t : State) (e : Nat × Sign) => t.markDirty e.1) (fun t e => markDirty_eq t e.1) _ s

theorem markRoomChanges_eq (s old : State) : ∃ d, s.markRoomChanges old = s.setDirty d :=
  foldl_marks _ (fun t _ => markWhere_eq t _) _ s

theorem markApplied_eq (s old : State) (w : Work) : ∃ d, s.markApplied old w = s.setDirty d := by
  unfold State.markApplied
  obtain ⟨d, hd⟩ := foldl_marks (fun (t : State) i => t.markWhere fun g =>
    targetsRoom g.2.defn i (zoneOf old.store.rooms i ++ zoneOf w.rooms i)) (fun t _ => markWhere_eq t _)
      (Tab.keys w.touched) s
  obtain ⟨d', hd'⟩ := foldl_marks State.markDirty markDirty_eq w.named (s.setDirty d)
  exact ⟨d', by dsimp only; rw [hd, hd']; rfl⟩

/-- The marks of an apply step (R96, R97). -/
def State.markedApplied (u s : State) (w : Work) : State :=
  ((if clockDiffers s.clock w then u.markAll else u).markRoomChanges s).markApplied s w

theorem markedApplied_eq (u s : State) (w : Work) : ∃ d, u.markedApplied s w = u.setDirty d := by
  unfold State.markedApplied
  have h : ∃ d, (if clockDiffers s.clock w then u.markAll else u) = u.setDirty d := by
    split
    · exact markWhere_eq u _
    · exact ⟨u.comp.dirty, rfl⟩
  obtain ⟨d1, h1⟩ := h
  rw [h1]
  obtain ⟨d2, h2⟩ := markRoomChanges_eq (u.setDirty d1) s
  rw [h2]
  obtain ⟨d3, h3⟩ := markApplied_eq ((u.setDirty d1).setDirty d2) s w
  exact ⟨d3, h3⟩

/-- An apply step: the store and the clock, the signs, and the marks that follow. -/
theorem applied_eq (s : State) (w : Work) :
    s.applied w = ((s.storeApplied w).changeSigns w).markedApplied s w := by
  have h : ∀ u v : State, u = v →
      ((if clockDiffers s.clock w then (u.changeSigns w).markAll else u.changeSigns w).markRoomChanges s).markApplied s w
        = (v.changeSigns w).markedApplied s w := fun u v h => by rw [h]; rfl
  unfold State.applied
  dsimp only
  refine h _ _ ?_
  unfold State.storeApplied State.appliedRooms State.appliedSessions
  split
  · rfl
  · rfl

theorem signsOnly_clearOldLine (s : State) (i : Nat) (d : SignDef) : State.signsOnly s (s.clearOldLine i d) := rfl

theorem signsOnly_setSign (s : State) (i : Nat) (g : Sign) : State.signsOnly s (s.setSign i g) := rfl

theorem signsOnly_changeSlot (s : State) (t : Tab SignDef) (dr : List Nat) (i : Nat) :
    State.signsOnly s (s.changeSlot t dr i) := by
  unfold State.changeSlot
  split
  · exact .refl s
  · exact signsOnly_setSign _ _ _
  · rename_i g _ _
    exact State.signsOnly.trans (t := (s.clearOldLine i g.defn).clean i) (signsOnly_clearOldLine s i g.defn) rfl
  · rename_i g d _ _
    split
    · exact (signsOnly_clearOldLine s i g.defn).trans (signsOnly_setSign _ _ _)
    · split
      · exact (signsOnly_clearOldLine s i g.defn).trans (signsOnly_setSign _ _ _)
      · exact signsOnly_setSign _ _ _

theorem signsOnly_foldl {β : Type} (f : State → β → State) (h : ∀ s b, State.signsOnly s (f s b)) (l : List β)
    (s : State) : State.signsOnly s (l.foldl f s) := by
  induction l generalizing s with
  | nil => exact .refl _
  | cons b l ih => exact (h s b).trans (ih _)

theorem signsOnly_changeSigns (s : State) (w : Work) : State.signsOnly s (s.changeSigns w) :=
  signsOnly_foldl _ (fun _ _ => signsOnly_changeSlot _ _ _ _) _ _

/-- What an apply step leaves as it is, and the store and the clock it leaves. -/
theorem applied_frame (s : State) (w : Work) : s.applied w = { s.storeApplied w with
    comp := (s.applied w).comp, signs := (s.applied w).signs, lists := (s.applied w).lists
    engines := (s.applied w).engines, ports := (s.applied w).ports } := by
  obtain ⟨d, hd⟩ := markedApplied_eq ((s.storeApplied w).changeSigns w) s w
  have h : State.signsOnly (s.storeApplied w) (s.applied w) := by
    rw [applied_eq, hd]; exact (signsOnly_changeSigns (s.storeApplied w) w).trans rfl
  exact h.eq

end Sys2Proof.Machine
end

section
/-! The store's tables are kept (R1, R3, R5), and the call ring keeps its form (R159). -/

namespace Sys2Proof.Machine

/-! ## Fields that the acts of a group leave -/

section Fields
variable {s t : State}

theorem SignAct.pending (h : SignAct s t) : t.pending = s.pending := by rw [h.frame]
theorem SignAct.pins (h : SignAct s t) : t.pins = s.pins := by rw [h.frame]
theorem SignAct.mem (h : SignAct s t) : t.mem = s.mem := by rw [h.frame]
theorem SignAct.path (h : SignAct s t) : t.path = s.path := by rw [h.frame]
theorem SignAct.setup (h : SignAct s t) : t.setup = s.setup := by rw [h.frame]
theorem SignAct.clock (h : SignAct s t) : t.clock = s.clock := by rw [h.frame]
theorem SignAct.store (h : SignAct s t) : t.store = s.store := by rw [h.frame]
theorem SignAct.lane (h : SignAct s t) : t.lane = s.lane := by rw [h.frame]
theorem SignAct.cache (h : SignAct s t) : t.cache = s.cache := by rw [h.frame]
theorem SignAct.post (h : SignAct s t) : t.post = s.post := by rw [h.frame]

theorem CacheAct.pending (h : CacheAct s t) : t.pending = s.pending := by rw [h.frame]
theorem CacheAct.pins (h : CacheAct s t) : t.pins = s.pins := by rw [h.frame]
theorem CacheAct.setup (h : CacheAct s t) : t.setup = s.setup := by rw [h.frame]
theorem CacheAct.clock (h : CacheAct s t) : t.clock = s.clock := by rw [h.frame]
theorem CacheAct.store (h : CacheAct s t) : t.store = s.store := by rw [h.frame]
theorem CacheAct.lane (h : CacheAct s t) : t.lane = s.lane := by rw [h.frame]
theorem CacheAct.signs (h : CacheAct s t) : t.signs = s.signs := by rw [h.frame]
theorem CacheAct.lists (h : CacheAct s t) : t.lists = s.lists := by rw [h.frame]
theorem CacheAct.engines (h : CacheAct s t) : t.engines = s.engines := by rw [h.frame]
theorem CacheAct.post (h : CacheAct s t) : t.post = s.post := by rw [h.frame]
theorem CacheAct.base (h : CacheAct s t) : t.path.base = s.path.base := by rw [h.frame]
theorem CacheAct.insist (h : CacheAct s t) : t.path.insist = s.path.insist := by rw [h.frame]
theorem CacheAct.postQueue (h : CacheAct s t) : t.path.postQueue = s.path.postQueue := by rw [h.frame]
theorem CacheAct.dirty (h : CacheAct s t) : t.comp.dirty = s.comp.dirty := by rw [h.frame]

theorem LaneAct.pending (h : LaneAct s t) : t.pending = s.pending := by rw [h.frame]
theorem LaneAct.pins (h : LaneAct s t) : t.pins = s.pins := by rw [h.frame]
theorem LaneAct.path (h : LaneAct s t) : t.path = s.path := by rw [h.frame]
theorem LaneAct.setup (h : LaneAct s t) : t.setup = s.setup := by rw [h.frame]
theorem LaneAct.store (h : LaneAct s t) : t.store = s.store := by rw [h.frame]
theorem LaneAct.cache (h : LaneAct s t) : t.cache = s.cache := by rw [h.frame]
theorem LaneAct.comp (h : LaneAct s t) : t.comp = s.comp := by rw [h.frame]
theorem LaneAct.signs (h : LaneAct s t) : t.signs = s.signs := by rw [h.frame]
theorem LaneAct.lists (h : LaneAct s t) : t.lists = s.lists := by rw [h.frame]
theorem LaneAct.engines (h : LaneAct s t) : t.engines = s.engines := by rw [h.frame]
theorem LaneAct.post (h : LaneAct s t) : t.post = s.post := by rw [h.frame]

theorem PathAct.pending (h : PathAct s t) : t.pending = s.pending := by rw [h.frame]
theorem PathAct.pins (h : PathAct s t) : t.pins = s.pins := by rw [h.frame]
theorem PathAct.setup (h : PathAct s t) : t.setup = s.setup := by rw [h.frame]
theorem PathAct.store (h : PathAct s t) : t.store = s.store := by rw [h.frame]
theorem PathAct.lane (h : PathAct s t) : t.lane = s.lane := by rw [h.frame]
theorem PathAct.cache (h : PathAct s t) : t.cache = s.cache := by rw [h.frame]
theorem PathAct.comp (h : PathAct s t) : t.comp = s.comp := by rw [h.frame]
theorem PathAct.signs (h : PathAct s t) : t.signs = s.signs := by rw [h.frame]
theorem PathAct.lists (h : PathAct s t) : t.lists = s.lists := by rw [h.frame]
theorem PathAct.engines (h : PathAct s t) : t.engines = s.engines := by rw [h.frame]

variable {P : Prop}

theorem Hands.pending (h : Hands P s t) : t.pending = s.pending := by rw [h.frame]
theorem Hands.pins (h : Hands P s t) : t.pins = s.pins := by rw [h.frame]
theorem Hands.mem (h : Hands P s t) : t.mem = s.mem := by rw [h.frame]
theorem Hands.setup (h : Hands P s t) : t.setup = s.setup := by rw [h.frame]
theorem Hands.store (h : Hands P s t) : t.store = s.store := by rw [h.frame]
theorem Hands.lane (h : Hands P s t) : t.lane = s.lane := by rw [h.frame]
theorem Hands.cache (h : Hands P s t) : t.cache = s.cache := by rw [h.frame]
theorem Hands.comp (h : Hands P s t) : t.comp = s.comp := by rw [h.frame]
theorem Hands.signs (h : Hands P s t) : t.signs = s.signs := by rw [h.frame]
theorem Hands.lists (h : Hands P s t) : t.lists = s.lists := by rw [h.frame]
theorem Hands.engines (h : Hands P s t) : t.engines = s.engines := by rw [h.frame]
theorem Hands.base (h : Hands P s t) : t.path.base = s.path.base := by rw [h.frame]
theorem Hands.insist (h : Hands P s t) : t.path.insist = s.path.insist := by rw [h.frame]
theorem Hands.fillQueue (h : Hands P s t) : t.path.fillQueue = s.path.fillQueue := by rw [h.frame]

end Fields

/-! ## The store's tables -/

section Store
variable {s t : State}

theorem storeOk_congr (h1 : t.store = s.store) (h2 : t.lane.batch = s.lane.batch) (hs : s.storeOk = true) :
    t.storeOk = true := by
  rw [State.storeOk_iff] at hs ⊢; rw [h1, h2]; exact hs

/-- A retire and a derivation of the rooms in use leave tables the store may hold (R22, R55). -/
theorem tablesOk_minute {rooms : Tab Room} {l : Tab Session} (retain now : Nat) (h1 : sessionsOk rooms l = true)
    (h2 : roomsOk rooms = true) :
    sessionsOk (deriveAll (retired retain now l) now rooms) (retired retain now l) = true
      ∧ roomsOk (deriveAll (retired retain now l) now rooms) = true := by
  rw [deriveAll_eq]
  refine ⟨sessionsOk_mono (fun i hi => ?_) (sessionsOk_filter _ h1), roomsOk_map _ (fun e => ?_) h2⟩
  · rw [Tab.has_map]; exact hi
  · obtain ⟨hn, hz, hc, -⟩ := derivedAt_definition (retired retain now l) now e
    exact ⟨hn, hz, hc⟩

/-- So do an apply step's retire and derivation (R54, R61). -/
theorem tablesOk_applied (s : State) {w : Work} (hw : w.storeOk) :
    sessionsOk (s.appliedRooms w) (s.appliedSessions w) = true ∧ roomsOk (s.appliedRooms w) = true := by
  have hsess : sessionsOk w.rooms (s.appliedSessions w) = true := by
    unfold State.appliedSessions
    split
    · exact sessionsOk_filter _ hw.1
    · exact hw.1
  unfold State.appliedRooms
  rw [deriveAfterApply_eq]
  refine ⟨sessionsOk_mono (fun i hi => ?_) hsess, roomsOk_map _ (fun e => ?_) hw.2⟩
  · rw [Tab.has_map]; exact hi
  · obtain ⟨hn, hz, hc, -⟩ := appliedAt_definition (s.appliedSessions w) (appliedClock s.clock w).now
      (clockDiffers s.clock w) w.touched e
    exact ⟨hn, hz, hc⟩

theorem nextEntry_eq_some {c : Check} {off : Nat} {e : Entry} (h : s.nextEntry = some (c, off, e)) :
    s.lane.batch = .checking c ∧ c.refusal = none ∧ (off, e) ∈ c.entries := by
  unfold State.nextEntry at h
  split at h
  · rename_i b hb
    split at h
    · rename_i hr he
      cases h
      exact ⟨hb, hr, List.mem_of_getElem? he⟩
    · cases h
  · cases h

/-- A check goes on with the outcome of its next entry. -/
theorem check_simulated {c : Check} {off : Nat} {o : Simulated} :
    (s.simulated c off o).lane.batch.check = some (c.after off o) := rfl

theorem LaneAct.storeOk (h : LaneAct s t) (hs : s.storeOk = true) : t.storeOk = true := by
  cases h with
  | begins es n hb hn hw =>
    rw [State.storeOk_iff] at hs ⊢
    refine ⟨hs.1, hs.2.1, fun c hc => ?_⟩
    cases hc
    exact (Check.storeOk_iff _).2 ⟨⟨hs.1, hs.2.1⟩, hw⟩
  | simulates c off e h =>
    obtain ⟨hb, -, he⟩ := nextEntry_eq_some h
    rw [State.storeOk_iff] at hs ⊢
    obtain ⟨h1, h2, h3⟩ := hs
    obtain ⟨hw, hes⟩ := (Check.storeOk_iff c).1 (h3 c (by rw [hb]; rfl))
    refine ⟨h1, h2, fun c' hc' => ?_⟩
    cases hc'
    cases ho : simulate s.setup.retain off e c.work with
    | refused code first => exact (Check.storeOk_iff _).2 ⟨hw, hes⟩
    | passed w => exact (Check.storeOk_iff _).2 ⟨simulate_storeOk hw (hes _ he) ho, hes⟩
  | results =>
    rw [State.storeOk_iff] at hs ⊢
    exact ⟨hs.1, hs.2.1, fun c hc => by cases hc⟩
  | passes c hb he =>
    rw [State.storeOk_iff] at hs ⊢
    exact ⟨hs.1, hs.2.1, fun c' hc' => by cases hc'; exact hs.2.2 c (by rw [hb]; rfl)⟩
  | releases n =>
    rw [State.storeOk_iff] at hs ⊢
    exact ⟨hs.1, hs.2.1, fun c hc => by cases hc⟩
  | _ => exact storeOk_congr rfl rfl hs

theorem SetupAct.storeOk (h : SetupAct s t) (hs : s.storeOk = true) : t.storeOk = true := by
  cases h with
  | fillNext k it rest hw hp hk hs' =>
    obtain ⟨b, q, st, he⟩ := fillEntered_eq s it rest
    rw [he]; exact storeOk_congr rfl rfl hs
  | fillLast k it rest hw hp hk hs' =>
    obtain ⟨b, q, st, he⟩ := fillEntered_eq s it rest
    rw [he]; exact storeOk_congr rfl rfl hs
  | minute c d h =>
    rw [State.storeOk_iff] at hs
    obtain ⟨h1, h2, h3⟩ := hs
    obtain ⟨h1', h2'⟩ := tablesOk_minute s.setup.retain s.clock.now h1 h2
    rcases startOver_eq { s with
      clock := c
      store :=
        { sessions := retired s.setup.retain s.clock.now s.store.sessions
          rooms := deriveAll (retired s.setup.retain s.clock.now s.store.sessions) s.clock.now s.store.rooms }
      comp := { s.comp with dirty := d } } with ⟨hb, ho⟩ | ⟨k, hb, ho⟩
    · rw [ho, State.storeOk_iff]
      exact ⟨h1', h2', h3⟩
    · rw [ho, State.storeOk_iff]
      refine ⟨h1', h2', fun k' hk' => ?_⟩
      cases hk'
      exact (Check.storeOk_iff _).2 ⟨⟨h1', h2'⟩, ((Check.storeOk_iff k).1 (h3 k hb)).2⟩
  | applies c h =>
    rw [State.storeOk_iff] at hs
    obtain ⟨-, -, h3⟩ := hs
    obtain ⟨h1, h2⟩ := tablesOk_applied s ((Check.storeOk_iff c).1 (h3 c (by rw [h]; rfl))).1
    rw [applied_frame, State.storeOk_iff]
    exact ⟨h1, h2, fun k hk => by cases hk⟩
  | _ => exact storeOk_congr rfl rfl hs

theorem StartAct.storeOk (h : StartAct s t) (hs : s.storeOk = true) : t.storeOk = true := by
  cases h with
  | pins p h => exact storeOk_congr rfl rfl hs
  | straps p b hg ha hp hh => exact storeOk_congr rfl rfl hs
  | blocks p => rfl
  | starts p b m => rfl
  | restarts => rfl

theorem Act.storeOk {P : Prop} (h : Act P s t) (hs : s.storeOk = true) : t.storeOk = true := by
  cases h with
  | path h => exact storeOk_congr h.store (by rw [h.lane]) hs
  | sign h => exact storeOk_congr h.store (by rw [h.lane]) hs
  | cache h => exact storeOk_congr h.store (by rw [h.lane]) hs
  | lane h => exact h.storeOk hs
  | setup h => exact h.storeOk hs
  | start h => exact h.storeOk hs
  | hands h => exact storeOk_congr h.store (by rw [h.lane]) hs

end Store

/-! ## Lists with no element twice -/

theorem noRepeat_iff (l : List Nat) : noRepeat l = true ↔ l.Nodup := by
  induction l with
  | nil => simp [noRepeat]
  | cons x l ih => simp [noRepeat, ih]

/-! ## The call ring -/

section Ring

theorem placesFrom_append (n : Nat) (l l' : List RingEntry) :
    placesFrom n (l ++ l') = (placesFrom n l && placesFrom (n + l.length) l') := by
  induction l generalizing n with
  | nil => simp [placesFrom]
  | cons e l ih => simp [placesFrom, ih, Bool.and_assoc, Nat.add_assoc, Nat.add_comm 1]

theorem placesFrom_drop {n : Nat} {l : List RingEntry} (k : Nat) (hk : k ≤ l.length) (h : placesFrom n l = true) :
    placesFrom (n + k) (l.drop k) = true := by
  rw [← List.take_append_drop k l, placesFrom_append, Bool.and_eq_true] at h
  simpa [hk] using h.2

/-- Places are counted modulo the ring's size. -/
theorem placesFrom_congr {n m : Nat} (h : n % Config.ringSize = m % Config.ringSize) (l : List RingEntry) :
    placesFrom n l = placesFrom m l := by
  induction l generalizing n m with
  | nil => rfl
  | cons e l ih => rw [placesFrom, placesFrom, h, ih (n := n + 1) (m := m + 1) (by unfold Config.ringSize at *; omega)]

theorem placesFrom_map (f : RingEntry → RingEntry) (hf : ∀ e, (f e).place = e.place) (n : Nat) (l : List RingEntry) :
    placesFrom n (l.map f) = placesFrom n l := by
  induction l generalizing n with
  | nil => rfl
  | cons e l ih => simp [placesFrom, hf, ih]

theorem place_lt_of_placesFrom {n : Nat} {l : List RingEntry} (h : placesFrom n l = true) {e : RingEntry} (he : e ∈ l) :
    e.place < 32 := by
  induction l generalizing n with
  | nil => cases he
  | cons x l ih =>
    simp only [placesFrom, Bool.and_eq_true, decide_eq_true_eq] at h
    rcases List.mem_cons.1 he with rfl | he
    · rw [h.1]; exact Nat.mod_lt _ (by decide)
    · exact ih h.2 he

theorem PostUnit.ringOk_iff (p : PostUnit) : p.ringOk = true
    ↔ p.ring.length ≤ 32 ∧ p.ring.length = ringDistance p.ringRead p.ringWrite
      ∧ placesFrom p.ringRead.toNat p.ring = true ∧ (p.ring.map (·.sign)).Nodup
      ∧ ∀ e ∈ p.ring, 1 ≤ e.count ∧ e.count ≤ 255 := by
  simp only [PostUnit.ringOk, noRepeat_iff, Bool.and_eq_true, decide_eq_true_eq, List.all_eq_true, and_assoc]
  exact Iff.rfl

variable {s t : State}

theorem ringOk_counts {p : PostUnit} (i c : Nat) (h1 : 1 ≤ c) (h2 : c ≤ 255) (h : p.ringOk = true) :
    PostUnit.ringOk { p with ring := p.ring.map fun (x : RingEntry) => if x.sign = i then { x with count := c } else x }
      = true := by
  rw [PostUnit.ringOk_iff] at h ⊢
  obtain ⟨hl, hd, hp, hn, hc⟩ := h
  refine ⟨by simpa using hl, by simpa using hd, ?_, ?_, ?_⟩
  · rw [placesFrom_map _ fun e => by split <;> rfl]; exact hp
  · rw [List.map_map]
    rwa [List.map_congr_left (g := (·.sign)) fun e _ => by simp only [Function.comp]; split <;> rfl]
  · intro e he
    obtain ⟨x, hx, rfl⟩ := List.mem_map.1 he
    split
    · exact ⟨h1, h2⟩
    · exact hc x hx

theorem ringOk_rings {p : PostUnit} {e : RingEntry} (hp : e.place = p.ringWrite.toNat % Config.ringSize)
    (hc : e.count = 1) (hn : ∀ x ∈ p.ring, x.sign ≠ e.sign) (hl : p.ring.length < Config.ringSize)
    (h : p.ringOk = true) :
    PostUnit.ringOk { p with ring := p.ring ++ [e], ringWrite := p.ringWrite + 1 } = true := by
  rw [PostUnit.ringOk_iff] at h ⊢
  obtain ⟨-, hd, hplaces, hnodup, hcount⟩ := h
  have hl' : p.ring.length < 32 := hl
  unfold ringDistance at hd ⊢
  refine ⟨by simp; omega, ?_, ?_, ?_, ?_⟩
  · simp only [List.length_append, List.length_singleton]; bv_omega
  · rw [placesFrom_append, hplaces, Bool.true_and]
    simp only [placesFrom, Bool.and_true, decide_eq_true_eq, hp, Config.ringSize]
    bv_omega
  · rw [List.map_append, List.nodup_append]
    refine ⟨hnodup, by simp, ?_⟩
    intro a ha b hb
    obtain ⟨x, hx, rfl⟩ := List.mem_map.1 ha
    simp only [List.map_cons, List.map_nil, List.mem_singleton] at hb
    rw [hb]; exact hn x hx
  · intro x hx
    rcases List.mem_append.1 hx with hx | hx
    · exact hcount x hx
    · rw [List.mem_singleton.1 hx, hc]; omega

theorem ringOk_consumes {p : PostUnit} {v : Byte} (hv : readCountTaken p v = true) (h : p.ringOk = true) :
    PostUnit.ringOk { p with ringRead := v, ring := p.ring.drop (ringDistance p.ringRead v) } = true := by
  rw [PostUnit.ringOk_iff] at h ⊢
  obtain ⟨hl, hd, hplaces, hnodup, hcount⟩ := h
  simp only [readCountTaken, decide_eq_true_eq] at hv
  have hdrop := placesFrom_drop (ringDistance p.ringRead v) (by omega) hplaces
  unfold ringDistance at *
  refine ⟨by simp; omega, ?_, ?_, ?_, fun e he => hcount e (List.mem_of_mem_drop he)⟩
  · simp only [List.length_drop]; bv_omega
  · rw [← hdrop]
    refine placesFrom_congr ?_ _
    simp only [Config.ringSize]
    bv_omega
  · rw [List.map_drop]; exact hnodup.sublist (List.drop_sublist _ _)

theorem ringOk_congr (h1 : t.post.ring = s.post.ring) (h2 : t.post.ringRead = s.post.ringRead)
    (h3 : t.post.ringWrite = s.post.ringWrite) (hs : s.post.ringOk = true) : t.post.ringOk = true := by
  rw [PostUnit.ringOk_iff] at hs ⊢; rw [h1, h2, h3]; exact hs

theorem PathAct.ringOk (h : PathAct s t) (hs : s.post.ringOk = true) : t.post.ringOk = true := by
  cases h with
  | counts i c h1 h2 => exact ringOk_counts i c h1 h2 hs
  | rings e hp hc hn hl => exact ringOk_rings hp hc hn hl hs
  | consumes v h => exact ringOk_consumes h hs
  | _ => exact ringOk_congr rfl rfl rfl hs

theorem SetupAct.ringOk (h : SetupAct s t) (hs : s.post.ringOk = true) : t.post.ringOk = true := by
  cases h with
  | fillNext k it rest hw hp hk hs' =>
    obtain ⟨b, q, st, he⟩ := fillEntered_eq s it rest
    rw [he]; exact hs
  | fillLast k it rest hw hp hk hs' =>
    obtain ⟨b, q, st, he⟩ := fillEntered_eq s it rest
    rw [he]; exact hs
  | minute c d h => rw [startOver_frame]; exact hs
  | applies c h => rw [applied_frame]; exact hs
  | _ => exact hs

theorem PostUnit.ringOk_empty : PostUnit.empty.ringOk = true := by
  rw [PostUnit.ringOk_iff]
  simp [PostUnit.empty, ringDistance, placesFrom]

theorem StartAct.ringOk (h : StartAct s t) (hs : s.post.ringOk = true) : t.post.ringOk = true := by
  cases h with
  | pins p h => exact hs
  | straps p b hg ha hp hh => exact hs
  | blocks p => exact PostUnit.ringOk_empty
  | starts p b m => exact ringOk_congr (s := { s with post := .empty }) rfl rfl rfl PostUnit.ringOk_empty
  | restarts => exact PostUnit.ringOk_empty

theorem Act.ringOk {P : Prop} (h : Act P s t) (hs : s.post.ringOk = true) : t.post.ringOk = true := by
  cases h with
  | path h => exact h.ringOk hs
  | sign h => rw [h.post]; exact hs
  | cache h => rw [h.post]; exact hs
  | lane h => rw [h.post]; exact hs
  | setup h => exact h.ringOk hs
  | start h => exact h.ringOk hs
  | hands h => rw [h.frame]; exact hs

end Ring

end Sys2Proof.Machine
end

section
/-! Sign definitions: what an entry, the end of a composition and an apply step do to the sign table (R94, R138 to R141). -/

namespace Sys2Proof.Machine

/-! ## Tables in order -/

/-- Tables in order that answer every lookup alike are one table. -/
theorem Tab.eq_of_get_eq {α : Type} {t u : Tab α} (ht : Tab.sorted t = true) (hu : Tab.sorted u = true)
    (h : ∀ k, Tab.get t k = Tab.get u k) : t = u := by
  have hmem : ∀ e, e ∈ t ↔ e ∈ u := fun e =>
    ⟨fun he => Tab.mem_of_get (by rw [← h]; exact Tab.get_of_mem ht he),
      fun he => Tab.mem_of_get (by rw [h]; exact Tab.get_of_mem hu he)⟩
  rw [Tab.sorted_iff] at ht hu
  have nodup : ∀ {l : Tab α}, l.Pairwise (fun a b => a.1 < b.1) → l.Nodup := fun hl =>
    hl.imp fun {a b} hab heq => by rw [heq] at hab; exact Nat.lt_irrefl _ hab
  exact ((List.perm_ext_iff_of_nodup (nodup ht) (nodup hu)).2 hmem).eq_of_pairwise
    (fun a b _ _ hab hba => absurd hab (Nat.lt_asymm hba)) ht hu

/-- Giving a key the value it has changes nothing. -/
theorem Tab.set_eq_self {α : Type} {t : Tab α} {k : Nat} {v : α} (ht : Tab.sorted t = true) (h : Tab.get t k = some v) :
    Tab.set t k v = t :=
  Tab.eq_of_get_eq (Tab.sorted_set k v ht) ht fun i => by
    rw [Tab.get_set]
    split
    next hi => rw [hi, h]
    next => rfl

theorem Tab.map_set {α β : Type} (f : α → β) (t : Tab α) (k : Nat) (v : α) :
    (Tab.set t k v).map (fun e => (e.1, f e.2)) = Tab.set (t.map fun e => (e.1, f e.2)) k (f v) := by
  induction t with
  | nil => rfl
  | cons e t ih =>
    obtain ⟨j, w⟩ := e
    simp only [Tab.set, List.map_cons]
    split
    · rfl
    · split
      · rfl
      · rw [List.map_cons, ih]

theorem Tab.map_del {α β : Type} (f : α → β) (t : Tab α) (k : Nat) :
    (Tab.del t k).map (fun e => (e.1, f e.2)) = Tab.del (t.map fun e => (e.1, f e.2)) k := by
  simp [Tab.del, List.filter_map, Function.comp_def]

/-! ## The definitions a sign table holds -/

theorem signDefs_setSign (s : State) (i : Nat) (g : Sign) : (s.setSign i g).signDefs = Tab.set s.signDefs i g.defn :=
  Tab.map_set Sign.defn s.signs i g

theorem get_signDefs (s : State) (i : Nat) : Tab.get s.signDefs i = (s.sign i).map Sign.defn :=
  Tab.get_map (fun _ (g : Sign) => g.defn) s.signs i

theorem sorted_signDefs (s : State) : Tab.sorted s.signDefs = Tab.sorted s.signs := by
  have h : Tab.sorted s.signDefs = true ↔ Tab.sorted s.signs = true := by
    simp only [Tab.sorted_iff, State.signDefs, List.pairwise_map]
  rwa [Bool.eq_iff_iff]

/-- A sign that keeps its definition leaves the definitions as they are. -/
theorem signDefs_setSign_same {s : State} {i : Nat} {g g' : Sign} (hs : Tab.sorted s.signDefs = true)
    (hg : s.sign i = some g) (hd : g'.defn = g.defn) : (s.setSign i g').signDefs = s.signDefs := by
  rw [signDefs_setSign, hd]
  exact Tab.set_eq_self hs (by rw [get_signDefs, hg]; rfl)

/-- Two definitions may stand side by side: they share no plate line and address (R139). -/
def SignDef.apart (d e : SignDef) : Prop := d.line ≠ e.line ∨ d.address ≠ e.address

theorem SignDef.apart.symm {d e : SignDef} (h : d.apart e) : e.apart d := h.imp Ne.symm Ne.symm

theorem distinctAddresses_iff (t : Tab SignDef) : distinctAddresses t = true ↔ t.Pairwise fun e f => e.2.apart f.2 := by
  induction t with
  | nil => simp [distinctAddresses]
  | cons e t ih => simp [distinctAddresses, ih, SignDef.apart]

/-- A table in order has its definitions apart when any two of different slots are. -/
theorem distinctAddresses_iff_get {t : Tab SignDef} (ht : Tab.sorted t = true) : distinctAddresses t = true
    ↔ ∀ i j d e, Tab.get t i = some d → Tab.get t j = some e → i ≠ j → d.apart e := by
  rw [distinctAddresses_iff]
  constructor
  · intro h i j d e hd he hij
    have symm : Std.Symm fun e f : Nat × SignDef => e.2.apart f.2 := ⟨fun _ _ => SignDef.apart.symm⟩
    exact h.forall (Tab.mem_of_get hd) (Tab.mem_of_get he) (fun heq => hij (congrArg Prod.fst heq))
  · intro h
    refine ((Tab.sorted_iff t).1 ht).imp_of_mem fun {a b} ha hb hab => ?_
    exact h a.1 b.1 a.2 b.2 (Tab.get_of_mem ht ha) (Tab.get_of_mem ht hb) (Nat.ne_of_lt hab)

theorem signDefsOk_iff (t : Tab SignDef) : signDefsOk t = true
    ↔ Tab.sorted t = true ∧ (∀ e ∈ t, signDefOk e = true)
      ∧ ∀ i j d e, Tab.get t i = some d → Tab.get t j = some e → i ≠ j → d.apart e := by
  simp only [signDefsOk, Bool.and_eq_true, List.all_eq_true, and_assoc]
  constructor
  · rintro ⟨h1, h2, h3⟩; exact ⟨h1, h2, (distinctAddresses_iff_get h1).1 h3⟩
  · rintro ⟨h1, h2, h3⟩; exact ⟨h1, h2, (distinctAddresses_iff_get h1).2 h3⟩

/-- A definition is put in a slot, apart from those of the other slots. -/
theorem signDefsOk_set {t : Tab SignDef} {i : Nat} {d : SignDef} (hd : signDefOk (i, d) = true)
    (ha : ∀ j e, Tab.get t j = some e → j ≠ i → d.apart e) (h : signDefsOk t = true) :
    signDefsOk (Tab.set t i d) = true := by
  rw [signDefsOk_iff] at h ⊢
  obtain ⟨hs, hall, hdist⟩ := h
  refine ⟨Tab.sorted_set i d hs, fun e he => ?_, fun j k x y hx hy hjk => ?_⟩
  · rcases Tab.mem_set he with rfl | he
    · exact hd
    · exact hall e he
  · rw [Tab.get_set] at hx hy
    split at hx
    · rename_i hji
      rw [if_neg (by omega)] at hy
      cases hx
      exact ha k y hy (by omega)
    · rename_i hji
      split at hy
      · cases hy
        exact (ha j x hx hji).symm
      · exact hdist j k x y hx hy hjk

theorem signDefsOk_del {t : Tab SignDef} (i : Nat) (h : signDefsOk t = true) : signDefsOk (Tab.del t i) = true := by
  rw [signDefsOk_iff] at h ⊢
  obtain ⟨hs, hall, hdist⟩ := h
  refine ⟨Tab.sorted_del i hs, fun e he => hall e (List.mem_filter.1 he).1, fun j k x y hx hy hjk => ?_⟩
  rw [Tab.get_del] at hx hy
  split at hx
  · cases hx
  · split at hy
    · cases hy
    · exact hdist j k x y hx hy hjk

/-! ## The end of a composition -/

/-- All that the end of a composition can be, on the state without it: nothing; a dirty composition's sign unmarked, enqueued or
deferred; a send-time composition's sign let go, sent or deferred, its engine's request over (R94, R99, R101, R109, R116). -/
theorem endComposition_cases (s : State) (c : Composition) :
    s.endComposition c = s.setComposition none
    ∨ ∃ g, s.sign c.slot = some g ∧
      ((c.engine = none ∧ g.state ≠ .lost
        ∧ (s.endComposition c = (s.setComposition none).setSign c.slot (unmarked g)
          ∨ (∃ r, s.endComposition c = (s.setComposition none).enqueueFace c.slot g r)
          ∨ s.endComposition c = (s.setComposition none).deferSign c.slot g))
      ∨ ∃ n, c.engine = some n ∧ (s.engine n).state = .requesting c.slot
        ∧ (s.endComposition c = (s.setComposition none).letGo n c.slot g
          ∨ (∃ r rec b, s.endComposition c = (s.setComposition none).sendFace n c.slot g r rec b)
          ∨ s.endComposition c = ((s.setComposition none).deferSign c.slot g).updateEngine n
              fun e => { e with state := .idle })) := by
  unfold State.endComposition
  dsimp only
  split
  · exact .inl rfl
  split
  · exact .inl rfl
  rename_i g hg
  split
  · rename_i he
    by_cases hl : g.state = .lost
    · exact .inl (if_pos hl)
    have open_ : ∀ cl, (s.setComposition none).judgeDirty c.slot g cl = s.setComposition none
        ∨ (s.setComposition none).judgeDirty c.slot g cl = (s.setComposition none).setSign c.slot (unmarked g)
        ∨ (∃ r, (s.setComposition none).judgeDirty c.slot g cl = (s.setComposition none).enqueueFace c.slot g r)
        ∨ (s.setComposition none).judgeDirty c.slot g cl = (s.setComposition none).deferSign c.slot g := by
      intro cl
      unfold State.judgeDirty
      rw [if_neg hl]
      cases cl with
      | equal => dsimp only; split <;> simp
      | urgent => exact .inr (.inr (.inl ⟨_, rfl⟩))
      | content =>
        dsimp only
        split
        · exact .inr (.inr (.inl ⟨_, rfl⟩))
        · exact .inr (.inr (.inr rfl))
      | tick =>
        dsimp only
        split
        · exact .inr (.inr (.inl ⟨_, rfl⟩))
        · split <;> simp
    rcases open_ (classify g.shown (recordOf c.taken c.face g.shown.resync)) with h | h
    · exact .inl h
    · exact .inr ⟨g, hg, .inl ⟨he, hl, h⟩⟩
  · rename_i n he
    by_cases hr : ((s.setComposition none).engine n).state = .requesting c.slot
    · refine .inr ⟨g, hg, .inr ⟨n, he, hr, ?_⟩⟩
      unfold State.judgeSend
      rw [if_neg (not_not_intro hr)]
      cases classify g.shown (recordOf c.taken c.face g.shown.resync) with
      | equal => exact .inl rfl
      | urgent => exact .inr (.inl ⟨_, _, _, rfl⟩)
      | content =>
        dsimp only
        split
        · exact .inr (.inl ⟨_, _, _, rfl⟩)
        · exact .inr (.inr rfl)
      | tick =>
        dsimp only
        split
        · exact .inr (.inl ⟨_, _, _, rfl⟩)
        · exact .inl rfl
    · exact .inl (if_pos hr)

theorem handToPort_eq (s : State) (n : Fin 4) : ∃ e p, s.handToPort n = (s.setEngine n e).setPort n p
    ∧ e.owed = (s.engine n).owed ∧ e.presses = (s.engine n).presses
    ∧ (e = s.engine n ∨ ∃ x, (s.engine n).state = .ready x ∧ e = { s.engine n with state := .running x false }) := by
  have none_ : s = (s.setEngine n (s.engine n)).setPort n (s.port n) := by
    rw [State.setEngine_engine_self]
    simp [State.setPort, State.port]
  unfold State.handToPort
  split
  · rename_i x hx
    split
    · exact ⟨_, _, rfl, rfl, rfl, .inr ⟨x, hx, rfl⟩⟩
    · exact ⟨_, _, none_, rfl, rfl, .inl rfl⟩
  · exact ⟨_, _, none_, rfl, rfl, .inl rfl⟩

theorem signs_handToPort (s : State) (n : Fin 4) : (s.handToPort n).signs = s.signs := by
  obtain ⟨e, p, h, -⟩ := handToPort_eq s n; rw [h]; rfl

/-- The end of a composition changes at most its sign's record, and not its definition or its credits. -/
theorem endComposition_signs (s : State) (c : Composition) : (s.endComposition c).signs = s.signs
    ∨ ∃ g g', s.sign c.slot = some g ∧ g'.defn = g.defn ∧ g'.credits = g.credits
      ∧ (s.endComposition c).signs = Tab.set s.signs c.slot g' := by
  rcases endComposition_cases s c with h | ⟨g, hg, ⟨-, -, h | ⟨r, h⟩ | h⟩ | ⟨n, -, -, h | ⟨r, rec, b, h⟩ | h⟩⟩
  · exact .inl (by rw [h]; rfl)
  · exact .inr ⟨g, unmarked g, hg, rfl, rfl, by rw [h]; rfl⟩
  · exact .inr ⟨g, { g with deferred := false, state := enqueuedState g.state }, hg, rfl, rfl, by rw [h]; rfl⟩
  · exact .inr ⟨g, { g with deferred := true, state := if g.state = .refreshing then .refreshing else .deferred }, hg,
      rfl, rfl, by rw [h]; rfl⟩
  · exact .inr ⟨g, { g with deferred := false, state := .synced }, hg, rfl, rfl, by rw [h]; rfl⟩
  · exact .inr ⟨g, { g with deferred := false, state := .sending, sequence := sendSequence g rec }, hg, rfl, rfl,
      by rw [h]; exact signs_handToPort _ _⟩
  · exact .inr ⟨g, { g with deferred := true, state := if g.state = .refreshing then .refreshing else .deferred }, hg,
      rfl, rfl, by rw [h]; rfl⟩

/-- Every sign act changes at most one sign's record: neither its definition, nor its credits but to lower them. -/
theorem SignAct.signs {s t : State} (h : SignAct s t) : t.signs = s.signs
    ∨ ∃ i g g', (i, g) ∈ s.signs ∧ g'.defn = g.defn ∧ g'.credits ≤ g.credits ∧ t.signs = Tab.set s.signs i g' := by
  cases h with
  | sign i g g' hg hd hs hf hc => exact .inr ⟨i, g, g', Tab.mem_of_get hg, hd, hc, rfl⟩
  | accepted n i g g' e hg hw hx hd hs hf hc he ho => exact .inr ⟨i, g, g', Tab.mem_of_get hg, hd, hc, rfl⟩
  | returned n i g g' r e hg hw hx hd hs hf hc he ho => exact .inr ⟨i, g, g', Tab.mem_of_get hg, hd, hc.le, rfl⟩
  | lost n i g e hg hw he ho => exact .inr ⟨i, g, lostSign g, Tab.mem_of_get hg, rfl, le_rfl, rfl⟩
  | back i g hg hl => exact .inr ⟨i, g, backSign s.setup.styles g, hg, rfl, le_rfl, rfl⟩
  | refreshed i g hg => exact .inr ⟨i, g, { g with timer := none, state := s.afterRefresh i g }, Tab.mem_of_get hg, rfl, le_rfl, rfl⟩
  | ends c hc =>
    rcases endComposition_signs s c with h | ⟨g, g', hg, hd, hcr, h⟩
    · exact .inl h
    · exact .inr ⟨_, g, g', Tab.mem_of_get hg, hd, hcr.le, h⟩
  | _ => exact .inl rfl

/-! ## The signs an apply step changes -/

/-- The sign an apply step leaves in a slot that an entry named (R141). -/
def slotAfter (u : SetupLogic) (defs : Tab SignDef) (dropped : List Nat) (slot : Nat) (old : Option Sign) : Option Sign :=
  match old, Tab.get defs slot with
  | _, none => none
  | none, some d => some (newSign u d)
  | some g, some d =>
    some (if dropped.contains slot then newSign u d
      else if g.defn.line ≠ d.line || g.defn.address ≠ d.address then movedSign u g d
      else redefinedSign u g d)

/-- A slot an entry named keeps, takes or loses its sign, as `slotAfter` says; the others keep theirs. -/
theorem changeSlot_signs (s : State) (defs : Tab SignDef) (dr : List Nat) (i : Nat) :
    (slotAfter s.setup defs dr i (s.sign i) = none
        ∧ ((s.changeSlot defs dr i).signs = Tab.del s.signs i
          ∨ (s.sign i = none ∧ (s.changeSlot defs dr i).signs = s.signs)))
      ∨ ∃ g, slotAfter s.setup defs dr i (s.sign i) = some g ∧ (s.changeSlot defs dr i).signs = Tab.set s.signs i g := by
  unfold State.changeSlot slotAfter
  cases hg : s.sign i with
  | none =>
    cases hd : Tab.get defs i with
    | none => exact .inl ⟨rfl, .inr ⟨rfl, rfl⟩⟩
    | some d => exact .inr ⟨_, rfl, rfl⟩
  | some g =>
    cases hd : Tab.get defs i with
    | none => exact .inl ⟨rfl, .inl rfl⟩
    | some d =>
      refine .inr ⟨_, rfl, ?_⟩
      dsimp only
      split
      · rfl
      · split <;> rfl

theorem sign_changeSlot (s : State) (defs : Tab SignDef) (dr : List Nat) (i j : Nat) :
    (s.changeSlot defs dr i).sign j = if j = i then slotAfter s.setup defs dr i (s.sign i) else s.sign j := by
  unfold State.sign
  rcases changeSlot_signs s defs dr i with ⟨h0, h | ⟨hn, h⟩⟩ | ⟨g, h0, h⟩
  · rw [h, Tab.get_del]; exact if_congr Iff.rfl h0.symm rfl
  · rw [h]
    split
    next hj => rw [hj]; exact hn.trans h0.symm
    next => rfl
  · rw [h, Tab.get_set]; exact if_congr Iff.rfl h0.symm rfl

theorem sorted_changeSlot {s : State} (defs : Tab SignDef) (dr : List Nat) (i : Nat) (h : Tab.sorted s.signs = true) :
    Tab.sorted (s.changeSlot defs dr i).signs = true := by
  rcases changeSlot_signs s defs dr i with ⟨-, e | ⟨-, e⟩⟩ | ⟨g, -, e⟩
  · rw [e]; exact Tab.sorted_del i h
  · rw [e]; exact h
  · rw [e]; exact Tab.sorted_set i g h

theorem setup_changeSlot (s : State) (defs : Tab SignDef) (dr : List Nat) (i : Nat) :
    (s.changeSlot defs dr i).setup = s.setup := by rw [(signsOnly_changeSlot s defs dr i).eq]

/-- The definition left in a named slot is the one the working copy gives it. -/
theorem slotAfter_defn (u : SetupLogic) (defs : Tab SignDef) (dr : List Nat) (i : Nat) (old : Option Sign) :
    (slotAfter u defs dr i old).map Sign.defn = Tab.get defs i := by
  unfold slotAfter
  cases Tab.get defs i with
  | none => cases old <;> rfl
  | some d =>
    cases old with
    | none => rfl
    | some g =>
      simp only [Option.map_some, Option.some.injEq]
      split
      · rfl
      · split <;> rfl

/-- A sign left in a named slot has its credits at the cap (R107). -/
theorem slotAfter_credits {u : SetupLogic} {defs : Tab SignDef} {dr : List Nat} {i : Nat} {old : Option Sign} {g : Sign}
    (h : slotAfter u defs dr i old = some g) : g.credits = (u.paramsOf g.defn).cap := by
  unfold slotAfter at h
  cases hd : Tab.get defs i with
  | none => cases old <;> simp [hd] at h
  | some d =>
    cases old with
    | none => simp only [hd, Option.some.injEq] at h; rw [← h]; rfl
    | some x =>
      simp only [hd, Option.some.injEq] at h
      rw [← h]
      split
      · rfl
      · split <;> rfl

/-- The definitions after the changes of a run of slots: the working copy's in those, the old ones elsewhere. -/
theorem get_signDefs_foldl_changeSlot (defs : Tab SignDef) (dr : List Nat) (l : List Nat) (s : State) (j : Nat) :
    Tab.get (l.foldl (fun t i => t.changeSlot defs dr i) s).signDefs j
      = if j ∈ l then Tab.get defs j else Tab.get s.signDefs j := by
  induction l generalizing s with
  | nil => simp
  | cons i l ih =>
    rw [List.foldl_cons, ih]
    have h : Tab.get (s.changeSlot defs dr i).signDefs j = if j = i then Tab.get defs j else Tab.get s.signDefs j := by
      rw [get_signDefs, sign_changeSlot]
      split
      next hj => rw [hj, slotAfter_defn]
      next => rw [get_signDefs]
    rw [h]
    by_cases hl : j ∈ l <;> by_cases hj : j = i <;> simp [hl, hj]

theorem sorted_foldl_changeSlot {s : State} (defs : Tab SignDef) (dr : List Nat) (l : List Nat)
    (h : Tab.sorted s.signs = true) : Tab.sorted (l.foldl (fun t i => t.changeSlot defs dr i) s).signs = true := by
  induction l generalizing s with
  | nil => exact h
  | cons i l ih => exact ih (sorted_changeSlot defs dr i h)

/-- The sign definitions after an apply step are the working copy's (R41, R141). -/
theorem signDefs_changeSigns {s : State} {w : Work} (hs : signDefsOk s.signDefs = true) (hw : signDefsOk w.signs = true)
    (h : ∀ i, i ∉ w.named → Tab.get s.signDefs i = Tab.get w.signs i) : (s.changeSigns w).signDefs = w.signs := by
  have hsorted := ((signDefsOk_iff _).1 hs).1
  rw [sorted_signDefs] at hsorted
  refine Tab.eq_of_get_eq ?_ ((signDefsOk_iff _).1 hw).1 fun i => ?_
  · rw [sorted_signDefs]; exact sorted_foldl_changeSlot _ _ _ hsorted
  · unfold State.changeSigns
    rw [get_signDefs_foldl_changeSlot]
    split
    next => rfl
    next hn => exact h i hn

end Sys2Proof.Machine
end

section
/-! The sign definitions in force and those of a check's working copy, kept by every act (R139, R141). -/

namespace Sys2Proof.Machine

/-! ## What an entry does to the sign definitions and the rooms touched -/

/-- An entry's effect on a working copy's sign definitions, on the slots named and on the rooms touched: none but rooms touched; a
sign put, apart from the others; a sign dropped (R11, R139, R140). -/
inductive Work.marks (off : Nat) (w : Work) : Work → Prop where
  | keeps {w' : Work} (hs : w'.signs = w.signs) (hn : w'.named = w.named)
      (ht : ∃ rooms : List Nat, w'.touched = rooms.foldl (fun t r => Tab.set t r off) w.touched) : Work.marks off w w'
  | puts (i : Nat) (d : SignDef) (hd : signDefOk (i, d) = true)
      (ha : ∀ e ∈ w.signs, e.1 ≠ i → d.apart e.2) :
    Work.marks off w { w with signs := Tab.set w.signs i d, named := insertIndex i w.named }
  | drops (i : Nat) : Work.marks off w
      { w with signs := Tab.del w.signs i, named := insertIndex i w.named, dropped := insertIndex i w.dropped }

section Kinds

variable {off : Nat} {w w' : Work}

theorem Work.marks_self : w.marks off w := .keeps rfl rfl ⟨[], rfl⟩

theorem simPutSession_marks {retain cls id room start fin : Nat} {title presenter : Handle}
    (h : simPutSession retain off cls id room start fin title presenter w = .passed w') : w.marks off w' := by
  unfold simPutSession at h
  dsimp only at h
  repeat' split at h
  all_goals cases h
  exact .keeps rfl rfl ⟨_, rfl⟩

theorem simDropSession_marks {id : Nat} (h : simDropSession off id w = .passed w') : w.marks off w' := by
  unfold simDropSession at h
  repeat' split at h
  all_goals cases h
  exact .keeps rfl rfl ⟨_, rfl⟩

theorem simCancelSession_marks {id : Nat} (h : simCancelSession off id w = .passed w') : w.marks off w' := by
  unfold simCancelSession at h
  repeat' split at h
  all_goals cases h
  · exact Work.marks_self
  · exact .keeps rfl rfl ⟨_, rfl⟩

theorem simMoveSession_marks {id room : Nat} (h : simMoveSession off id room w = .passed w') : w.marks off w' := by
  unfold simMoveSession at h
  dsimp only at h
  split at h
  · cases h
  split at h
  · cases h
  split at h
  · cases h
  split at h <;> cases h
  exact .keeps rfl rfl ⟨_, rfl⟩

theorem simShiftSession_marks {cascade : Bool} {id : Nat} {delta : Int}
    (h : simShiftSession off cascade id delta w = .passed w') : w.marks off w' := by
  unfold simShiftSession at h
  dsimp only at h
  repeat' split at h
  all_goals cases h
  exact .keeps rfl rfl ⟨_, rfl⟩

theorem simPutRoom_marks {policy room zone changeover : Nat} {name : Handle}
    (h : simPutRoom off policy room name zone changeover w = .passed w') : w.marks off w' := by
  unfold simPutRoom at h
  dsimp only at h
  repeat' split at h
  all_goals cases h
  · exact .keeps rfl rfl ⟨_, rfl⟩
  · exact Work.marks_self
  · exact .keeps rfl rfl ⟨_, rfl⟩

theorem simRoomState_marks {action room : Nat} (h : simRoomState off action room w = .passed w') : w.marks off w' := by
  unfold simRoomState at h
  repeat' split at h
  all_goals cases h
  · exact Work.marks_self
  · exact .keeps rfl rfl ⟨_, rfl⟩

theorem simSetClock_marks {minute origin : Nat} (h : simSetClock minute origin w = .passed w') : w.marks off w' := by
  unfold simSetClock at h
  split at h <;> cases h
  exact .keeps rfl rfl ⟨[], rfl⟩

theorem clamp_mem {lo hi : Nat} (h : lo ≤ hi) (n : Nat) : lo ≤ clamp lo hi n ∧ clamp lo hi n ≤ hi := by
  unfold clamp
  split
  · omega
  · split <;> omega

theorem signDefOk_clamped {slot address : Nat} (hs : slot < 512) (ha : address ≤ 127) (n : Fin 4) (lines lookahead : Nat)
    (t : Targets) : signDefOk (slot,
      { line := n, address := address, lines := clamp 1 8 lines, lookahead := clamp 0 720 lookahead, targets := t })
        = true := by
  have hl := clamp_mem (lo := 1) (hi := 8) (by omega) lines
  have hk := clamp_mem (lo := 0) (hi := 720) (by omega) lookahead
  simp only [signDefOk, Bool.and_eq_true, decide_eq_true_eq]
  omega

/-- The sign whose definition a PUT SIGN puts is apart from every other, and its definition is clamped (R139). -/
theorem simPutSign_marks {kind slot line lines address lookahead : Nat} {targets : List Nat}
    (h : simPutSign kind slot line lines address lookahead targets w = .passed w') : w.marks off w' := by
  unfold simPutSign at h
  split at h
  · cases h
  split at h
  · cases h
  rename_i hrange
  split at h
  · cases h
  split at h
  · cases h
  rename_i hfree
  cases h
  simp only [Bool.or_eq_true, decide_eq_true_eq, not_or, Nat.not_lt] at hrange
  obtain ⟨⟨hslot, hline⟩, haddr⟩ := hrange
  refine .puts slot _ ?_ fun e he hne => ?_
  · exact signDefOk_clamped (by omega) haddr _ _ _ _
  · have := List.find?_eq_none.1 hfree e he
    simp only [Bool.and_eq_true, decide_eq_true_eq, hne, ne_eq, not_false_eq_true, true_and] at this
    by_cases hl : e.2.line.val = line
    · exact .inr fun h => this ⟨hl, h.symm⟩
    · exact .inl fun h => hl (by rw [← h, Fin.val_ofNat]; omega)

theorem simDropSign_marks {slot : Nat} (h : simDropSign slot w = .passed w') : w.marks off w' := by
  unfold simDropSign at h
  split at h
  · cases h
  split at h
  · cases h
  · cases h; exact .drops slot

theorem simulate_marks {retain : Nat} {e : Entry} (h : simulate retain off e w = .passed w') : w.marks off w' := by
  cases e with
  | putSession cls id room start fin title presenter => exact simPutSession_marks h
  | dropSession id => exact simDropSession_marks h
  | cancelSession id => exact simCancelSession_marks h
  | moveSession id room => exact simMoveSession_marks h
  | shiftSession cascade id delta => exact simShiftSession_marks h
  | putRoom policy room name zone changeover => exact simPutRoom_marks h
  | roomState action room => exact simRoomState_marks h
  | setClock minute origin => exact simSetClock_marks h
  | putSign kind slot line lines address lookahead targets => exact simPutSign_marks h
  | dropSign slot => exact simDropSign_marks h

end Kinds

/-! ## The sign definitions of a check -/

theorem Tab.get_eq_none_of_notMem {α : Type} {t : Tab α} {i : Nat} (h : i ∉ Tab.keys t) : Tab.get t i = none := by
  cases hg : Tab.get t i with
  | none => rfl
  | some v => exact absurd (List.mem_map.2 ⟨(i, v), Tab.mem_of_get hg, rfl⟩) h

/-- A working copy's sign definitions stand, and differ from a table only in the slots named. -/
def Work.signsOk (defs : Tab SignDef) (w : Work) : Prop :=
  signDefsOk w.signs = true ∧ ∀ i, i ∉ w.named → Tab.get defs i = Tab.get w.signs i

theorem Check.signsOk_iff (defs : Tab SignDef) (c : Check) : Check.signsOk defs c = true ↔ c.work.signsOk defs := by
  unfold Check.signsOk Work.signsOk
  rw [Bool.and_eq_true, List.all_eq_true]
  refine and_congr Iff.rfl ⟨fun h i hi => ?_, fun h i _ => ?_⟩
  · by_cases hk : i ∈ Tab.keys defs ++ Tab.keys c.work.signs
    · simpa [hi] using h i hk
    · rw [List.mem_append, not_or] at hk
      rw [Tab.get_eq_none_of_notMem hk.1, Tab.get_eq_none_of_notMem hk.2]
  · by_cases hn : i ∈ c.work.named
    · simp [hn]
    · simp [hn, h i hn]

theorem State.signsOk_iff (s : State) : s.signsOk = true
    ↔ signDefsOk s.signDefs = true ∧ ∀ c, s.lane.batch.check = some c → c.work.signsOk s.signDefs := by
  unfold State.signsOk
  rw [Bool.and_eq_true, Option.all_eq_true]
  exact and_congr Iff.rfl (forall_congr' fun c => imp_congr Iff.rfl (Check.signsOk_iff _ c))

theorem Work.signsOk_marks {off : Nat} {defs : Tab SignDef} {w w' : Work} (h : w.marks off w') (hw : w.signsOk defs) :
    w'.signsOk defs := by
  obtain ⟨hd, hn⟩ := hw
  cases h with
  | keeps hs hn' ht => unfold Work.signsOk; rw [hs, hn']; exact ⟨hd, hn⟩
  | puts i d hdef ha =>
    refine ⟨signDefsOk_set hdef (fun j e he hj => ha _ (Tab.mem_of_get he) hj) hd, fun j hj => ?_⟩
    simp only [mem_insertIndex, not_or] at hj
    rw [hn j hj.2, Tab.get_set, if_neg hj.1]
  | drops i =>
    refine ⟨signDefsOk_del i hd, fun j hj => ?_⟩
    simp only [mem_insertIndex, not_or] at hj
    rw [hn j hj.2, Tab.get_del, if_neg hj.1]

section Acts

variable {s t : State}

theorem signsOk_congr (h1 : t.signDefs = s.signDefs) (h2 : t.lane.batch = s.lane.batch) (hs : s.signsOk = true) :
    t.signsOk = true := by
  rw [State.signsOk_iff] at hs ⊢; rw [h1, h2]; exact hs

theorem signDefs_congr (h : t.signs = s.signs) : t.signDefs = s.signDefs := by unfold State.signDefs; rw [h]

theorem SignAct.signDefs (h : SignAct s t) (hs : Tab.sorted s.signDefs = true) : t.signDefs = s.signDefs := by
  rcases h.signs with h | ⟨i, g, g', hg, hd, -, h⟩
  · exact signDefs_congr h
  · rw [signDefs_congr (s := s.setSign i g') h]
    exact signDefs_setSign_same hs (Tab.get_of_mem (by rwa [sorted_signDefs] at hs) hg) hd

theorem workingCopy_signsOk (s : State) (h : signDefsOk s.signDefs = true) : s.workingCopy.signsOk s.signDefs :=
  ⟨h, fun _ _ => rfl⟩

theorem LaneAct.signsOk (h : LaneAct s t) (hs : s.signsOk = true) : t.signsOk = true := by
  have hdefs : t.signDefs = s.signDefs := signDefs_congr h.signs
  rw [State.signsOk_iff] at hs ⊢
  obtain ⟨hd, hc⟩ := hs
  refine ⟨hdefs ▸ hd, fun c' hc' => ?_⟩
  rw [hdefs]
  cases h with
  | begins es n hb hn hw => cases hc'; exact workingCopy_signsOk s hd
  | simulates k off e hn =>
    have hw := hc k (by rw [(nextEntry_eq_some hn).1]; rfl)
    cases hc'
    cases ho : simulate s.setup.retain off e k.work with
    | refused code first => exact hw
    | passed w => exact Work.signsOk_marks (simulate_marks ho) hw
  | results => cases hc'
  | passes k hb he => cases hc'; exact hc _ (by rw [hb]; rfl)
  | releases n => cases hc'
  | _ => exact hc c' hc'

theorem signDefs_map_credits (s : State) (f : Nat × Sign → Sign) (hf : ∀ e, (f e).defn = e.2.defn) :
    State.signDefs { s with signs := s.signs.map fun (e : Nat × Sign) => (e.1, f e) } = s.signDefs := by
  simp only [State.signDefs, List.map_map]
  exact List.map_congr_left fun e _ => by simp [hf]

theorem signDefs_capCredits (s : State) (k : SignKind) (cap : Nat) (u : SetupLogic) :
    State.signDefs { s with setup := u, signs := capCredits k cap s.signs } = s.signDefs :=
  (signDefs_congr rfl).trans (signDefs_map_credits s
    (fun e => if e.2.defn.kind = k && cap < e.2.credits then { e.2 with credits := cap } else e.2)
    fun _ => by dsimp only; split <;> rfl)

theorem refillSign_defn (u : SetupLogic) (now : Nat) (g : Sign) : (refillSign u now g).defn = g.defn := by
  unfold refillSign; split <;> rfl

theorem signDefs_refills (s : State) (c : ClockUnit) :
    State.signDefs { s with
      clock := c, signs := s.signs.map fun (e : Nat × Sign) => (e.1, refillSign s.setup s.clock.now e.2) } = s.signDefs :=
  (signDefs_congr rfl).trans (signDefs_map_credits s (fun e => refillSign s.setup s.clock.now e.2)
    fun _ => refillSign_defn _ _ _)

theorem signs_applied (s : State) (w : Work) : (s.applied w).signs = ((s.storeApplied w).changeSigns w).signs := by
  obtain ⟨d, hd⟩ := markedApplied_eq ((s.storeApplied w).changeSigns w) s w
  rw [applied_eq, hd]; rfl

/-- The sign definitions an apply step leaves are the working copy's (R41). -/
theorem signDefs_applied {w : Work} (hs : signDefsOk s.signDefs = true) (hw : w.signsOk s.signDefs) :
    (s.applied w).signDefs = w.signs := by
  rw [signDefs_congr (signs_applied s w)]
  exact signDefs_changeSigns (s := s.storeApplied w) hs hw.1 hw.2

theorem SetupAct.signsOk (h : SetupAct s t) (hs : s.signsOk = true) : t.signsOk = true := by
  cases h with
  | fillNext k it rest hw hp hk hs' =>
    obtain ⟨b, q, st, he⟩ := fillEntered_eq s it rest
    rw [he]; exact signsOk_congr rfl rfl hs
  | fillLast k it rest hw hp hk hs' =>
    obtain ⟨b, q, st, he⟩ := fillEntered_eq s it rest
    rw [he]; exact signsOk_congr rfl rfl hs
  | kind k p hp => exact signsOk_congr (signDefs_capCredits s k p.cap _) rfl hs
  | refills c => exact signsOk_congr (signDefs_refills s c) rfl hs
  | minute c d h =>
    rw [State.signsOk_iff] at hs
    obtain ⟨hd, hc⟩ := hs
    rcases startOver_eq { s with
      clock := c
      store :=
        { sessions := retired s.setup.retain s.clock.now s.store.sessions
          rooms := deriveAll (retired s.setup.retain s.clock.now s.store.sessions) s.clock.now s.store.rooms }
      comp := { s.comp with dirty := d } } with ⟨hb, ho⟩ | ⟨k, hb, ho⟩
    · rw [ho, State.signsOk_iff]
      exact ⟨hd, hc⟩
    · rw [ho, State.signsOk_iff]
      refine ⟨hd, fun k' hk' => ?_⟩
      cases hk'
      exact workingCopy_signsOk s hd
  | applies c h =>
    rw [State.signsOk_iff] at hs
    obtain ⟨hd, hc⟩ := hs
    have hw := hc c (by rw [h]; rfl)
    rw [State.signsOk_iff]
    refine ⟨?_, fun k hk => by cases hk⟩
    have : ((s.applied c.work).setBatch .resulting).signDefs = c.work.signs := signDefs_applied hd hw
    rw [this]
    exact hw.1
  | _ => exact signsOk_congr rfl rfl hs

theorem StartAct.signsOk (h : StartAct s t) (hs : s.signsOk = true) : t.signsOk = true := by
  cases h with
  | pins p h => exact signsOk_congr rfl rfl hs
  | straps p b hg ha hp hh => exact signsOk_congr rfl rfl hs
  | _ => rfl

theorem Act.signsOk {P : Prop} (h : Act P s t) (hs : s.signsOk = true) : t.signsOk = true := by
  cases h with
  | path h => exact signsOk_congr (signDefs_congr h.signs) (by rw [h.lane]) hs
  | sign h =>
    exact signsOk_congr (h.signDefs ((signDefsOk_iff _).1 ((State.signsOk_iff s).1 hs).1).1) (by rw [h.lane]) hs
  | cache h => exact signsOk_congr (signDefs_congr h.signs) (by rw [h.lane]) hs
  | lane h => exact h.signsOk hs
  | setup h => exact h.signsOk hs
  | start h => exact h.signsOk hs
  | hands h => exact signsOk_congr (signDefs_congr h.signs) (by rw [h.lane]) hs

end Acts

end Sys2Proof.Machine
end

section
/-! Setup values in their ranges and credits within their caps, kept by every act (R104 to R107, R187, R190). -/

namespace Sys2Proof.Machine

variable {s t : State}

/-! ## Setup values -/

theorem SetupLogic.inRange_iff (u : SetupLogic) : u.inRange = true
    ↔ (u.kinds.door.inRange = true ∧ u.kinds.corridor.inRange = true ∧ u.kinds.lobby.inRange = true)
      ∧ (∀ n, (u.lines.get n).inRange = true)
      ∧ (1 ≤ u.sweepPeriod ∧ u.sweepPeriod ≤ 60 ∧ 1 ≤ u.presenceInterval ∧ u.presenceInterval ≤ 16)
      ∧ u.retain ≤ 240 ∧ u.insistT ≤ 255 ∧ u.restartCount < 65536 := by
  have lines : (∀ n, (u.lines.get n).inRange = true) ↔ u.lines.q0.inRange = true ∧ u.lines.q1.inRange = true
      ∧ u.lines.q2.inRange = true ∧ u.lines.q3.inRange = true :=
    ⟨fun h => ⟨h 0, h 1, h 2, h 3⟩, fun h n => by
      obtain ⟨h0, h1, h2, h3⟩ := h
      match n with
      | 0 => exact h0
      | 1 => exact h1
      | 2 => exact h2
      | 3 => exact h3⟩
  rw [lines]
  simp only [SetupLogic.inRange, Bool.and_eq_true, decide_eq_true_eq]
  tauto

/-- Setup values that differ in none of the ranged ones are in range alike. -/
theorem inRange_congr {u v : SetupLogic} (h1 : v.kinds = u.kinds) (h2 : v.lines = u.lines)
    (h3 : v.sweepPeriod = u.sweepPeriod) (h4 : v.presenceInterval = u.presenceInterval) (h5 : v.retain = u.retain)
    (h6 : v.insistT = u.insistT) (h7 : v.restartCount = u.restartCount) (h : u.inRange = true) : v.inRange = true := by
  rw [SetupLogic.inRange_iff] at h ⊢
  rwa [h1, h2, h3, h4, h5, h6, h7]

theorem inRange_setKind {u : SetupLogic} (k : SignKind) {p : KindParams} (hp : p.inRange = true) (h : u.inRange = true) :
    SetupLogic.inRange { u with kinds := u.kinds.set k p } = true := by
  rw [SetupLogic.inRange_iff] at h ⊢
  obtain ⟨⟨hd, hc, hl⟩, hrest⟩ := h
  refine ⟨?_, hrest⟩
  cases k with
  | door => exact ⟨hp, hc, hl⟩
  | corridor => exact ⟨hd, hp, hl⟩
  | lobby => exact ⟨hd, hc, hp⟩

theorem SetupAct.inRange (h : SetupAct s t) (hs : s.setup.inRange = true) : t.setup.inRange = true := by
  cases h with
  | values u h => exact h.2.2.2 hs
  | kind k p hp => exact inRange_setKind k hp hs
  | fillNext k it rest hw hp hk hs' =>
    obtain ⟨b, q, st, he⟩ := fillEntered_eq s it rest
    rw [he]; exact hs
  | fillLast k it rest hw hp hk hs' =>
    obtain ⟨b, q, st, he⟩ := fillEntered_eq s it rest
    rw [he]; exact hs
  | minute c d h =>
    rw [startOver_frame]; exact hs
  | applies c h => rw [applied_frame]; exact hs
  | _ => exact hs

theorem restart_inRange (h : s.setup.inRange = true) : s.restart.setup.inRange = true := by
  rw [SetupLogic.inRange_iff] at h ⊢
  obtain ⟨hk, hl, hw, hr, hi, -⟩ := h
  exact ⟨hk, hl, hw, hr, hi, Nat.mod_lt _ (by decide)⟩

theorem StartAct.inRange (h : StartAct s t) (hs : s.setup.inRange = true) : t.setup.inRange = true := by
  cases h with
  | starts p b m => rfl
  | restarts => exact restart_inRange hs
  | blocks p => exact inRange_congr rfl rfl rfl rfl rfl rfl rfl hs
  | _ => exact hs

theorem Act.inRange {P : Prop} (h : Act P s t) (hs : s.setup.inRange = true) : t.setup.inRange = true := by
  cases h with
  | path h => rw [h.setup]; exact hs
  | sign h => rw [h.setup]; exact hs
  | cache h => rw [h.setup]; exact hs
  | lane h => rw [h.setup]; exact hs
  | setup h => exact h.inRange hs
  | start h => exact h.inRange hs
  | hands h => rw [h.setup]; exact hs

/-! ## Credits -/

theorem State.creditsOk_iff (s : State) : s.creditsOk = true
    ↔ ∀ e ∈ s.signs, e.2.credits ≤ (s.setup.paramsOf e.2.defn).cap := by
  simp only [State.creditsOk, List.all_eq_true, decide_eq_true_eq]

theorem creditsOk_congr (h1 : t.signs = s.signs) (h2 : t.setup.kinds = s.setup.kinds) (h : s.creditsOk = true) :
    t.creditsOk = true := by
  rw [State.creditsOk_iff] at h ⊢
  rw [h1]
  unfold SetupLogic.paramsOf at h ⊢
  rw [h2]
  exact h

theorem creditsOk_of_empty (h : t.signs = []) : t.creditsOk = true := by
  rw [State.creditsOk_iff, h]; simp

/-- One sign's record changes, and its credits stay within the cap of its definition. -/
theorem creditsOk_set {i : Nat} {g : Sign} (h1 : t.signs = Tab.set s.signs i g) (h2 : t.setup.kinds = s.setup.kinds)
    (hg : g.credits ≤ (s.setup.paramsOf g.defn).cap) (h : s.creditsOk = true) : t.creditsOk = true := by
  rw [State.creditsOk_iff] at h ⊢
  intro e he
  rw [h1] at he
  unfold SetupLogic.paramsOf at h hg ⊢
  rw [h2]
  rcases Tab.mem_set he with rfl | he
  · exact hg
  · exact h e he

theorem creditsOk_sublist (h1 : t.signs.Sublist s.signs) (h2 : t.setup.kinds = s.setup.kinds) (h : s.creditsOk = true) :
    t.creditsOk = true := by
  rw [State.creditsOk_iff] at h ⊢
  intro e he
  unfold SetupLogic.paramsOf at h ⊢
  rw [h2]
  exact h e (h1.subset he)

theorem SignAct.creditsOk (h : SignAct s t) (hs : s.creditsOk = true) : t.creditsOk = true := by
  rcases h.signs with h' | ⟨i, g, g', hg, hd, hc, h'⟩
  · exact creditsOk_congr h' (by rw [h.setup]) hs
  · refine creditsOk_set h' (by rw [h.setup]) ?_ hs
    rw [hd]
    exact hc.trans ((State.creditsOk_iff s).1 hs (i, g) hg)

/-- A KIND word's credits: those of the kind come down to the new cap, the others keep theirs (R105). -/
theorem creditsOk_kind (k : SignKind) (p : KindParams) (h : s.creditsOk = true) :
    State.creditsOk { s with
      setup := { s.setup with kinds := s.setup.kinds.set k p }, signs := capCredits k p.cap s.signs } = true := by
  rw [State.creditsOk_iff] at h ⊢
  intro e he
  obtain ⟨x, hx, rfl⟩ := List.mem_map.1 he
  have kinds : ∀ k', (s.setup.kinds.set k p).get k' = if k' = k then p else s.setup.kinds.get k' := by
    intro k'; cases k <;> cases k' <;> rfl
  have defn : (if x.2.defn.kind = k && p.cap < x.2.credits then { x.2 with credits := p.cap } else x.2).defn = x.2.defn := by
    split <;> rfl
  simp only [SetupLogic.paramsOf, defn, kinds]
  by_cases hk : x.2.defn.kind = k
  · rw [if_pos hk]
    by_cases hc : p.cap < x.2.credits
    · simp [hk, hc]
    · simp only [hk, hc, decide_false, Bool.and_false, Bool.false_eq_true, if_false]
      omega
  · simp only [hk, decide_false, Bool.false_and, Bool.false_eq_true, if_false]
    exact h x hx

/-- A refill gives a credit below the cap only (R106). -/
theorem creditsOk_refills (c : ClockUnit) (h : s.creditsOk = true) :
    State.creditsOk { s with
      clock := c, signs := s.signs.map fun (e : Nat × Sign) => (e.1, refillSign s.setup s.clock.now e.2) } = true := by
  rw [State.creditsOk_iff] at h ⊢
  intro e he
  obtain ⟨x, hx, rfl⟩ := List.mem_map.1 he
  simp only [refillSign_defn]
  have := h x hx
  unfold refillSign
  split
  · rename_i hr
    simp only [Bool.and_eq_true, decide_eq_true_eq] at hr
    exact hr.2
  · exact this

theorem creditsOk_changeSlot (defs : Tab SignDef) (dr : List Nat) (i : Nat) (h : s.creditsOk = true) :
    (s.changeSlot defs dr i).creditsOk = true := by
  have hk : (s.changeSlot defs dr i).setup.kinds = s.setup.kinds := by rw [setup_changeSlot]
  rcases changeSlot_signs s defs dr i with ⟨-, h' | ⟨-, h'⟩⟩ | ⟨g, hg, h'⟩
  · exact creditsOk_sublist (by rw [h']; exact Tab.del_sublist _ _) hk h
  · exact creditsOk_congr h' hk h
  · exact creditsOk_set h' hk (slotAfter_credits hg).le h

theorem creditsOk_changeSigns (w : Work) (h : s.creditsOk = true) : (s.changeSigns w).creditsOk = true := by
  unfold State.changeSigns
  generalize w.named = l
  induction l generalizing s with
  | nil => exact h
  | cons i l ih => exact ih (creditsOk_changeSlot _ _ i h)

theorem SetupAct.creditsOk (h : SetupAct s t) (hs : s.creditsOk = true) : t.creditsOk = true := by
  cases h with
  | values u h => exact creditsOk_congr (s := s) rfl h.1 hs
  | kind k p hp => exact creditsOk_kind k p hs
  | refills c => exact creditsOk_refills c hs
  | fillNext k it rest hw hp hk hs' =>
    obtain ⟨b, q, st, he⟩ := fillEntered_eq s it rest
    rw [he]; exact creditsOk_congr rfl rfl hs
  | fillLast k it rest hw hp hk hs' =>
    obtain ⟨b, q, st, he⟩ := fillEntered_eq s it rest
    rw [he]; exact creditsOk_congr rfl rfl hs
  | minute c d h =>
    rw [startOver_frame]; exact creditsOk_congr rfl rfl hs
  | applies c h =>
    refine creditsOk_congr (s := (s.storeApplied c.work).changeSigns c.work) (signs_applied s c.work) ?_
      (creditsOk_changeSigns c.work (creditsOk_congr rfl rfl hs))
    rw [applied_frame, (signsOnly_changeSigns (s.storeApplied c.work) c.work).eq]
    rfl
  | _ => exact creditsOk_congr rfl rfl hs

theorem StartAct.creditsOk (h : StartAct s t) (hs : s.creditsOk = true) : t.creditsOk = true := by
  cases h with
  | pins p h => exact creditsOk_congr rfl rfl hs
  | straps p b hg ha hp hh => exact creditsOk_congr rfl rfl hs
  | _ => exact creditsOk_of_empty rfl

theorem Act.creditsOk {P : Prop} (h : Act P s t) (hs : s.creditsOk = true) : t.creditsOk = true := by
  cases h with
  | path h => exact creditsOk_congr h.signs (by rw [h.setup]) hs
  | sign h => exact h.creditsOk hs
  | cache h => exact creditsOk_congr h.signs (by rw [h.setup]) hs
  | lane h => exact creditsOk_congr h.signs (by rw [h.setup]) hs
  | setup h => exact h.creditsOk hs
  | start h => exact h.creditsOk hs
  | hands h => exact creditsOk_congr h.signs (by rw [h.setup]) hs

end Sys2Proof.Machine
end

section
/-! Records handed, and the form the post queue and the waiting records keep (R165, R169, R178). -/

namespace Sys2Proof.Machine

/-! ## The form of what waits and what is queued -/

/-- A queued entry names a word of the posted span. -/
def PostEntry.inSpan (e : PostEntry) : Prop := 0x500 ≤ e.offset ∧ e.offset < 0x2800 ∧ e.offset % 2 = 0

/-- The records of the start-up fill among those that wait. -/
def fillsOf (w : List Item) : List Item := w.filter fun it => it.producer = .fill

/-- The fill's records that wait fit the phase: the record it is at, at most once, and none without a fill. -/
def StartPhase.admits : StartPhase → List Item → Prop
  | .fill k, l => l.length ≤ 1 ∧ ∀ it ∈ l, it.record = fillRecord k
  | _, l => l = []

theorem State.postsOk_iff (s : State) : s.postsOk = true ↔ (∀ e ∈ s.path.postQueue, e.inSpan)
    ∧ (∀ it ∈ s.post.waiting, it.record.inRange = true) ∧ (∀ it ∈ s.post.backlog, it.record.inRange = true)
    ∧ (∀ it ∈ s.post.backlog, it.producer ≠ .fill) ∧ s.setup.phase.admits (fillsOf s.post.waiting) := by
  have fills : s.fillOk = true ↔ (∀ it ∈ s.post.backlog, it.producer ≠ .fill)
      ∧ s.setup.phase.admits (fillsOf s.post.waiting) := by
    unfold State.fillOk StartPhase.admits fillsOf
    cases s.setup.phase <;> simp [imp_iff_not_or, or_assoc]
  unfold State.postsOk PostEntry.inSpan
  rw [Bool.and_eq_true, Bool.and_eq_true, fills]
  simp only [List.all_append, List.all_eq_true, Bool.and_eq_true, decide_eq_true_eq, and_assoc]

theorem fillsOf_append (v w : List Item) : fillsOf (v ++ w) = fillsOf v ++ fillsOf w := List.filter_append ..

theorem fillsOf_of_ne {it : Item} (h : it.producer ≠ .fill) : fillsOf [it] = [] := by simp [fillsOf, h]

theorem ite_ne {α : Type} {p : Prop} [Decidable p] {a b c : α} (ha : a ≠ c) (hb : b ≠ c) : (if p then a else b) ≠ c := by
  split
  · exact ha
  · exact hb

theorem fillRecord_ne_raise (k : Nat) (f : BitVec 13) : fillRecord k ≠ .raise f := by
  unfold fillRecord
  repeat' apply ite_ne
  all_goals exact Rec.noConfusion

/-- No waiting record of the fill is a raise. -/
theorem StartPhase.admits.not_raise {ph : StartPhase} {l : List Item} (h : ph.admits l) {it : Item} (hi : it ∈ l)
    (f : BitVec 13) : it.record ≠ .raise f := by
  cases ph with
  | fill k => rw [h.2 it hi]; exact fillRecord_ne_raise k f
  | running => rw [h] at hi; cases hi
  | reload k => rw [h] at hi; cases hi

/-- Whether the fill's records fit depends on their number and records alone. -/
theorem StartPhase.admits_congr {ph : StartPhase} {l m : List Item} (h : m.map (·.record) = l.map (·.record))
    (hl : ph.admits l) : ph.admits m := by
  have hlen : m.length = l.length := by simpa using congrArg List.length h
  cases ph with
  | running => exact List.length_eq_zero_iff.1 (by rw [hlen, hl]; rfl)
  | reload k => exact List.length_eq_zero_iff.1 (by rw [hlen, hl]; rfl)
  | fill k =>
    refine ⟨hlen ▸ hl.1, fun it hit => ?_⟩
    have hm : it.record ∈ l.map (·.record) := h ▸ List.mem_map_of_mem hit
    obtain ⟨x, hx, he⟩ := List.mem_map.1 hm
    rw [← he, hl.2 x hx]

/-! ## Raises and echo sections that join what waits -/

/-- A raise that joins one that waits leaves the other records as they are. -/
theorem joinRaise_forall {f : BitVec 13} {Q : Item → Prop} {l w : List Item} (h : joinRaise f l = some w)
    (hq : ∀ it g, Q it → it.record = .raise g → Q { it with record := .raise (g ||| f) }) (hl : ∀ it ∈ l, Q it) :
    ∀ it ∈ w, Q it := by
  induction l generalizing w with
  | nil => cases h
  | cons x t ih =>
    have hx := hl x List.mem_cons_self
    have ht : ∀ it ∈ t, Q it := fun it hit => hl it (List.mem_cons_of_mem _ hit)
    rw [joinRaise] at h
    split at h
    · rename_i g hg
      cases h
      intro it hit
      rcases List.mem_cons.1 hit with rfl | hit
      · exact hq x g hx hg
      · exact ht it hit
    · cases hj : joinRaise f t with
      | none => rw [hj] at h; cases h
      | some v =>
        rw [hj] at h
        cases h
        intro it hit
        rcases List.mem_cons.1 hit with rfl | hit
        · exact hx
        · exact ih hj ht it hit

theorem joinRaise_fills {f : BitVec 13} {l w : List Item} (h : joinRaise f l = some w)
    (hl : ∀ it ∈ fillsOf l, ∀ g, it.record ≠ .raise g) : fillsOf w = fillsOf l := by
  induction l generalizing w with
  | nil => cases h
  | cons x t ih =>
    have ht : ∀ it ∈ fillsOf t, ∀ g, it.record ≠ .raise g := fun it hit => hl it (by
      unfold fillsOf at hit ⊢
      exact List.mem_filter.2 ⟨List.mem_cons_of_mem _ (List.mem_filter.1 hit).1, (List.mem_filter.1 hit).2⟩)
    rw [joinRaise] at h
    split at h
    · rename_i g hg
      cases h
      have hp : x.producer ≠ .fill := fun hp => hl x (by simp [fillsOf, hp]) g hg
      simp [fillsOf, hp]
    · cases hj : joinRaise f t with
      | none => rw [hj] at h; cases h
      | some v =>
        rw [hj] at h
        cases h
        have := ih hj ht
        unfold fillsOf at this ⊢
        rw [List.filter_cons, List.filter_cons, this]

/-- A raise handed leaves the other records that wait as they are. -/
theorem raised_forall (f : BitVec 13) {Q : Item → Prop} {l : List Item}
    (hr : Q { producer := .post, record := .raise f, raises := 0 })
    (hq : ∀ it g, Q it → it.record = .raise g → Q { it with record := .raise (g ||| f) }) (hl : ∀ it ∈ l, Q it) :
    ∀ it ∈ raised f l, Q it := by
  unfold raised
  split
  · exact hl
  · cases hj : joinRaise f l with
    | some w => exact joinRaise_forall hj hq hl
    | none =>
      intro it hit
      rcases List.mem_append.1 hit with hit | hit
      · exact hl it hit
      · rw [List.mem_singleton.1 hit]; exact hr

theorem raised_fills (f : BitVec 13) {l : List Item} (hl : ∀ it ∈ fillsOf l, ∀ g, it.record ≠ .raise g) :
    fillsOf (raised f l) = fillsOf l := by
  unfold raised
  split
  · rfl
  · cases hj : joinRaise f l with
    | some w => exact joinRaise_fills hj hl
    | none => simp [fillsOf]

/-- A posting of a section that waits keeps its block and its record. -/
theorem joinEcho_map {β : Type} (c : Item → β) (hc : ∀ it f, c { it with raises := f } = c it) {sec : Section}
    {f : BitVec 13} {l w : List Item} (h : joinEcho sec f l = some w) : w.map c = l.map c := by
  induction l generalizing w with
  | nil => cases h
  | cons x t ih =>
    rw [joinEcho] at h
    split at h
    · cases h; simp [hc]
    · cases hj : joinEcho sec f t with
      | none => rw [hj] at h; cases h
      | some v => rw [hj] at h; cases h; simp [ih hj]

/-! ## What a record lays out -/

theorem entriesFrom_length (o : Nat) (ws : List Word) : (entriesFrom o ws).length = ws.length := by
  induction ws generalizing o with
  | nil => rfl
  | cons w t ih => simp [entriesFrom, ih]

theorem mem_entriesFrom {o : Nat} {ws : List Word} {e : PostEntry} (h : e ∈ entriesFrom o ws) :
    o ≤ e.offset ∧ e.offset < o + 2 * ws.length ∧ e.offset % 2 = o % 2 := by
  induction ws generalizing o with
  | nil => cases h
  | cons w t ih =>
    rw [entriesFrom] at h
    rcases List.mem_cons.1 h with rfl | h
    · simp
    · obtain ⟨h1, h2, h3⟩ := ih h
      simp only [List.length_cons]
      omega

/-- A record's words are as many as the places it needs (R169, R170). -/
theorem recordWords_length (s : State) (r : Rec) : (recordWords s r).length = recordSize r := by
  cases r with
  | echo sec => cases sec <;> rfl
  | room i => cases h : s.room i <;> simp [recordWords, recordLayout, recordSize, roomBody, h]
  | health i => cases h : s.sign i <;> simp [recordWords, recordLayout, recordSize, healthBody, h]
  | _ => rfl

/-- A record whose place lies in its area lies in the posted span (section 12.2). -/
theorem recordLayout_inSpan (s : State) {r : Rec} (h : r.inRange = true) :
    0x500 ≤ (recordLayout s r).1 ∧ (recordLayout s r).1 + 2 * recordSize r ≤ 0x2800 ∧ (recordLayout s r).1 % 2 = 0 := by
  cases r with
  | echo sec => cases sec <;> simp [recordLayout, recordSize, Section.offset]
  | laneResult n r ends => simp only [recordLayout, recordSize, laneResultOffset]; omega
  | ringEntry p sign room minute count =>
    simp only [Rec.inRange, decide_eq_true_eq] at h
    simp only [recordLayout, recordSize, ringEntryOffset]; omega
  | ringCount p count =>
    simp only [Rec.inRange, decide_eq_true_eq] at h
    simp only [recordLayout, recordSize, ringEntryOffset]; omega
  | room i =>
    simp only [Rec.inRange, decide_eq_true_eq] at h
    simp only [recordLayout, recordSize, roomOffset]; omega
  | health i =>
    simp only [Rec.inRange, decide_eq_true_eq] at h
    simp only [recordLayout, recordSize, healthOffset]; omega
  | _ => simp [recordLayout, recordSize, flagsOffset, enableEchoOffset, guardOffset, ringWriteOffset, readCountOffset]

theorem enqueued_inSpan {s : State} {r : Rec} (h : r.inRange = true) {e : PostEntry}
    (he : e ∈ entriesFrom (recordLayout s r).1 (recordWords s r)) : e.inSpan := by
  obtain ⟨h1, h2, h3⟩ := mem_entriesFrom he
  obtain ⟨l1, l2, l3⟩ := recordLayout_inSpan s h
  rw [recordWords_length] at h2
  exact ⟨by omega, by omega, by omega⟩

/-! ## Hands -/

section Hands

variable {P : Prop} {s t u : State}

theorem Hands.refl (P : Prop) (s : State) : Hands P s s := ⟨rfl, id, fun _ => id⟩

theorem Hands.trans (h1 : Hands P s t) (h2 : Hands P t u) : Hands P s u where
  frame := by
    have e2 := h2.frame
    rw [h1.frame] at e2
    exact e2
  fits := h2.fits ∘ h1.fits
  posts hp := h2.posts hp ∘ h1.posts hp

/-- A run of hand-offs is one. -/
theorem Hands.foldl {β : Type} (f : State → β → State) (Q : State → β → Prop) (l : List β)
    (h : ∀ s b, Q s b → Hands P s (f s b)) (hq : ∀ s t b, Hands P s t → Q s b → Q t b) (hs : ∀ b ∈ l, Q s b) :
    Hands P s (l.foldl f s) := by
  induction l generalizing s with
  | nil => exact .refl P s
  | cons b l ih =>
    have h1 := h s b (hs b List.mem_cons_self)
    exact h1.trans (ih fun c hc => hq _ _ _ h1 (hs c (List.mem_cons_of_mem _ hc)))

/-- The records that wait change, and only they: those of the fill as before, each in its range. -/
theorem Hands.setWaiting {w : List Item}
    (hr : P → (∀ it ∈ s.post.waiting, it.record.inRange = true) → ∀ it ∈ w, it.record.inRange = true)
    (hf : P → s.setup.phase.admits (fillsOf s.post.waiting) → s.setup.phase.admits (fillsOf w)) :
    Hands P s (s.setWaiting w) where
  frame := rfl
  fits := id
  posts hp h := by
    rw [State.postsOk_iff] at h ⊢
    obtain ⟨hq, hw, hb, hbf, hfill⟩ := h
    exact ⟨hq, hr hp hw, hb, hbf, hf hp hfill⟩

/-- A record joins the end of the waiting records. -/
theorem Hands.push {it : Item} (hp : it.producer ≠ .fill) (hr : P → it.record.inRange = true) :
    Hands P s (s.setWaiting (s.post.waiting ++ [it])) := by
  refine .setWaiting (fun hP h x hx => ?_) fun _ h => ?_
  · rcases List.mem_append.1 hx with hx | hx
    · exact h x hx
    · rw [List.mem_singleton.1 hx]; exact hr hP
  · rw [fillsOf_append, fillsOf_of_ne hp, List.append_nil]; exact h

/-- A record joins those its block has still to hand. -/
theorem Hands.later {it : Item} (hp : it.producer ≠ .fill) (hr : P → it.record.inRange = true) :
    Hands P s { s with post := { s.post with backlog := s.post.backlog ++ [it] } } where
  frame := rfl
  fits := id
  posts hP h := by
    rw [State.postsOk_iff] at h ⊢
    obtain ⟨hq, hw, hb, hbf, hfill⟩ := h
    refine ⟨hq, hw, fun x hx => ?_, fun x hx => ?_, hfill⟩
    · rcases List.mem_append.1 hx with hx | hx
      · exact hb x hx
      · rw [List.mem_singleton.1 hx]; exact hr hP
    · rcases List.mem_append.1 hx with hx | hx
      · exact hbf x hx
      · rw [List.mem_singleton.1 hx]; exact hp

theorem Hands.raise (f : BitVec 13) : Hands P s (s.handRaise f) := by
  rw [handRaise_eq]
  refine .setWaiting (fun _ h => ?_) fun _ h => ?_
  · exact raised_forall (Q := fun it => it.record.inRange = true) f rfl (fun _ _ _ _ => rfl) h
  · rw [raised_fills f fun it hit g => h.not_raise hit g]; exact h

/-- The first waiting record is taken, and is not the fill's. -/
theorem Hands.pop {it : Item} {rest : List Item} (hw : s.post.waiting = it :: rest) (hp : it.producer ≠ .fill) :
    Hands P s (s.setWaiting rest) := by
  refine .setWaiting (fun _ h x hx => h x (by rw [hw]; exact List.mem_cons_of_mem _ hx)) fun _ h => ?_
  have : fillsOf s.post.waiting = fillsOf rest := by rw [hw]; simp [fillsOf, hp]
  rwa [this] at h

theorem Hands.next {p : Producer} (hp : p ≠ .fill) : Hands P s (s.handNext p) := by
  unfold State.handNext
  split
  · rename_i it hf
    have hmem := List.mem_of_find?_eq_some hf
    have hprod : it.producer = p := by simpa using List.find?_some hf
    refine ⟨rfl, id, fun _ h => ?_⟩
    rw [State.postsOk_iff] at h ⊢
    obtain ⟨hq, hw, hb, hbf, hfill⟩ := h
    refine ⟨hq, fun x hx => ?_, fun x hx => hb x (List.mem_of_mem_erase hx), fun x hx => hbf x (List.mem_of_mem_erase hx), ?_⟩
    · rcases List.mem_append.1 hx with hx | hx
      · exact hw x hx
      · rw [List.mem_singleton.1 hx]; exact hb it hmem
    · show s.setup.phase.admits (fillsOf (s.post.waiting ++ [it]))
      rw [fillsOf_append, fillsOf_of_ne (by rw [hprod]; exact hp), List.append_nil]; exact hfill
  · exact .refl P s

/-- A record enters a queue that has its places (R169). -/
theorem Hands.enqueue {r : Rec} (hf : s.hasPlaces (recordSize r) = true) (hr : P → r.inRange = true) :
    Hands P s (s.enqueue r) where
  frame := rfl
  fits _ := by
    simp only [State.hasPlaces, decide_eq_true_eq] at hf
    simp only [State.postQueueFits, State.enqueue, List.length_append, entriesFrom_length, recordWords_length,
      decide_eq_true_eq]
    exact hf
  posts hP h := by
    rw [State.postsOk_iff] at h ⊢
    obtain ⟨hq, hrest⟩ := h
    refine ⟨fun e he => ?_, hrest⟩
    rcases List.mem_append.1 he with he | he
    · exact hq e he
    · exact enqueued_inSpan (hr hP) he

/-- The first waiting record enters the queue (R169). -/
theorem Hands.taken {it : Item} {rest : List Item} (hw : s.post.waiting = it :: rest) (hp : it.producer ≠ .fill)
    (hf : s.hasPlaces (recordSize it.record) = true) : Hands P s ((s.setWaiting rest).enqueue it.record) where
  frame := rfl
  fits h := (Hands.enqueue (P := False) (s := s.setWaiting rest) hf False.elim).fits h
  posts hP h := by
    have hr : it.record.inRange = true := by
      rw [State.postsOk_iff] at h
      exact h.2.1 it (by rw [hw]; exact List.mem_cons_self)
    exact (Hands.enqueue (P := P) (s := s.setWaiting rest) hf fun _ => hr).posts hP ((Hands.pop hw hp).posts hP h)

/-! ## Hands beside what hand-offs leave alone -/

theorem Hands.setEngine (h : Hands P s t) (n : Fin 4) (e : Engine) : Hands P (s.setEngine n e) (t.setEngine n e) where
  frame := by rw [h.frame]; rfl
  fits hf := h.fits hf
  posts hP hp := h.posts hP hp

theorem Hands.setBatch (h : Hands P s t) (b : Batch) : Hands P (s.setBatch b) (t.setBatch b) where
  frame := by rw [h.frame]; rfl
  fits hf := h.fits hf
  posts hP hp := h.posts hP hp

/-! ## Records handed -/

/-- A record enters and its block hands its next: all but what an engine makes of it. -/
theorem Hands.entered {it : Item} (hf : s.hasPlaces (recordSize it.record) = true) (hp : it.producer ≠ .fill)
    (hr : P → it.record.inRange = true) :
    Hands P s (((s.enqueue it.record).handRaise it.raises).handNext it.producer) :=
  ((Hands.enqueue hf hr).trans (.raise _)).trans (.next hp)

/-- The engine a record tells that it has entered. -/
def Producer.settles : Producer → Option (Fin 4)
  | .engine n => some n
  | .ring n => some n
  | _ => none

/-- A record that enters: its block hands its next, and the engine it tells settles. -/
theorem enter_eq (s : State) {it : Item} (hp : it.producer ≠ .fill) : s.enter it
    = match it.producer.settles with
      | some n => (((s.enqueue it.record).handRaise it.raises).handNext it.producer).settleEngine n
      | none => ((s.enqueue it.record).handRaise it.raises).handNext it.producer := by
  unfold State.enter State.afterEnter
  rw [postsOnly_readyForLast s hp]
  rcases it with ⟨p, r, f⟩
  cases p with
  | fill => exact absurd rfl hp
  | _ => rfl

/-- A record is handed; then the engine it tells may settle. -/
theorem hand_hands (s : State) {it : Item} (hp : it.producer ≠ .fill) (hr : P → it.record.inRange = true) :
    ∃ u, Hands P s u ∧ (s.hand it = u ∨ ∃ n, it.producer.settles = some n ∧ s.hand it = u.settleEngine n) := by
  rcases hand_cases s it with ⟨-, -, hf, h⟩ | ⟨-, -, h⟩ | h
  · refine ⟨_, Hands.entered hf hp hr, ?_⟩
    rw [h, enter_eq s hp]
    cases hn : it.producer.settles with
    | none => exact .inl rfl
    | some n => exact .inr ⟨n, rfl, rfl⟩
  · exact ⟨_, .later hp hr, .inl h⟩
  · exact ⟨_, .push hp hr, .inl h⟩

/-- An engine not FINISHING does not settle. -/
theorem settleEngine_of_ne {n : Fin 4} (h : (s.engine n).state ≠ .finishing) : s.settleEngine n = s := by
  simp [State.settleEngine, h]

theorem Hands.engine (h : Hands P s t) (n : Fin 4) : t.engine n = s.engine n := by rw [h.frame]; rfl

/-- A record of a block that tells no FINISHING engine. -/
theorem Hands.hand {it : Item} (hp : it.producer ≠ .fill) (hr : P → it.record.inRange = true)
    (hn : ∀ n, it.producer.settles = some n → (s.engine n).state ≠ .finishing) : Hands P s (s.hand it) := by
  obtain ⟨u, hu, h | ⟨n, hs, h⟩⟩ := hand_hands s hp hr
  · rw [h]; exact hu
  · rw [h, settleEngine_of_ne (by rw [hu.engine]; exact hn n hs)]; exact hu

/-- Slots of the sign table are below 512, as far as `P` says it. -/
def State.slotsFit (s : State) : Prop := ∀ i ∈ Tab.keys s.signs, i < 512

theorem mem_slotsOf {s old : State} {i : Nat} (h : i ∈ slotsOf s old) : i ∈ Tab.keys s.signs ∨ i ∈ Tab.keys old.signs := by
  unfold slotsOf at h
  revert h
  generalize Tab.keys old.signs = l
  induction l with
  | nil => exact .inl
  | cons j l ih =>
    intro h
    rcases (mem_insertIndex _ _ _).1 h with rfl | h
    · exact .inr List.mem_cons_self
    · exact (ih h).imp id (List.mem_cons_of_mem _)

theorem Hands.health {old : State} {p : Producer} (hp : p ≠ .fill) (hs : P → s.slotsFit) (ho : P → old.slotsFit)
    (hn : ∀ n, p.settles = some n → (s.engine n).state ≠ .finishing) (raises : Tab (BitVec 13)) (changed : Nat → Bool) :
    Hands P s (s.handHealth old p raises changed) := by
  unfold State.handHealth
  refine Hands.foldl _ (fun t i => (P → i < 512) ∧ ∀ n, p.settles = some n → (t.engine n).state ≠ .finishing) _
    (fun t i hi => .hand hp (fun hP => by simpa [Rec.inRange] using hi.1 hP) hi.2)
    (fun t u i h hi => ⟨hi.1, fun n hn => by rw [h.engine]; exact hi.2 n hn⟩)
    fun i hi => ⟨fun hP => ?_, hn⟩
  rcases mem_slotsOf (List.mem_filter.1 hi).1 with h | h
  · exact hs hP i h
  · exact ho hP i h

theorem Hands.echo {sec : Section} {f : BitVec 13} : Hands P s (s.handEcho sec f) := by
  unfold State.handEcho
  split
  · split
    · rename_i w hw
      have hrec := joinEcho_map (·.record) (fun _ _ => rfl) hw
      have hfill : (fillsOf w).map (·.record) = (fillsOf s.post.waiting).map (·.record) := by
        have hboth := joinEcho_map (fun it => (it.producer, it.record)) (fun _ _ => rfl) hw
        have split : ∀ l : List Item, (fillsOf l).map (·.record)
            = ((l.map fun it => (it.producer, it.record)).filter fun x => x.1 = .fill).map (·.2) := by
          intro l
          simp only [fillsOf, List.filter_map, List.map_map, Function.comp_def]
        rw [split, split, hboth]
      refine .setWaiting (fun _ h it hit => ?_) fun _ h => StartPhase.admits_congr hfill h
      have hm : it.record ∈ s.post.waiting.map (·.record) := hrec ▸ List.mem_map_of_mem hit
      obtain ⟨x, hx, he⟩ := List.mem_map.1 hm
      rw [← he]; exact h x hx
    · exact .hand (by simp) (fun _ => rfl) (by simp [Producer.settles])
  · exact .raise f

theorem Hands.syncEcho (old : State) (f : BitVec 13) : Hands P s (s.syncEcho old f) := by
  unfold State.syncEcho
  refine Hands.foldl _ (fun _ _ => True) _ (fun t sec _ => ?_) (fun _ _ _ _ _ => trivial) fun _ _ => trivial
  split
  · exact .echo
  · split
    · exact .raise f
    · exact .refl P t

theorem Hands.syncRooms (old : State) (h : P → ∀ e ∈ s.store.rooms, e.1 < 256) : Hands P s (s.syncRooms old) := by
  unfold State.syncRooms
  refine Hands.foldl _ (fun _ e => P → e.1 < 256) _
    (fun t e he => .hand (by simp) (fun hP => by simpa [Rec.inRange] using he hP) (by simp [Producer.settles]))
    (fun _ _ _ _ => id) fun e he hP => h hP e (List.mem_filter.1 he).1

theorem Hands.slotsFit (h : Hands P s t) (hs : s.slotsFit) : t.slotsFit := by unfold State.slotsFit; rw [h.signs]; exact hs

theorem Hands.syncSigns (old : State) (hs : P → s.slotsFit) (ho : P → old.slotsFit) : Hands P s (s.syncSigns old) := by
  have h1 := Hands.health (P := P) (s := s) (old := old) (p := .signTable) (by simp) hs ho (by simp [Producer.settles]) []
    fun i => tableBody (s.sign i) ≠ tableBody (old.sign i)
  exact h1.trans (.health (by simp) (fun hP => h1.slotsFit (hs hP)) ho (by simp [Producer.settles]) _ _)

theorem Hands.guard (a : Nat) (b : Bool) :
    Hands P { s with post := { s.post with guardAddress := a, guardByte := b } } (s.dropGuarded a b) := by
  unfold State.dropGuarded
  dsimp only
  split
  · exact .refl P _
  · exact .hand (by simp) (fun _ => rfl) (by simp [Producer.settles])

end Hands

end Sys2Proof.Machine
end

section
/-! Chains of acts, and the operations of the blocks as such chains. -/

namespace Sys2Proof.Machine

variable {P : Prop} {s t u : State}

/-! ## Chains -/

theorem Acts.path (h : PathAct s t) : Acts P s t := .single (.path h)
theorem Acts.sign (h : SignAct s t) : Acts P s t := .single (.sign h)
theorem Acts.cache (h : CacheAct s t) (ha : P → s.active = true) : Acts P s t := .single (.cache h ha)
theorem Acts.lane (h : LaneAct s t) (ha : P → s.active = true) : Acts P s t := .single (.lane h ha)
theorem Acts.setup (h : SetupAct s t) : Acts P s t := .single (.setup h)
theorem Acts.start (h : StartAct s t) (ha : P → t.active = s.active) : Acts P s t := .single (.start h ha)
theorem Hands.acts (h : Hands P s t) : Acts P s t := .single (.hands h)
theorem Acts.rfl {P : Prop} {s : State} : Acts P s s := Relation.ReflTransGen.refl
theorem Acts.trans (h1 : Acts P s t) (h2 : Acts P t u) : Acts P s u := Relation.ReflTransGen.trans h1 h2

/-- What holds at the start of a chain and is kept by each act holds at its end. -/
theorem Acts.keeps {Q : State → Prop} (hQ : ∀ s t, Act P s t → Q s → Q t) (h : Acts P s t) (hs : Q s) : Q t := by
  induction h with
  | refl => exact hs
  | tail _ h ih => exact hQ _ _ h ih

theorem SetupAct.pins (h : SetupAct s t) : t.pins = s.pins := by
  cases h with
  | fillNext k it rest hw hp hk hs =>
    obtain ⟨b, q, st, he⟩ := fillEntered_eq s it rest
    rw [he]; rfl
  | fillLast k it rest hw hp hk hs =>
    obtain ⟨b, q, st, he⟩ := fillEntered_eq s it rest
    rw [he]
  | minute c d h => rw [startOver_frame]
  | applies c h => rw [applied_frame]; rfl
  | _ => rfl

theorem active_congr (h : t.pins = s.pins) : t.active = s.active := by unfold State.active; rw [h]

/-- A part stays active, or held, through its acts. -/
theorem Act.active (h : Act P s t) (hP : P) : t.active = s.active := by
  cases h with
  | path h => exact active_congr h.pins
  | sign h => exact active_congr h.pins
  | cache h => exact active_congr h.pins
  | lane h => exact active_congr h.pins
  | setup h => exact active_congr h.pins
  | start h ha => exact ha hP
  | hands h => exact active_congr h.pins

/-- What the records handed are claimed to keep rests on: the store, the signs and the call ring hold what they may hold, and
the part is active. -/
structure State.known (s : State) : Prop where
  storeOk : s.storeOk = true
  signsOk : s.signsOk = true
  ringOk : s.post.ringOk = true
  active : s.active = true

theorem Acts.known (h : Acts P s t) (hP : P) : s.known → t.known :=
  h.keeps fun _ _ h ⟨h1, h2, h3, h4⟩ => ⟨h.storeOk h1, h.signsOk h2, h.ringOk h3, (h.active hP).trans h4⟩

theorem State.known.slotsFit (h : s.known) : s.slotsFit := by
  have hd := ((signDefsOk_iff _).1 ((State.signsOk_iff s).1 h.signsOk).1).2.1
  intro i hi
  obtain ⟨e, he, rfl⟩ := List.mem_map.1 hi
  have := hd (e.1, e.2.defn) (List.mem_map.2 ⟨e, he, rfl⟩)
  simp only [signDefOk, Bool.and_eq_true, decide_eq_true_eq] at this
  omega

theorem State.known.roomsFit (h : s.known) : ∀ e ∈ s.store.rooms, e.1 < 256 := by
  have hr := ((State.storeOk_iff s).1 h.storeOk).2.1
  rw [roomsOk_iff] at hr
  intro e he
  have := hr.2 e he
  simp only [roomOk, Bool.and_eq_true, decide_eq_true_eq] at this
  omega

/-- A run of operations that are chains is a chain. -/
theorem acts_foldl {β : Type} (f : State → β → State) (Q : β → Prop) (l : List β)
    (h : ∀ s b, Q b → Acts P s (f s b)) (hl : ∀ b ∈ l, Q b) (s : State) : Acts P s (l.foldl f s) := by
  induction l generalizing s with
  | nil => exact .rfl
  | cons b l ih =>
    exact (h s b (hl b List.mem_cons_self)).trans (ih (fun c hc => hl c (List.mem_cons_of_mem _ hc)) _)

theorem acts_foldl_known {β : Type} (f : State → β → State) (l : List β)
    (h : ∀ s b, (P → s.known) → Acts P s (f s b)) (s : State) (hs : P → s.known) : Acts P s (l.foldl f s) := by
  induction l generalizing s with
  | nil => exact .rfl
  | cons b l ih =>
    have h1 := h s b hs
    exact h1.trans (ih _ fun hP => h1.known hP (hs hP))

/-! ## Records of engines -/

/-- An engine that has no work left, or the work it had. -/
theorem acts_setEngine (n : Fin 4) (e : Engine) (ho : Tab.sorted (s.engine n).owed = true → Tab.sorted e.owed = true)
    (hw : s.fitsWork n e) : Acts P s (s.setEngine n e) := .sign (.engine n e ho hw)

/-- An engine's work stays while its state does. -/
theorem fitsWork_of_state {n : Fin 4} {e : Engine} (h : e.state = (s.engine n).state) : s.fitsWork n e := by
  refine .inr (.inl ⟨?_, ?_⟩)
  · unfold Engine.servesSlot; rw [h]
  · unfold Engine.sendsFace; rw [h]

/-- An engine that serves no sign. -/
theorem fitsWork_of_none {n : Fin 4} {e : Engine} (h : e.servesSlot = none) : s.fitsWork n e := .inl h

theorem acts_settleEngine (n : Fin 4) : Acts P s (s.settleEngine n) := by
  unfold State.settleEngine
  dsimp only
  split
  · exact acts_setEngine n _ id (fitsWork_of_none rfl)
  · exact .rfl

theorem acts_hand {it : Item} (hp : it.producer ≠ .fill) (hr : P → it.record.inRange = true) : Acts P s (s.hand it) := by
  obtain ⟨u, hu, h | ⟨n, -, h⟩⟩ := hand_hands s hp hr
  · rw [h]; exact hu.acts
  · rw [h]; exact hu.acts.trans (acts_settleEngine n)

theorem acts_health {old : State} {p : Producer} (hp : p ≠ .fill) (hs : P → s.known) (ho : P → old.known)
    (raises : Tab (BitVec 13)) (changed : Nat → Bool) : Acts P s (s.handHealth old p raises changed) := by
  refine acts_foldl _ (fun i => P → i < 512) _
    (fun t i hi => acts_hand hp fun hP => by simpa [Rec.inRange] using hi hP) (fun i hi hP => ?_) s
  rcases mem_slotsOf (List.mem_filter.1 hi).1 with h | h
  · exact (hs hP).slotsFit i h
  · exact (ho hP).slotsFit i h

theorem acts_syncHealth {old : State} {p : Producer} (hp : p ≠ .fill) (hs : P → s.known) (ho : P → old.known)
    (always : List Nat) (raises : Tab (BitVec 13)) : Acts P s (s.syncHealth old p always raises) :=
  acts_health hp hs ho _ _

/-! ## The dirty set -/

theorem sortedIndices_iff (l : List Nat) : sortedIndices l = true ↔ l.Pairwise (· < ·) := by
  rw [← List.isChain_iff_pairwise]
  induction l with
  | nil => simp [sortedIndices]
  | cons x l ih =>
    cases l with
    | nil => simp [sortedIndices]
    | cons y l => simp [sortedIndices, ih]

theorem sortedIndices_insertIndex (i : Nat) {l : List Nat} (h : sortedIndices l = true) :
    sortedIndices (insertIndex i l) = true := by
  rw [sortedIndices_iff] at h ⊢
  induction l with
  | nil => simp [insertIndex]
  | cons x l ih =>
    rw [List.pairwise_cons] at h
    unfold insertIndex
    split
    · rename_i hx
      exact List.pairwise_cons.2 ⟨fun y hy => by
        rcases List.mem_cons.1 hy with rfl | hy
        · exact hx
        · exact hx.trans (h.1 y hy), List.pairwise_cons.2 h⟩
    · split
      · exact List.pairwise_cons.2 h
      · exact List.pairwise_cons.2 ⟨fun y hy => by
          rcases (mem_insertIndex _ _ _).1 hy with rfl | hy
          · omega
          · exact h.1 y hy, ih h.2⟩

theorem sortedIndices_filter (p : Nat → Bool) {l : List Nat} (h : sortedIndices l = true) :
    sortedIndices (l.filter p) = true := by
  rw [sortedIndices_iff] at h ⊢
  exact h.filter p

/-- Only the dirty set differs, and it is in order if it was. -/
def State.dirtied (s t : State) : Prop :=
  ∃ d, t = s.setDirty d ∧ (sortedIndices s.comp.dirty = true → sortedIndices d = true)

theorem State.dirtied.refl (s : State) : s.dirtied s := ⟨s.comp.dirty, rfl, id⟩

theorem State.dirtied.trans (h1 : s.dirtied t) (h2 : t.dirtied u) : s.dirtied u := by
  obtain ⟨d, rfl, h⟩ := h1
  obtain ⟨e, rfl, h'⟩ := h2
  exact ⟨e, rfl, h' ∘ h⟩

theorem State.dirtied.acts (h : s.dirtied t) : Acts P s t := by
  obtain ⟨d, rfl, h⟩ := h
  exact .sign (.dirty d h)

theorem dirtied_foldl {β : Type} (f : State → β → State) (h : ∀ (s : State) b, s.dirtied (f s b)) (l : List β) (s : State) :
    s.dirtied (l.foldl f s) := by
  induction l generalizing s with
  | nil => exact .refl s
  | cons b l ih => exact (h s b).trans (ih _)

theorem dirtied_markDirty (s : State) (i : Nat) : s.dirtied (s.markDirty i) := by
  unfold State.markDirty
  split
  · exact ⟨_, rfl, sortedIndices_insertIndex i⟩
  · exact .refl s

theorem dirtied_markWhere (s : State) (p : Nat × Sign → Bool) : s.dirtied (s.markWhere p) :=
  dirtied_foldl (fun (t : State) (e : Nat × Sign) => t.markDirty e.1) (fun t e => dirtied_markDirty t e.1) _ s

theorem dirtied_markAll (s : State) : s.dirtied s.markAll := dirtied_markWhere s _

theorem dirtied_clean (s : State) (i : Nat) : s.dirtied (s.clean i) := ⟨_, rfl, sortedIndices_filter _⟩

theorem dirtied_markRoomChanges (s old : State) : s.dirtied (s.markRoomChanges old) :=
  dirtied_foldl _ (fun t _ => dirtied_markWhere t _) _ s

theorem dirtied_markText (s : State) (l : Nat) : s.dirtied (s.markText l) := dirtied_markWhere s _

/-! ## Compositions -/

/-- The health records of a composition that has ended. -/
theorem acts_syncClosed {old : State} (n : Option (Fin 4)) (hs : P → s.known) (ho : P → old.known) :
    Acts P s (s.syncClosed old n) := by
  unfold State.syncClosed
  have h1 := acts_health (P := P) (s := s) (old := old) (p := .credit) (by simp) hs ho []
    fun i => listedBody (s.sign i) ≠ listedBody (old.sign i)
  cases n with
  | none => exact h1
  | some n => exact h1.trans (acts_health (by simp) (fun hP => h1.known hP (hs hP)) ho _ _)

theorem acts_closeComposition {c : Composition} (hc : s.comp.composition = some c) (hs : P → s.known) :
    Acts P s (s.closeComposition c) :=
  have h1 : Acts P s (s.endComposition c) := .sign (.ends c hc)
  h1.trans (acts_syncClosed _ (fun hP => h1.known hP (hs hP)) hs)

theorem acts_advance (hs : P → s.known) : Acts P s s.advance := by
  unfold State.advance
  split
  · exact .rfl
  · rename_i c hc
    have h1 : Acts P s (s.coursed c) := .cache (.courses c hc) fun hP => (hs hP).active
    dsimp only
    split
    · exact h1.trans (acts_closeComposition (s := s.coursed c) rfl fun hP => h1.known hP (hs hP))
    · exact h1

theorem acts_resumeComposition (hs : P → s.known) : Acts P s s.resumeComposition := by
  unfold State.resumeComposition
  split
  · rename_i c hc
    split
    · exact acts_closeComposition hc hs
    · exact .rfl
  · exact .rfl

theorem acts_afterCredit (p : Producer) (hs : P → s.known) : Acts P s (s.afterCredit p) := by
  unfold State.afterCredit
  split
  · exact acts_resumeComposition hs
  · exact .rfl

theorem acts_beginComposition {i : Nat} {g : Sign} {n : Option (Fin 4)} (hg : s.sign i = some g)
    (hn : n = none → g.state ≠ .sending) (hs : P → s.known) : Acts P s (s.beginComposition i g n) := by
  have h1 : Acts P s (s.clean i) := (dirtied_clean s i).acts
  have h2 : Acts P (s.clean i) _ := .sign (.begins i g n hg hn)
  have h3 := (h1.trans h2).trans (Acts.cache (.touches (textLinesOf (composeFace s.selection g.defn)))
    fun hP => ((h1.trans h2).known hP (hs hP)).active)
  exact h3.trans (acts_advance fun hP => h3.known hP (hs hP))

/-- The search of the dirty set drops signs from it and takes one that is not SENDING (R98). -/
theorem searchDirty_spec (l : List Nat) (s : State) : s.dirtied (searchDirty l s).1
    ∧ ∀ i g, (searchDirty l s).2 = some (i, g) → s.sign i = some g ∧ g.state ≠ .sending ∧ g.state ≠ .lost := by
  induction l generalizing s with
  | nil => exact ⟨.refl s, fun i g h => by cases h⟩
  | cons j l ih =>
    unfold searchDirty
    split
    · obtain ⟨h1, h2⟩ := ih (s.clean j)
      exact ⟨(dirtied_clean s j).trans h1, h2⟩
    · rename_i g hg
      split
      · exact ih s
      · rename_i hsend
        split
        · obtain ⟨h1, h2⟩ := ih (s.clean j)
          exact ⟨(dirtied_clean s j).trans h1, h2⟩
        · rename_i hlost
          exact ⟨.refl s, fun i g' h => by cases h; exact ⟨hg, hsend, hlost⟩⟩

theorem acts_serveDirty (hs : P → s.known) : Acts P s s.serveDirty := by
  unfold State.serveDirty
  obtain ⟨h1, h2⟩ := searchDirty_spec (searchOrder s.comp.servicePos s.comp.dirty) s
  dsimp only
  split
  · exact h1.acts
  · rename_i i g hig
    obtain ⟨hg, hsend, -⟩ := h2 i g hig
    obtain ⟨d, hd, -⟩ := id h1
    have h3 := (h1.acts (P := P)).trans (Acts.sign (.arbiter i (searchDirty (searchOrder s.comp.servicePos s.comp.dirty) s).1.comp.lastServed))
    refine h3.trans (acts_beginComposition ?_ (fun _ => hsend) fun hP => h3.known hP (hs hP))
    rw [hd]; exact hg

theorem acts_serveRequest (n : Fin 4) (i : Nat) (hs : P → s.known) : Acts P s (s.serveRequest n i) := by
  unfold State.serveRequest
  split
  · exact .rfl
  · rename_i g hg
    have h1 : Acts P s _ := .sign (.arbiter s.comp.servicePos n)
    exact h1.trans (acts_beginComposition hg (fun h => by cases h) fun hP => h1.known hP (hs hP))

end Sys2Proof.Machine
end

section
/-! The memory path, the lanes and the text pool as chains of acts (Chapters 2, 4, 9). -/

namespace Sys2Proof.Machine

variable {P : Prop} {s t u : State}

/-! ## Own accesses but the reload's -/

theorem acts_turns (p : PathUnit) (h : s.path.turns p) : Acts P s { s with path := p } := .path (.turns p h)

theorem noteChoice_eq (s : State) (b : Bool) :
    ∃ c, s.noteChoice b = { s with path := { s.path with lastChoicePost := c } } := by
  unfold State.noteChoice
  split
  · exact ⟨_, rfl⟩
  · exact ⟨s.path.lastChoicePost, rfl⟩

/-- An own access begins and ends, the choice before it noted. -/
theorem acts_ownAccess_made (s : State) (b : Bool) : Acts P s (s.noteChoice b).ownAccessMade := by
  obtain ⟨c, hc⟩ := noteChoice_eq s b
  rw [hc]
  exact acts_turns _ ⟨rfl, rfl, rfl, fun _ => Nat.zero_le _⟩

theorem acts_makePostWrite : Acts P s s.makePostWrite := by
  unfold State.makePostWrite
  split
  · exact .rfl
  · rename_i e q hq
    have h1 := acts_ownAccess_made (P := P) s true
    obtain ⟨c, hc⟩ := noteChoice_eq s true
    dsimp only
    rw [hc] at h1 ⊢
    exact h1.trans (Acts.path (.drains e q hq))

theorem acts_makeFillRead (hs : P → s.known) : Acts P s s.makeFillRead := by
  unfold State.makeFillRead
  split
  · exact .rfl
  · rename_i l q hq
    have h1 := acts_ownAccess_made (P := P) s false
    obtain ⟨c, hc⟩ := noteChoice_eq s false
    dsimp only
    rw [hc] at h1 ⊢
    split
    · rename_i hf
      exact h1.trans (Acts.cache (.skips l q hq hf) fun hP => (h1.known hP (hs hP)).active)
    · rename_i f hf
      split
      · rename_i hl
        exact h1.trans (Acts.cache (.reads l q f hq hf hl) fun hP => (h1.known hP (hs hP)).active)
      · rename_i hl
        have h2 := h1.trans (Acts.cache (.arrives l q f hq hf hl) fun hP => (h1.known hP (hs hP)).active)
        exact h2.trans (acts_advance fun hP => h2.known hP (hs hP))

/-! ## Host writes to lanes -/

theorem acts_dropGuarded (a : Nat) (b : Bool) : Acts P s (s.dropGuarded a b) :=
  (Acts.path (.guards a b)).trans (Hands.guard a b).acts

theorem acts_promoteHead (hs : P → s.known) : Acts P s s.promoteHead := by
  unfold State.promoteHead
  split
  · rename_i n rest hr hc
    split
    · rename_i hq
      exact .lane (.promotes n rest hc hr hq) fun hP => (hs hP).active
    · exact .rfl
  · exact .rfl

/-- An even offset of the region that is no entry word and no pool word. -/
theorem outside_region {o : Nat} (he : o % 2 = 0) (hlane : ∀ (n : Fin 4) (k : Nat), k < 127 → o ≠ laneOffset n k)
    (hpool : o < 0x4000 ∨ 0x10000 ≤ o) : s.outside (s.regionAddress o) := by
  refine ⟨?_, fun n k hk h => hlane n k hk ?_, fun l i hl hi h => ?_⟩
  · unfold State.regionAddress; omega
  · unfold State.regionAddress at h; omega
  · unfold State.regionAddress poolOffset at h; omega

theorem outside_postWord (n : Fin 4) : s.outside (s.regionAddress (laneOffset n 127)) := by
  refine outside_region (by unfold laneOffset; omega) (fun m k hk h => ?_) (.inl (by unfold laneOffset; omega))
  unfold laneOffset at h; omega

theorem acts_postLaneResult (n : Fin 4) (r : LaneResult) (hs : P → s.known) : Acts P s (s.postLaneResult n r) := by
  unfold State.postLaneResult
  split
  · exact acts_hand (by simp) fun _ => rfl
  · exact .lane (.holds n _) fun hP => (hs hP).active

theorem acts_judgePostWord {n : Fin 4} (ho : (s.laneAt n).state = .opened) (q : Byte) (e : Nat)
    (hs : P → s.known) :
    Acts P s (s.judgePostWord n q e) := by
  unfold State.judgePostWord
  dsimp only
  split
  · exact acts_postLaneResult n _ hs
  · rename_i hj
    have h1 : Acts P s _ := .lane (.accepts n q e ho hj) fun hP => (hs hP).active
    exact h1.trans (acts_promoteHead fun hP => h1.known hP (hs hP))

theorem acts_captureByteAt {n : Fin 4} {k : Nat} (d : Drive) (hk : k < 127) (ho : (s.laneAt n).state = .opened)
    (hs : P → s.known) :
    Acts P s ((s.forward (s.regionAddress (laneOffset n k)) d).captureByteAt n k d) := by
  have h1 : Acts P s _ := .lane (.capturesByte n k s.freeIndex d hk ho) fun hP => (hs hP).active
  unfold State.captureByteAt
  dsimp only
  split
  · exact h1
  · exact h1.trans (Acts.path (.free _))

theorem acts_laneWrite {n : Fin 4} {k : Nat} (hk : k ≤ 127) (d : Drive) (hs : P → s.known) : Acts P s (s.laneWrite n k d) := by
  unfold State.laneWrite
  dsimp only
  split
  · exact acts_dropGuarded _ _
  · rename_i ho
    replace ho := not_not.1 ho
    have post : ∀ d', ¬ k < 127 → Acts P s (s.forward (s.regionAddress (laneOffset n k)) d') := fun d' hlt => by
      obtain rfl : k = 127 := by omega
      exact .path (.forwards _ d' (outside_postWord n))
    cases d with
    | neither => exact .rfl
    | low v =>
      dsimp only
      split
      · exact acts_captureByteAt _ ‹_› ho hs
      · exact post _ ‹_›
    | high v =>
      dsimp only
      split
      · exact acts_captureByteAt _ ‹_› ho hs
      · exact post _ ‹_›
    | both v =>
      dsimp only
      split
      · rename_i hlt
        exact .lane (.captures n k v hlt ho) fun hP => (hs hP).active
      · rename_i hlt
        have h1 := post (.both v) hlt
        split
        · exact h1.trans (Acts.lane (.clears n ho) fun hP => (h1.known hP (hs hP)).active)
        · exact h1.trans (acts_judgePostWord (s := s.forward _ _) ho _ _ fun hP => h1.known hP (hs hP))

/-! ## Host writes to the pool -/

theorem acts_poolWrite {o : Nat} (he : o % 2 = 0) (hl : 0x4000 ≤ o) (hh : o < 0x10000) (d : Drive) (hs : P → s.known) :
    Acts P s (s.poolWrite o d) := by
  have ho : o = poolOffset ((o - 0x4000) / 0x20) + 2 * (o % 0x20 / 2) := by unfold poolOffset; omega
  have main : Acts P s ((s.forwardAt o d).snoopLine ((o - 0x4000) / 0x20)) := by
    have h1 : Acts P s _ := .cache (.snoops ((o - 0x4000) / 0x20) (o % 0x20 / 2) d (by omega) (by omega))
      fun hP => (hs hP).active
    rw [← ho] at h1
    have h2 := h1.trans (dirtied_markText _ ((o - 0x4000) / 0x20)).acts
    exact h2.trans (acts_advance fun hP => h2.known hP (hs hP))
  cases d with
  | neither => exact .rfl
  | _ => exact main

/-! ## Host writes to the status area -/

theorem outside_status {o : Nat} (he : o % 2 = 0) (h1 : o < 0x100 ∨ 0x500 ≤ o) (h2 : o < 0x4000 ∨ 0x10000 ≤ o) :
    s.outside (s.regionAddress o) := by
  refine outside_region he (fun n k hk h => ?_) h2
  unfold laneOffset at h; omega

theorem acts_unqueue (o : Nat) : Acts P s (s.unqueue o) := .path (.unqueues o)

theorem acts_ackMerge (d : Drive) : Acts P s (s.ackMerge d) := by
  have main : ∀ f, Acts P s
      (({ s with post := { s.post with flags := f } }.unqueue flagsOffset).forwardAt flagsOffset (.both (flagsWordOf f))) :=
    fun f => ((Acts.path (.flags f)).trans (acts_unqueue _)).trans
      (Acts.path (.forwards _ _ (outside_status (by decide) (by decide) (by decide))))
  cases d with
  | neither => exact .rfl
  | _ => exact main _

theorem acts_readCountWrite (d : Drive) : Acts P s (s.readCountWrite d) := by
  cases d with
  | neither => exact .rfl
  | low v => exact acts_dropGuarded _ _
  | high v => exact acts_dropGuarded _ _
  | both v =>
    unfold State.readCountWrite
    dsimp only
    split
    · rename_i h
      exact ((Acts.path (.consumes (loByte v) h)).trans (acts_unqueue _)).trans
        (Acts.path (.forwards _ _ (outside_status (by decide) (by decide) (by decide))))
    · exact acts_dropGuarded _ _

theorem acts_guardedWriteAt (o : Nat) (d : Drive) : Acts P s (s.guardedWriteAt o d) := by
  cases d with
  | neither => exact .rfl
  | _ => exact acts_dropGuarded _ _

/-! ## Host accesses -/

theorem acts_releaseHold : Acts P s s.releaseHold := acts_turns _ ⟨rfl, rfl, rfl, id⟩

theorem acts_endHost (b : Bool) : Acts P s (s.endHost b) := by
  refine acts_turns _ ⟨rfl, rfl, rfl, fun h => ?_⟩
  dsimp only
  split
  · exact Nat.min_le_left _ _
  · exact h

theorem acts_returnData (a : Nat) (b c : Bool) : Acts P s (s.returnData a b c) := acts_turns _ ⟨rfl, rfl, rfl, id⟩

end Sys2Proof.Machine
end

section
/-! The clock, the setup logic and the plate lines' starts and stops as chains of acts (Chapters 3, 7, 8, 11). -/

namespace Sys2Proof.Machine

variable {P : Prop} {s t u : State}

/-! ## The clock -/

theorem acts_syncEcho (old : State) (f : BitVec 13) : Acts P s (s.syncEcho old f) := (Hands.syncEcho old f).acts

theorem acts_minuteEvent : Acts P s s.minuteEvent := by
  unfold State.minuteEvent
  split
  · exact ((Acts.setup (.clock (countedClock s.clock))).trans (dirtied_markAll _).acts).trans (acts_syncEcho s _)
  · exact .rfl

theorem acts_setMinute (b : Bool) : Acts P s (s.setMinute b) := .start (.pins _ (.inr ⟨rfl, rfl, rfl⟩)) fun _ => rfl

theorem acts_syncRooms (old : State) (hs : P → s.known) : Acts P s (s.syncRooms old) :=
  (Hands.syncRooms old fun hP => (hs hP).roomsFit).acts

theorem acts_answerMinute (hs : P → s.known) : Acts P s s.answerMinute := by
  unfold State.answerMinute
  dsimp only
  obtain ⟨d, hd, hsort⟩ := dirtied_markRoomChanges { s with
    clock := { s.clock with storeSignals := s.clock.storeSignals - 1 }
    store :=
      { sessions := retired s.setup.retain s.clock.now s.store.sessions
        rooms := deriveAll (retired s.setup.retain s.clock.now s.store.sessions) s.clock.now s.store.rooms } } s
  have h1 : Acts P s _ := .setup (.minute { s.clock with storeSignals := s.clock.storeSignals - 1 } d hsort)
  have h2 := h1.trans (acts_syncEcho s 0)
  have h3 := h2.trans (acts_syncRooms s fun hP => h2.known hP (hs hP))
  unfold State.retire
  dsimp only
  rw [hd]
  exact h3

theorem acts_answerRefill (hs : P → s.known) : Acts P s s.answerRefill := by
  unfold State.answerRefill
  have h1 : Acts P s _ := .setup (.refills { s.clock with creditSignals := s.clock.creditSignals - 1 })
  have h2 := h1.trans (dirtied_foldl (fun (x : State) (e : Nat × Sign) => x.markDirty e.1)
    (fun x e => dirtied_markDirty x e.1) (s.signs.filter fun (e : Nat × Sign) => refillWakes s.setup s.clock.now e.2) _).acts
  exact h2.trans (acts_health (by simp) (fun hP => h2.known hP (hs hP)) hs _ _)

/-! ## Setup words -/

theorem field_lt (w : Word) (lo n : Nat) : field w lo n < 2 ^ n := by
  unfold field; exact Nat.mod_lt _ (Nat.two_pow_pos n)

theorem KindParams.inRange_iff (k : KindParams) : k.inRange = true
    ↔ 1 ≤ k.refresh ∧ k.refresh ≤ 60 ∧ 1 ≤ k.cap ∧ k.cap ≤ 15 ∧ 1 ≤ k.period ∧ k.period ≤ 60 := by
  simp only [KindParams.inRange, Bool.and_eq_true, decide_eq_true_eq, and_assoc]

theorem LineParams.inRange_iff (l : LineParams) : l.inRange = true ↔ l.rate ≤ 2 ∧ 1 ≤ l.timeout ∧ l.timeout ≤ 50 := by
  simp only [LineParams.inRange, Bool.and_eq_true, decide_eq_true_eq, and_assoc]

theorem kindOf_inRange (w : Word) : (kindOf w).inRange = true := by
  have h1 := clamp_mem (lo := 1) (hi := 60) (by decide) (field w 0 6)
  have h2 := clamp_mem (lo := 1) (hi := 15) (by decide) (field w 6 4)
  have h3 := clamp_mem (lo := 1) (hi := 60) (by decide) (field w 10 6)
  exact (KindParams.inRange_iff _).2 ⟨h1.1, h1.2, h2.1, h2.2, h3.1, h3.2⟩

theorem lineOf_inRange (w : Word) : (lineOf w).inRange = true := by
  have h1 := clamp_mem (lo := 0) (hi := 2) (by decide) (field w 0 2)
  have h2 := clamp_mem (lo := 1) (hi := 50) (by decide) (field w 2 6)
  exact (LineParams.inRange_iff _).2 ⟨h1.2, h2.1, h2.2⟩

/-- Setup values that differ in none of the ranged ones are taken. -/
theorem takes_of_eq {u v : SetupLogic} (h0 : v.matrix = u.matrix) (hp : v.phase = u.phase) (h1 : v.kinds = u.kinds)
    (h2 : v.lines = u.lines) (h3 : v.sweepPeriod = u.sweepPeriod) (h4 : v.presenceInterval = u.presenceInterval)
    (h5 : v.retain = u.retain) (h6 : v.insistT = u.insistT) (h7 : v.restartCount = u.restartCount) : u.takes v :=
  ⟨h1, h0, hp, inRange_congr h1 h2 h3 h4 h5 h6 h7⟩

theorem takes_takePlain (u : SetupLogic) (p : PlainSetup) (w : Word) : u.takes (u.takePlain p w) := by
  cases p with
  | line n =>
    refine ⟨rfl, rfl, rfl, fun h => ?_⟩
    rw [SetupLogic.inRange_iff] at h ⊢
    obtain ⟨hk, hl, hrest⟩ := h
    refine ⟨hk, fun m => ?_, hrest⟩
    simp only [SetupLogic.takePlain, Quad.get_set]
    split
    · exact lineOf_inRange w
    · exact hl m
  | sweepTiming =>
    refine ⟨rfl, rfl, rfl, fun h => ?_⟩
    rw [SetupLogic.inRange_iff] at h ⊢
    obtain ⟨hk, hl, -, hrest⟩ := h
    have h1 := clamp_mem (lo := 1) (hi := 60) (by decide) (field w 0 6)
    have h2 := clamp_mem (lo := 1) (hi := 16) (by decide) (field w 6 5)
    exact ⟨hk, hl, ⟨h1.1, h1.2, h2.1, h2.2⟩, hrest⟩
  | sweepSelect => exact takes_of_eq rfl rfl rfl rfl rfl rfl rfl rfl rfl
  | retain =>
    refine ⟨rfl, rfl, rfl, fun h => ?_⟩
    rw [SetupLogic.inRange_iff] at h ⊢
    obtain ⟨hk, hl, hw, -, hrest⟩ := h
    exact ⟨hk, hl, hw, (clamp_mem (lo := 0) (hi := 240) (by decide) _).2, hrest⟩
  | insist =>
    refine ⟨rfl, rfl, rfl, fun h => ?_⟩
    rw [SetupLogic.inRange_iff] at h ⊢
    obtain ⟨hk, hl, hw, hr, -, hc⟩ := h
    exact ⟨hk, hl, hw, hr, Nat.le_of_lt_succ (field_lt w 0 8), hc⟩

theorem acts_values (u : SetupLogic) (h : s.setup.takes u) : Acts P s { s with setup := u } := .setup (.values u h)

theorem acts_takeEnable (v : Word) : Acts P s (s.takeEnable v) := by
  unfold State.takeEnable
  dsimp only
  split
  · exact .rfl
  · have h1 : Acts P s { s with setup := { s.setup with enable := setClear s.setup.enable v } } :=
      acts_values _ (takes_of_eq rfl rfl rfl rfl rfl rfl rfl rfl rfl)
    exact h1.trans (acts_hand (it := { producer := .post, record := .enableEcho, raises := 0 }) (by simp) fun _ => rfl)

theorem acts_takeMatrix (v : Word) : Acts P s (s.takeMatrix v) := by
  have h1 : Acts P s { s with setup := { s.setup with pendingMatrix := matrixOf v ≠ s.setup.matrix } } :=
    acts_values _ (takes_of_eq rfl rfl rfl rfl rfl rfl rfl rfl rfl)
  exact h1.trans (acts_syncEcho s 0)

theorem acts_takeStyle (st : RoomState) (v : Word) : Acts P s (s.takeStyle st v) := by
  unfold State.takeStyle
  have h1 : Acts P s { s with setup := { s.setup with styles := s.setup.styles.set st (styleOf v) } } :=
    acts_values _ (takes_of_eq rfl rfl rfl rfl rfl rfl rfl rfl rfl)
  dsimp only
  split
  · exact (h1.trans (dirtied_markAll _).acts).trans (acts_syncEcho s 0)
  · exact h1.trans (acts_syncEcho s 0)

/-- An act of the credit logic or of the setup logic, with the credit logic's records and the echo sections after it. -/
theorem acts_synced (h : Acts P s t) (hs : P → s.known) : Acts P s ((t.syncHealth s .credit).syncEcho s) :=
  (h.trans (acts_syncHealth (p := .credit) nofun (fun hP => h.known hP (hs hP)) hs [] [])).trans (acts_syncEcho s 0)

theorem acts_takeKind (k : SignKind) (v : Word) (hs : P → s.known) : Acts P s (s.takeKind k v) :=
  acts_synced (.setup (.kind k (kindOf v) (kindOf_inRange v))) hs

theorem acts_takePlain (p : PlainSetup) (v : Word) : Acts P s (s.takePlain p v) :=
  (acts_values _ (takes_takePlain s.setup p v)).trans (acts_syncEcho s 0)

/-! ## The reload -/

theorem acts_handFill (h : s.reloading = true) : Acts P s (s.handFill 0) := .setup (.fills h)

theorem setup_syncEcho (s old : State) (f : BitVec 13) : (s.syncEcho old f).setup = s.setup :=
  (Hands.syncEcho (P := False) old f).setup

theorem setup_syncHealth (s old : State) : (s.syncHealth old .credit).setup = s.setup := by
  obtain ⟨-, -, -, -, h, -⟩ := (postsOnly_syncHealth s old (p := .credit) rfl [] []).fields
  exact h

/-- A word read back leaves the reload at its word. -/
theorem reloadWord_phase (w : SetupWord) (v : Word) : (s.reloadWord w v).setup.phase = s.setup.phase := by
  cases w with
  | matrix =>
    unfold State.reloadWord State.reloadMatrix
    dsimp only
    rw [setup_syncEcho]
  | style st =>
    unfold State.reloadWord State.takeStyle
    dsimp only
    rw [setup_syncEcho]
    split
    · obtain ⟨d, hd, -⟩ := dirtied_markAll { s with setup := { s.setup with styles := s.setup.styles.set st (styleOf v) } }
      rw [hd]; rfl
    · rfl
  | kind k =>
    unfold State.reloadWord State.takeKind
    dsimp only
    rw [setup_syncEcho, setup_syncHealth]
  | plain p =>
    unfold State.reloadWord State.takePlain
    dsimp only
    rw [setup_syncEcho]
    cases p <;> rfl
  | _ => rfl

theorem acts_reloadWord (w : SetupWord) (v : Word) (h : s.reloading = true) (hs : P → s.known) :
    Acts P s (s.reloadWord w v) := by
  cases w with
  | matrix => exact (Acts.setup (.matrix v h)).trans (acts_syncEcho s 0)
  | style st => exact acts_takeStyle st v
  | kind k => exact acts_takeKind k v hs
  | plain p => exact acts_takePlain p v
  | _ => exact .rfl

theorem acts_advanceReload (k : Nat) (h : s.reloading = true) : Acts P s (s.advanceReload k) := by
  unfold State.advanceReload
  split
  · exact .setup (.reloads _ h)
  · exact acts_handFill h

theorem acts_makeSetupRead (hs : P → s.known) : Acts P s s.makeSetupRead := by
  unfold State.makeSetupRead
  split
  · rename_i k hk
    have h1 : Acts P s s.ownAccessMade := acts_turns _ ⟨rfl, rfl, rfl, fun _ => Nat.zero_le _⟩
    have hr : s.ownAccessMade.reloading = true := by
      show (match s.setup.phase with | .reload _ => true | _ => false) = true
      rw [hk]
    unfold State.reloadStep
    dsimp only
    split
    · rename_i w hw
      refine (h1.trans (acts_reloadWord w _ hr fun hP => h1.known hP (hs hP))).trans (acts_advanceReload k ?_)
      unfold State.reloading at hr ⊢
      rw [reloadWord_phase]
      exact hr
    · exact h1.trans (acts_advanceReload k hr)
  · exact .rfl

theorem acts_ownAccess (hs : P → s.known) : Acts P s s.ownAccess := by
  unfold State.ownAccess
  split
  · exact acts_makeSetupRead hs
  · exact acts_makePostWrite
  · exact acts_makeFillRead hs
  · exact .rfl

end Sys2Proof.Machine
end

section
/-! The engines, the ports and the call ring as chains of acts (Chapters 7, 8). -/

namespace Sys2Proof.Machine

variable {P : Prop} {s t u : State}

/-! ## Ports -/

theorem acts_setPort (n : Fin 4) (p : Port) : Acts P s (s.setPort n p) := .sign (.ports _)

theorem acts_handToPort (n : Fin 4) : Acts P s (s.handToPort n) := by
  obtain ⟨e, p, h, ho, -, he⟩ := handToPort_eq s n
  rw [h]
  refine (acts_setEngine n e (fun hs => by rw [ho]; exact hs) ?_).trans (acts_setPort n p)
  rcases he with rfl | ⟨x, hx, rfl⟩
  · exact fitsWork_of_state rfl
  · refine .inr (.inl ⟨?_, ?_⟩)
    · simp only [Engine.servesSlot, hx]
    · simp only [Engine.sendsFace, hx]
      cases x <;> rfl

theorem acts_portIdle (n : Fin 4) : Acts P s (s.portIdle n) := (acts_setPort n _).trans (acts_handToPort n)

/-! ## Owed work -/

theorem sorted_owe {l : Tab ClearMask} (a : Nat) (m : ClearMask) (h : Tab.sorted l = true) :
    Tab.sorted (Sys2Proof.Machine.owe l a m) = true := by
  unfold Sys2Proof.Machine.owe
  split <;> exact Tab.sorted_set _ _ h

theorem acts_owe (n : Fin 4) (a : Nat) (m : ClearMask) : Acts P s (s.owe n a m) :=
  acts_setEngine n _ (sorted_owe a m) (fitsWork_of_state rfl)

/-- The entries left of an owed list are its last ones. -/
theorem nextOwed_suffix (n : Fin 4) (l : Tab ClearMask) : (s.nextOwed n l).1 <:+ l := by
  induction l with
  | nil => exact List.suffix_rfl
  | cons e l ih =>
    obtain ⟨a, m⟩ := e
    unfold State.nextOwed
    split
    · split
      · exact ih.trans (List.suffix_cons _ _)
      · exact List.suffix_cons _ _
    · exact ih.trans (List.suffix_cons _ _)

theorem sorted_suffix {α : Type} {l m : Tab α} (h : l <:+ m) (hm : Tab.sorted m = true) : Tab.sorted l = true := by
  rw [Tab.sorted_iff] at hm ⊢
  exact hm.sublist h.sublist

/-- The sign of an address on a line is a defined sign of that line. -/
theorem signAt_spec {n : Fin 4} {a i : Nat} {g : Sign} (h : s.signAt n a = some (i, g)) :
    (i, g) ∈ s.signs ∧ g.defn.line = n ∧ g.defn.address = a := by
  have h1 := List.find?_some h
  simp only [Bool.and_eq_true, decide_eq_true_eq] at h1
  exact ⟨List.mem_of_find?_eq_some h, h1.1, h1.2⟩

/-- Owed work taken is for a sign of the line that is not LOST, at its address (R145). -/
theorem nextOwed_taken {n : Fin 4} {l : Tab ClearMask} {i a : Nat} {m : ClearMask}
    (h : (s.nextOwed n l).2 = some (i, a, m)) : ∃ g, s.signAt n a = some (i, g) ∧ g.state ≠ .lost := by
  induction l with
  | nil => cases h
  | cons e l ih =>
    obtain ⟨b, k⟩ := e
    unfold State.nextOwed at h
    split at h
    · rename_i slot g hg
      split at h
      · exact ih h
      · rename_i hl
        cases h
        exact ⟨g, hg, hl⟩
    · exact ih h

/-! ## The choice of work -/

theorem servesSlot_owed {e : Engine} {i a : Nat} {m : ClearMask} (h : e.state = .ready (owedExchange i a m)) :
    e.servesSlot = some i ∧ e.sendsFace = false := by
  simp only [Engine.servesSlot, Engine.sendsFace, h]
  unfold owedExchange
  split <;> exact ⟨rfl, rfl⟩

theorem exchangeSlot_sweepOf (e : Engine) : exchangeSlot (s.sweepOf e) = none := by
  unfold State.sweepOf
  split <;> rfl

theorem fitsWork_sweep {n : Fin 4} {e e' : Engine} (h : e.state = .ready (s.sweepOf e')) : s.fitsWork n e := by
  refine fitsWork_of_none ?_
  simp only [Engine.servesSlot, h]
  exact exchangeSlot_sweepOf e'

theorem fitsWork_requesting {n : Fin 4} {r : Rank} {i : Nat} (h : s.front n r = some i) (e : Engine)
    (he : e.state = .requesting i) : s.fitsWork n e := by
  refine .inr (.inr ⟨?_, i, ?_, .inr ⟨r, List.mem_of_find?_eq_some h⟩⟩)
  · simp [Engine.sendsFace, he]
  · simp [Engine.servesSlot, he]

theorem acts_chooseWork (n : Fin 4) : Acts P s (s.chooseWork n) := by
  have owed : Tab.sorted (s.engine n).owed = true → Tab.sorted (s.nextOwed n (s.engine n).owed).1 = true :=
    sorted_suffix (nextOwed_suffix n _)
  unfold State.chooseWork
  dsimp only
  split
  · rename_i i a m ho
    obtain ⟨g, hg, -⟩ := nextOwed_taken ho
    obtain ⟨hmem, hline, -⟩ := signAt_spec hg
    refine (acts_setEngine n _ owed (.inr (.inr ⟨?_, i, ?_, .inl ⟨g, hmem, hline⟩⟩))).trans (acts_handToPort n)
    · exact (servesSlot_owed rfl).2
    · exact (servesSlot_owed rfl).1
  split
  · rename_i i hf
    exact acts_setEngine n _ owed (fitsWork_requesting hf _ rfl)
  split
  · exact (acts_setEngine n _ owed (fitsWork_sweep rfl)).trans (acts_handToPort n)
  split
  · rename_i i hf
    exact acts_setEngine n _ owed (fitsWork_requesting hf _ rfl)
  split
  · rename_i i hf
    exact acts_setEngine n _ owed (fitsWork_requesting hf _ rfl)
  · exact acts_setEngine n _ owed (fitsWork_of_state rfl)

/-! ## The flags of a reply -/

theorem Tab.set_set {α : Type} (t : Tab α) (k : Nat) (v w : α) : Tab.set (Tab.set t k v) k w = Tab.set t k w := by
  induction t with
  | nil => simp [Tab.set]
  | cons e t ih =>
    obtain ⟨j, x⟩ := e
    simp only [Tab.set]
    split
    · simp [Tab.set]
    · split
      · simp [Tab.set]
      · rename_i h1 h2
        simp [Tab.set, h1, h2, ih]

@[simp] theorem State.setSign_setSign (s : State) (i : Nat) (g g' : Sign) : (s.setSign i g).setSign i g' = s.setSign i g' := by
  simp [State.setSign, Tab.set_set]

@[simp] theorem State.setEngine_setEngine (s : State) (n : Fin 4) (e e' : Engine) :
    (s.setEngine n e).setEngine n e' = s.setEngine n e' := by simp [State.setEngine]

/-- A sign with the flags of a reply seen (R150). -/
def flagged (g : Sign) (f : SignFlags) : Sign :=
  { g with seen := f, shown := if f.pwr then { g.shown with resync := true } else g.shown }

/-- The presses and the owed work an engine has after the flags of a reply (R150). -/
def flaggedEngine (e : Engine) (g : Sign) (i a : Nat) (mask : ClearMask) (f : SignFlags) : Engine :=
  { e with
    presses := if f.btn && !e.clearsBtn a then e.presses ++ [{ slot := i, address := a }] else e.presses
    owed := if f.jam && (!g.seen.jam || mask.jam) then Sys2Proof.Machine.owe e.owed a { btn := false, jam := true }
      else e.owed }

/-- The flags of a reply: the sign sees them, its engine takes the press and owes the CLEAR of JAM, and after PWR it is dirty. -/
theorem handleFlags_eq {n : Fin 4} {i a : Nat} {mask : ClearMask} {f : SignFlags} {g : Sign} (hg : s.sign i = some g) :
    ∃ v : State, ((s.setSign i (flagged g f)).setEngine n (flaggedEngine (s.engine n) g i a mask f)).dirtied v
      ∧ s.handleFlags n i a mask f = (v, replyRaises g.seen f mask) := by
  have press : (if f.btn && !(s.engine n).clearsBtn a then
        s.updateEngine n fun e => { e with presses := e.presses ++ [{ slot := i, address := a }] } else s)
      = s.setEngine n { s.engine n with presses :=
          if f.btn && !(s.engine n).clearsBtn a then (s.engine n).presses ++ [{ slot := i, address := a }]
          else (s.engine n).presses } := by
    split
    · rfl
    · exact (State.setEngine_engine_self s n).symm
  have mark : ∀ t : State, t.dirtied (if f.pwr then t.markDirty i else t) := fun t => by
    split
    · exact dirtied_markDirty t i
    · exact .refl t
  have jam : ∀ t : State, (if f.jam && (!g.seen.jam || mask.jam) then t.owe n a { btn := false, jam := true } else t)
      = t.setEngine n { t.engine n with owed :=
          if f.jam && (!g.seen.jam || mask.jam) then Sys2Proof.Machine.owe (t.engine n).owed a { btn := false, jam := true }
          else (t.engine n).owed } := fun t => by
    split
    · rfl
    · exact (State.setEngine_engine_self t n).symm
  unfold State.handleFlags
  rw [hg]
  dsimp only
  rw [press]
  generalize hs2 : State.setSign (s.setEngine n _) i _ = s2
  obtain ⟨d, hd, hsort⟩ := mark s2
  rw [hd, jam]
  refine ⟨_, ⟨d, rfl, ?_⟩, ?_⟩
  · subst hs2; exact hsort
  · subst hs2
    congr 1
    simp [State.setEngine, State.setSign, State.setDirty, State.engine, flaggedEngine, flagged]

end Sys2Proof.Machine
end

section
/-! The outcomes of exchanges, lines stopped and started, and presses, as chains of acts (R136, R146, R148 to R160). -/

namespace Sys2Proof.Machine

variable {P : Prop} {s t u : State}

/-- An engine that has acted on an outcome, and whose records and presses have still to be taken (R144). -/
def Engine.finished (e : Engine) : Engine := { e with state := .finishing }

theorem acts_finish (n : Fin 4) : Acts P s (s.setEngine n (s.engine n).finished) :=
  acts_setEngine n _ id (fitsWork_of_none rfl)

/-! ## The end of an outcome -/

theorem State.slotsFit_of_signs (h : t.signs = s.signs) (hs : s.slotsFit) : t.slotsFit := by
  unfold State.slotsFit; rw [h]; exact hs

/-- An outcome acted on as far as a state whose engine then is FINISHING: its records are handed, and the engine settles. -/
theorem acts_endOutcome {n : Fin 4} (hn : (t.engine n).state ≠ .finishing) (h : Acts P s (t.setEngine n (t.engine n).finished))
    (hs : P → s.known) (always : List Nat) (raises : Tab (BitVec 13)) : Acts P s (t.endOutcome s n always raises) := by
  have fit : P → t.slotsFit := fun hP => State.slotsFit_of_signs (s := t.setEngine n (t.engine n).finished) rfl
    (h.known hP (hs hP)).slotsFit
  have hands : Hands P t (t.syncHealth s (.engine n) always raises) :=
    .health (by simp) fit (fun hP => (hs hP).slotsFit) (fun m hm => by cases hm; exact hn) _ _
  have hset := hands.setEngine n (t.engine n).finished
  rw [← hands.engine n] at hset
  rw [← hands.engine n] at h
  exact (h.trans hset.acts).trans (acts_settleEngine n)

/-- An outcome that changes nothing. -/
theorem acts_endOutcome_self {n : Fin 4} (hn : (s.engine n).state ≠ .finishing) (hs : P → s.known) :
    Acts P s (s.endOutcome s n [] []) := acts_endOutcome hn (acts_finish n) hs _ _

/-! ## Flags -/

theorem sorted_flaggedEngine {e : Engine} (g : Sign) (i a : Nat) (mask : ClearMask) (f : SignFlags)
    (h : Tab.sorted e.owed = true) : Tab.sorted (flaggedEngine e g i a mask f).owed = true := by
  unfold flaggedEngine
  dsimp only
  split
  · exact sorted_owe _ _ h
  · exact h

theorem acts_handleFlags {n : Fin 4} {i a : Nat} {mask : ClearMask} {f : SignFlags} {g : Sign} (hg : s.sign i = some g) :
    Acts P s (s.handleFlags n i a mask f).1
      ∧ ((s.handleFlags n i a mask f).1.engine n).state = (s.engine n).state := by
  obtain ⟨v, hv, h⟩ := handleFlags_eq (n := n) (a := a) (mask := mask) (f := f) hg
  rw [h]
  have h1 : Acts P s (s.setSign i (flagged g f)) := .sign (.sign i g _ hg rfl rfl rfl le_rfl)
  have h2 : Acts P (s.setSign i (flagged g f)) _ :=
    acts_setEngine n (flaggedEngine (s.engine n) g i a mask f) (sorted_flaggedEngine _ _ _ _ _) (fitsWork_of_state rfl)
  refine ⟨(h1.trans h2).trans hv.acts, ?_⟩
  obtain ⟨d, rfl, -⟩ := hv
  show (((s.setSign i (flagged g f)).setEngine n (flaggedEngine (s.engine n) g i a mask f)).engine n).state = _
  rw [State.engine_setEngine_self]
  rfl

/-! ## Outcomes of a QUERY or a CLEAR -/

theorem settled_keeps (g : Sign) (q : Byte) : (settled g q).defn = g.defn ∧ (settled g q).state = g.state
    ∧ (settled g q).deferred = g.deferred ∧ (settled g q).credits = g.credits := by
  unfold settled
  split <;> exact ⟨rfl, rfl, rfl, rfl⟩

theorem acts_onStatus {n : Fin 4} (hn : (s.engine n).state ≠ .finishing) (hs : P → s.known) (i a : Nat) (mask : ClearMask)
    (f : SignFlags) (q : Byte) : Acts P s (s.onStatus n i a mask f q) := by
  unfold State.onStatus
  split
  · exact acts_endOutcome_self hn hs
  · rename_i g hg
    obtain ⟨h1, h2, h3, h4⟩ := settled_keeps g q
    have hset : Acts P s (s.setSign i { settled g q with failures := 0 }) := .sign (.sign i g _ hg h1 h2 h3 h4.le)
    have hmark : (s.setSign i { settled g q with failures := 0 }).dirtied (if confirms g q then
        (s.setSign i { settled g q with failures := 0 }).markDirty i else s.setSign i { settled g q with failures := 0 }) := by
      split
      · exact dirtied_markDirty _ i
      · exact .refl _
    dsimp only
    generalize hu : (if confirms g q then _ else _ : State) = u at hmark
    obtain ⟨d, hd, -⟩ := id hmark
    have hgu : u.sign i = some { settled g q with failures := 0 } := by
      rw [hd]; exact Tab.get_set_self _ _ _
    obtain ⟨hf, hst⟩ := acts_handleFlags (P := P) (n := n) (a := a) (mask := mask) (f := f) hgu
    have heng : u.engine n = s.engine n := by rw [hd]; rfl
    refine acts_endOutcome (by rw [hst, heng]; exact hn) ?_ hs _ _
    exact ((hset.trans hmark.acts).trans hf).trans (acts_finish n)

/-- The engine works for a sign: it has an exchange in flight that is not to be ignored. -/
theorem serves_running {n : Fin 4} {x : Exchange} (hx : (s.engine n).state = .running x false) :
    (s.engine n).servesSlot = exchangeSlot x := by simp only [Engine.servesSlot, hx]

/-- The third bad reply in a row (R151). -/
theorem acts_loseSign {n : Fin 4} {x : Exchange} {i a : Nat} {g : Sign} (hx : (s.engine n).state = .running x false)
    (hi : exchangeSlot x = some i) (hg : s.sign i = some g) (hs : P → s.known) (raises : Tab (BitVec 13)) :
    Acts P s ((s.loseSign n i a g).endOutcome s n [] raises) := by
  have he : (s.loseSign n i a g).engine n = { s.engine n with owed := Tab.del (s.engine n).owed a } :=
    State.engine_setEngine_self _ _ _
  refine acts_endOutcome (by rw [he]; simp [hx]) ?_ hs _ _
  rw [he]
  have h : Acts P s (((s.setSign i (lostSign g)).leaveLists g.defn.line i).setEngine n
      (Engine.finished { s.engine n with owed := Tab.del (s.engine n).owed a })) :=
    .sign (.lost n i g _ hg (by rw [serves_running hx, hi]) rfl fun ho => Tab.sorted_del a ho)
  have e : (s.loseSign n i a g).setEngine n (Engine.finished { s.engine n with owed := Tab.del (s.engine n).owed a })
      = ((s.setSign i (lostSign g)).leaveLists g.defn.line i).setEngine n
        (Engine.finished { s.engine n with owed := Tab.del (s.engine n).owed a }) := State.setEngine_setEngine _ _ _ _
  rw [e]; exact h

theorem acts_onBadQuery {n : Fin 4} {x : Exchange} {i : Nat} (hx : (s.engine n).state = .running x false)
    (hi : exchangeSlot x = some i) (hs : P → s.known) (a : Nat) (mask : ClearMask) :
    Acts P s (s.onBadQuery n i a mask) := by
  have hn : (s.engine n).state ≠ .finishing := by simp [hx]
  unfold State.onBadQuery
  split
  · exact acts_endOutcome_self hn hs
  · rename_i g hg
    split
    · exact acts_loseSign hx hi hg hs _
    · have h1 : Acts P s (s.setSign i { g with failures := g.failures + 1 }) :=
        .sign (.sign i g _ hg rfl rfl rfl le_rfl)
      refine acts_endOutcome ?_ ((h1.trans (acts_owe n a mask)).trans (acts_finish n)) hs _ _
      rw [show ((s.setSign i { g with failures := g.failures + 1 }).owe n a mask).engine n = _ from
        State.engine_setEngine_self _ _ _]
      exact hn

/-! ## Outcomes of a FACE -/

theorem sends_running {n : Fin 4} {i a : Nat} {q : Byte} {r : Rank} {rec : FaceRecord} {b : List Byte}
    (hx : (s.engine n).state = .running (.face i a q r rec b) false) :
    (s.engine n).servesSlot = some i ∧ (s.engine n).sendsFace = true := by
  simp only [Engine.servesSlot, Engine.sendsFace, hx]; exact ⟨rfl, trivial⟩

/-- An outcome of a FACE whose reply shows flags: the sign takes its place as the outcome gives it, the engine is FINISHING. -/
theorem acts_flaggedFace {n : Fin 4} {i a : Nat} {g : Sign} {f : SignFlags} (hg : t.sign i = some g)
    (he : t.engine n = s.engine n) (hn : (s.engine n).state ≠ .finishing)
    (h : ∀ e : Engine, e.servesSlot = none → (Tab.sorted (s.engine n).owed = true → Tab.sorted e.owed = true) →
      Acts P s ((t.setSign i (flagged g f)).setEngine n e)) (hs : P → s.known) (raises : Tab (BitVec 13)) :
    Acts P s ((t.handleFlags n i a .query f).1.endOutcome s n [] raises) := by
  obtain ⟨v, ⟨d, rfl, hsort⟩, hv⟩ := handleFlags_eq (n := n) (a := a) (mask := .query) (f := f) hg
  rw [hv]
  generalize hw : ((t.setSign i (flagged g f)).setEngine n (flaggedEngine (t.engine n) g i a .query f)).setDirty d = w
  have hew : w.engine n = flaggedEngine (s.engine n) g i a .query f := by
    rw [← he, ← hw]
    exact State.engine_setEngine_self _ _ _
  refine acts_endOutcome (by rw [hew]; exact hn) ?_ hs _ _
  rw [hew]
  have h1 := h (flaggedEngine (s.engine n) g i a .query f).finished rfl (sorted_flaggedEngine g i a .query f)
  have h2 := h1.trans (Acts.sign (.dirty d hsort))
  have e : w.setEngine n (flaggedEngine (s.engine n) g i a .query f).finished
      = ((t.setSign i (flagged g f)).setEngine n (flaggedEngine (s.engine n) g i a .query f).finished).setDirty d := by
    rw [← hw]
    simp [State.setEngine, State.setDirty]
  rw [e]; exact h2

theorem acts_onAccept {n : Fin 4} {i a a' : Nat} {q : Byte} {r : Rank} {rec : FaceRecord} {b : List Byte}
    (hx : (s.engine n).state = .running (.face i a' q r rec b) false) (hs : P → s.known) (f : SignFlags) :
    Acts P s (s.onAccept n i a rec f) := by
  have hn : (s.engine n).state ≠ .finishing := by simp [hx]
  obtain ⟨hw, hf⟩ := sends_running hx
  unfold State.onAccept
  split
  · exact acts_endOutcome_self hn hs
  · rename_i g hg
    refine acts_flaggedFace (State.sign_setSign_self _ _ _) (State.engine_setSign _ _ _ _) hn (fun e he ho => ?_) hs _
    rw [State.setSign_setSign]
    exact .sign (.accepted n i g _ e hg hw hf rfl rfl rfl (Nat.sub_le _ _) he ho)

theorem sign_returnToHead (s : State) (n : Fin 4) (i j : Nat) (r : Rank) : (s.returnToHead n i r).sign j = s.sign j := rfl
theorem engine_returnToHead (s : State) (n m : Fin 4) (i : Nat) (r : Rank) :
    (s.returnToHead n i r).engine m = s.engine m := rfl
theorem setSign_returnToHead (s : State) (n : Fin 4) (i : Nat) (r : Rank) (g : Sign) :
    (s.returnToHead n i r).setSign i g = (s.setSign i g).returnToHead n i r := rfl

theorem acts_onBusy {n : Fin 4} {i a a' : Nat} {q : Byte} {r : Rank} {rec : FaceRecord} {b : List Byte}
    (hx : (s.engine n).state = .running (.face i a' q r rec b) false) (hs : P → s.known) (f : SignFlags) :
    Acts P s (s.onBusy n i a r f) := by
  have hn : (s.engine n).state ≠ .finishing := by simp [hx]
  obtain ⟨hw, hf⟩ := sends_running hx
  unfold State.onBusy
  split
  · exact acts_endOutcome_self hn hs
  · rename_i g hg
    refine acts_flaggedFace ((sign_returnToHead _ _ _ _ _).trans (State.sign_setSign_self _ _ _))
      ((engine_returnToHead _ _ _ _ _).trans (State.engine_setSign _ _ _ _)) hn (fun e he ho => ?_) hs _
    rw [setSign_returnToHead, State.setSign_setSign]
    exact .sign (.returned n i g _ r e hg hw hf rfl (.inr rfl) rfl rfl he ho)

theorem acts_onBadFace {n : Fin 4} {i a a' : Nat} {q : Byte} {r : Rank} {rec : FaceRecord} {b : List Byte}
    (hx : (s.engine n).state = .running (.face i a' q r rec b) false) (hs : P → s.known) (q' : Byte) :
    Acts P s (s.onBadFace n i a q' r rec) := by
  have hn : (s.engine n).state ≠ .finishing := by simp [hx]
  obtain ⟨hw, hf⟩ := sends_running hx
  unfold State.onBadFace
  split
  · exact acts_endOutcome_self hn hs
  · rename_i g hg
    split
    · exact acts_loseSign hx rfl hg hs _
    · generalize hg1 : ({ g with failures := g.failures + 1, unconfirmed := some (q', rec), state := .pending } : Sign) = g1
      have he : (((s.setSign i g1).returnToHead g.defn.line i r).owe n a .query).engine n
          = { s.engine n with owed := Sys2Proof.Machine.owe (s.engine n).owed a .query } := State.engine_setEngine_self _ _ _
      refine acts_endOutcome (by rw [he]; exact hn) ?_ hs _ _
      rw [he]
      have e : (((s.setSign i g1).returnToHead g.defn.line i r).owe n a .query).setEngine n
          (Engine.finished { s.engine n with owed := Sys2Proof.Machine.owe (s.engine n).owed a .query })
          = ((s.setSign i g1).returnToHead g.defn.line i r).setEngine n
          (Engine.finished { s.engine n with owed := Sys2Proof.Machine.owe (s.engine n).owed a .query }) :=
        State.setEngine_setEngine _ _ _ _
      rw [e]
      subst hg1
      exact .sign (.returned n i g _ r _ hg hw hf rfl (.inl rfl) rfl rfl rfl (sorted_owe a .query))

/-! ## Replies -/

theorem acts_onOutcome {n : Fin 4} {x : Exchange} {b : Bool} (hx : (s.engine n).state = .running x b) (hs : P → s.known)
    (o : ReplyOutcome) : Acts P s (s.onOutcome n x b o) := by
  have hn : (s.engine n).state ≠ .finishing := by simp [hx]
  unfold State.onOutcome
  split
  · exact acts_endOutcome_self hn hs
  · rename_i hb
    obtain rfl : b = false := by simpa using hb
    cases x with
    | sweep pr m p al => exact .rfl
    | query i a =>
      cases o with
      | status f last => exact acts_onStatus hn hs i a .query f last
      | _ => exact acts_onBadQuery hx rfl hs a .query
    | clear i a mask =>
      cases o with
      | status f last => exact acts_onStatus hn hs i a mask f last
      | _ => exact acts_onBadQuery hx rfl hs a mask
    | face i a q r rec body =>
      cases o with
      | accept f => exact acts_onAccept hx hs f
      | busy f => exact acts_onBusy hx hs f
      | _ => exact acts_onBadFace hx hs q

theorem acts_portQuiet (n : Fin 4) (q : QuietKind) : Acts P s (s.portQuiet n q) := acts_setPort n _

theorem acts_takeReply (n : Fin 4) (o : Exchange → ReplyOutcome) (hs : P → s.known) : Acts P s (s.takeReply n o) := by
  unfold State.takeReply
  split
  · rename_i x b hx
    dsimp only
    split
    · have h1 := acts_portQuiet (P := P) (s := s) n (if o x = .bad then QuietKind.afterBad else QuietKind.afterGood)
      exact h1.trans (acts_onOutcome (s := s.portQuiet n _) hx (fun hP => h1.known hP (hs hP)) _)
    · exact .rfl
  · exact .rfl

/-! ## Slot maps -/

theorem acts_handleMark (n : Fin 4) (p : Bool) (m : BitVec 128) (a : Nat) (b : Tab (BitVec 13)) :
    Acts P s (State.handleMark (s, b) n p m a).1 := by
  unfold State.handleMark
  split
  · exact .rfl
  · rename_i i g hg
    obtain ⟨hmem, -, -⟩ := signAt_spec hg
    split
    · rename_i hl
      split
      · have h1 : Acts P s (s.setSign i (backSign s.setup.styles g)) := .sign (.back i g hmem hl)
        exact h1.trans (dirtied_markDirty _ i).acts
      · exact .rfl
    · split
      · exact acts_owe n a .query
      · exact .rfl

end Sys2Proof.Machine
end

section
/-! Slot maps, lines started and stopped, presses and the word CONTROL as chains of acts (R136, R146, R148, R160, R189). -/

namespace Sys2Proof.Machine

variable {P : Prop} {s t u : State}

/-! ## Slot maps -/

theorem handleMark_engine (n m : Fin 4) (p : Bool) (marks : BitVec 128) (a : Nat) (b : Tab (BitVec 13)) :
    ((State.handleMark (s, b) n p marks a).1.engine m).state = (s.engine m).state := by
  have owed : ∀ mask, ((s.owe n a mask).engine m).state = (s.engine m).state := fun mask => by
    unfold State.owe State.updateEngine
    rw [State.engine_setEngine]
    split
    next h => rw [h]
    next => rfl
  unfold State.handleMark
  split
  · rfl
  · rename_i i g hg
    split
    · split
      · obtain ⟨d, hd, -⟩ := dirtied_markDirty (s.setSign i (backSign s.setup.styles g)) i
        dsimp only
        rw [hd]; rfl
      · rfl
    · split
      · exact owed _
      · rfl

/-- The addresses of a slot map, one after the other. -/
theorem acts_marks (n : Fin 4) (p : Bool) (marks : BitVec 128) (l : List Nat) (b : Tab (BitVec 13)) :
    Acts P s (l.foldl (fun a i => State.handleMark a n p marks i) (s, b)).1
      ∧ ∀ m, ((l.foldl (fun a i => State.handleMark a n p marks i) (s, b)).1.engine m).state = (s.engine m).state := by
  induction l generalizing s b with
  | nil => exact ⟨.rfl, fun _ => rfl⟩
  | cons a l ih =>
    obtain ⟨h1, h2⟩ := ih (s := (State.handleMark (s, b) n p marks a).1) (b := (State.handleMark (s, b) n p marks a).2)
    exact ⟨(acts_handleMark n p marks a b).trans h1, fun m => (h2 m).trans (handleMark_engine n m p marks a b)⟩

theorem sweptEngine_keeps (p : Bool) (e : Engine) : (sweptEngine p e).state = e.state ∧ (sweptEngine p e).owed = e.owed := by
  unfold sweptEngine
  split <;> exact ⟨rfl, rfl⟩

theorem acts_onMap (n : Fin 4) (hn : (s.engine n).state ≠ .finishing) (hs : P → s.known) (p : Bool) (marks : BitVec 128) :
    Acts P s (s.onMap n p marks) := by
  unfold State.onMap
  obtain ⟨h1, h2⟩ := acts_marks (P := P) (s := s) n p marks (List.range 128) []
  dsimp only
  generalize (List.range 128).foldl (fun a i => State.handleMark a n p marks i) (s, []) = r at h1 h2
  obtain ⟨hst, how⟩ := sweptEngine_keeps p (r.1.engine n)
  have h3 : Acts P r.1 (r.1.updateEngine n (sweptEngine p)) :=
    acts_setEngine n _ (fun h => by rw [how]; exact h) (fitsWork_of_state hst)
  refine acts_endOutcome ?_ ((h1.trans h3).trans (acts_finish n)) hs _ _
  unfold State.updateEngine
  rw [State.engine_setEngine_self, hst, h2 n]
  exact hn

/-! ## Lines started and stopped -/

theorem acts_startLine (n : Fin 4) : Acts P s (s.startLine n) := by
  unfold State.startLine
  dsimp only
  split
  · have h1 : Acts P s _ := acts_setEngine n { s.engine n with
      state := .idle, sweepTimer := some s.setup.sweepPeriod, due := true, presence := true, routine := 0 }
      id (fitsWork_of_none rfl)
    exact h1.trans (acts_setPort n _)
  · exact .rfl

/-- An engine that is OFF. -/
def Engine.offed (e : Engine) : Engine := { e with state := .off, owed := [], sweepTimer := none, due := false }

theorem acts_off (n : Fin 4) : Acts P s (s.updateEngine n Engine.offed) :=
  acts_setEngine n _ (fun _ => rfl) (fitsWork_of_none rfl)

/-- A FACE that is not to be sent now, and its engine OFF. -/
theorem acts_returnFace_off {n : Fin 4} {i : Nat} (hw : (s.engine n).servesSlot = some i)
    (hx : (s.engine n).sendsFace = true) (r : Rank) (v : Option (Byte × FaceRecord)) :
    Acts P s ((s.returnFace i r v).updateEngine n Engine.offed) := by
  unfold State.returnFace
  split
  · exact acts_off n
  · rename_i g hg
    exact .sign (.returned n i g { g with state := .pending, unconfirmed := v } r (s.engine n).offed hg hw hx rfl (.inl rfl)
      rfl rfl rfl fun _ => rfl)

/-- The work of an engine that is stopped is abandoned, and the engine is OFF (R146, R153, R156). -/
theorem acts_abandon (n : Fin 4) : Acts P s ((s.abandonWork n).updateEngine n Engine.offed) := by
  unfold State.abandonWork
  split
  · have h1 : Acts P s (s.orphanComposition n) := by
      unfold State.orphanComposition
      split
      · rename_i c hc
        split
        · exact .sign (.orphans c hc)
        · exact .rfl
      · exact .rfl
    exact h1.trans (acts_off n)
  · rename_i i a q r rec b hx
    exact acts_returnFace_off (by simp only [Engine.servesSlot, hx]; rfl) (by simp only [Engine.sendsFace, hx]) _ _
  · rename_i i a q r rec b hx
    obtain ⟨hw, hf⟩ := sends_running hx
    split
    · exact acts_returnFace_off hw hf _ _
    · exact acts_returnFace_off hw hf _ _
  · exact acts_off n

theorem acts_useFree : Acts P s s.useFree := .path (.free _)

theorem acts_stopLine (n : Fin 4) (hs : P → s.known) : Acts P s (s.stopLine n) := by
  unfold State.stopLine
  have h1 := acts_abandon (P := P) (s := s) n
  have h2 := h1.trans (acts_setPort n ((((s.abandonWork n).updateEngine n Engine.offed).port n).cutOff
    ((((s.abandonWork n).updateEngine n Engine.offed).port n).cutTime
      ((s.abandonWork n).updateEngine n Engine.offed).freeIndex)))
  have h3 := h2.trans acts_useFree
  exact h3.trans (acts_syncHealth (by simp) (fun hP => h3.known hP (hs hP)) hs [] [])

/-! ## Presses -/

theorem entryOf_some {p : PostUnit} {i : Nat} {e : RingEntry} (h : p.entryOf i = some e) : e ∈ p.ring ∧ e.sign = i :=
  ⟨List.mem_of_find?_eq_some h, by simpa using List.find?_some h⟩

theorem entryOf_none {p : PostUnit} {i : Nat} (h : p.entryOf i = none) : ∀ x ∈ p.ring, x.sign ≠ i := by
  simpa [PostUnit.entryOf] using h

theorem acts_raiseCount {n : Fin 4} {e : RingEntry} (he : e ∈ s.post.ring) (hs : P → s.known) :
    Acts P s (s.raiseCount n e) := by
  unfold State.raiseCount
  have h1 : Acts P s _ := .path (.counts e.sign (min 255 (e.count + 1)) (by omega) (by omega))
  refine h1.trans (acts_hand (by simp) fun hP => ?_)
  obtain ⟨hl, -, hpl, -⟩ := (PostUnit.ringOk_iff _).1 (hs hP).ringOk
  simpa [Rec.inRange] using place_lt_of_placesFrom hpl he

theorem acts_newEntry {i : Nat} (n : Fin 4) (hf : ¬ Config.ringSize ≤ s.post.ring.length) (hn : s.post.entryOf i = none) :
    Acts P s (s.newEntry n i) := by
  unfold State.newEntry
  have h1 : Acts P s _ := .path (.rings
    { place := s.post.ringWrite.toNat % Config.ringSize, sign := i, room := (s.sign i).bind fun g => doorRoom g.defn
      minute := s.clock.now, count := 1 } rfl rfl (entryOf_none hn) (Nat.lt_of_not_le hf))
  refine (h1.trans (acts_hand (by simp) fun _ => ?_)).trans (acts_hand (by simp) fun _ => rfl)
  exact decide_eq_true (Nat.mod_lt _ (by decide))

theorem acts_takePress (n : Fin 4) (p : Press) (hs : P → s.known) : Acts P s (s.takePress n p) := by
  unfold State.takePress
  have drop : ∀ t : State, Acts P t ((t.updateEngine n fun e => { e with presses := e.presses.drop 1 }).settleEngine n) :=
    fun t => (acts_setEngine n { t.engine n with presses := (t.engine n).presses.drop 1 } id (fitsWork_of_state rfl)).trans
      (acts_settleEngine n)
  refine Acts.trans ?_ (drop _)
  split
  · rename_i e he
    exact (acts_raiseCount (entryOf_some he).1 hs).trans (acts_owe n _ _)
  · rename_i he
    split
    · exact .rfl
    · rename_i hf
      exact (acts_newEntry n hf he).trans (acts_owe n _ _)

/-! ## CONTROL -/

theorem acts_lineChange (old : State) (n : Fin 4) (hs : P → s.known) : Acts P s (old.lineChange s n) := by
  unfold State.lineChange
  split
  · exact acts_startLine n
  · split
    · exact acts_stopLine n hs
    · exact .rfl

theorem acts_lineChanges (old : State) (l : List (Fin 4)) (hs : P → s.known) :
    Acts P s (l.foldl (fun t n => old.lineChange t n) s) := by
  induction l generalizing s with
  | nil => exact .rfl
  | cons n l ih =>
    have h1 := acts_lineChange (P := P) (s := s) old n hs
    exact h1.trans (ih fun hP => h1.known hP (hs hP))

theorem acts_sourceChange (old : State) : Acts P s (old.sourceChange s) := by
  unfold State.sourceChange
  split
  · exact .setup (.clock _)
  · exact .rfl

theorem acts_quietChange (old : State) : Acts P s (old.quietChange s) := by
  unfold State.quietChange
  split
  · exact (dirtied_markWhere s _).acts
  · exact .rfl

theorem acts_cacheChange (old : State) (hs : P → s.known) : Acts P s (old.cacheChange s) := by
  unfold State.cacheChange
  split
  · have h1 : Acts P s _ := .cache .empties fun hP => (hs hP).active
    exact h1.trans (acts_advance fun hP => h1.known hP (hs hP))
  · exact .rfl

theorem acts_takeControl (v : Word) (hs : P → s.known) : Acts P s (s.takeControl v) := by
  unfold State.takeControl
  have h1 : Acts P s { s with setup := { s.setup with control := setClear s.setup.control v } } :=
    acts_values _ (takes_of_eq rfl rfl rfl rfl rfl rfl rfl rfl rfl)
  have h2 := h1.trans (acts_lineChanges s allFour fun hP => h1.known hP (hs hP))
  have h3 := (h2.trans (acts_sourceChange s)).trans (acts_quietChange s)
  exact (h3.trans (acts_cacheChange s fun hP => h3.known hP (hs hP))).trans (acts_syncEcho s 0)

theorem acts_takeWord (w : SetupWord) (v : Word) (hs : P → s.known) : Acts P s (s.takeWord w v) := by
  cases w with
  | control => exact acts_takeControl v hs
  | enable => exact acts_takeEnable v
  | restart =>
    unfold State.takeWord
    dsimp only
    split
    · exact .start .restarts fun _ => rfl
    · exact .rfl
  | matrix => exact acts_takeMatrix v
  | style st => exact acts_takeStyle st v
  | kind k => exact acts_takeKind k v hs
  | plain p => exact acts_takePlain p v

theorem acts_setupWrite {o : Nat} (he : o % 2 = 0) (ho : o < 0x100) (d : Drive) (hs : P → s.known) :
    Acts P s (s.setupWrite o d) := by
  have h1 : Acts P s (s.forwardAt o d) := .path (.forwards _ _ (outside_status he (.inl ho) (.inl (by omega))))
  unfold State.setupWrite
  dsimp only
  split
  · exact h1.trans (acts_takeWord _ _ fun hP => h1.known hP (hs hP))
  · exact h1

end Sys2Proof.Machine
end

section
/-! Batches, the records that enter, the starts of the part, and every command as a chain of acts. -/

namespace Sys2Proof.Machine

variable {P : Prop} {s t u : State}

/-- A command answers a next state, which a chain of acts reaches, after which the part may start, or be held. -/
def State.runs (P : Prop) (s : State) (o : Host.Outcome State Fault Refusal) : Prop :=
  ∃ u t, o = .next t ∧ Acts P s u ∧ (t = u ∨ StartAct u t)

theorem runs_next (h : Acts P s t) : s.runs P (.next t) := ⟨t, t, rfl, h, .inl rfl⟩

theorem runs_start (h : StartAct s t) : s.runs P (.next t) := ⟨s, t, rfl, .rfl, .inr h⟩

theorem runs_working {f : State → State} (h : Acts P s (f s)) : s.runs P (.next (s.working f)) := by
  refine runs_next ?_
  unfold State.working
  split
  · exact h
  · exact .rfl

theorem runs_ite {c : Prop} [Decidable c] (h : c → Acts P s t) : s.runs P (.next (if c then t else s)) := by
  refine runs_next ?_
  split
  · exact h ‹_›
  · exact .rfl

/-! ## Decode -/

/-- Whatever the words, an entry decoded has fields that fit its words (section 12.4). -/
theorem entryOf_wf {w : Word} {t : List Word} (h : t.length < 19) : entryWf (entryOf w t) = true := by
  have f8 : ∀ x lo, field x lo 8 < 256 := fun x lo => field_lt x lo 8
  have f4 : ∀ x lo, field x lo 4 < 16 := fun x lo => field_lt x lo 4
  have f2 : ∀ x lo, field x lo 2 < 4 := fun x lo => field_lt x lo 2
  have w16 : ∀ x : Word, x.toNat < 65536 := fun x => x.isLt
  have signed : ∀ x : Word, -32768 ≤ signedWord x ∧ signedWord x < 32768 := fun x =>
    ⟨BitVec.le_toInt (x := x), BitVec.toInt_lt (x := x)⟩
  unfold entryOf
  dsimp only
  split
  case h_9 =>
    simp only [entryWf, f8, f4, f2, w16, decide_true, Bool.true_and, Bool.and_eq_true, decide_eq_true_eq, List.all_eq_true]
    refine ⟨by simp; omega, fun x hx => ?_⟩
    obtain ⟨y, -, rfl⟩ := List.mem_map.1 hx
    exact y.isLt
  all_goals simp [entryWf, f8, f4, f2, w16, signed]

theorem entryLength_le {w : Word} {n : Nat} (h : entryLength w = some n) : n ≤ 19 := by
  unfold entryLength at h
  have := field_lt w 8 4
  split at h <;> simp only [Option.some.injEq, reduceCtorEq] at h <;> omega

theorem decodeEntry_wf {ws rest : List Word} {e : Entry} (h : decodeEntry ws = some (e, rest)) : entryWf e = true := by
  unfold decodeEntry at h
  split at h
  · cases h
  · rename_i w t
    split at h
    · cases h
    · rename_i n hn
      split at h
      · cases h
      · cases h
        have := entryLength_le hn
        exact entryOf_wf (by simp; omega)

theorem decodeFrom_wf {fuel off : Nat} {acc es : List (Nat × Entry)} {ws : List Word}
    (hacc : ∀ e ∈ acc, entryWf e.2 = true) (h : decodeFrom fuel off acc ws = .entries es) :
    ∀ e ∈ es, entryWf e.2 = true := by
  induction fuel generalizing off acc ws with
  | zero =>
    cases ws with
    | nil => cases h; simpa using hacc
    | cons w ws => cases h
  | succ fuel ih =>
    cases ws with
    | nil => cases h; simpa using hacc
    | cons w ws =>
      rw [decodeFrom] at h
      · split at h
        · cases h
        · rename_i e rest he
          refine ih (fun x hx => ?_) h
          rcases List.mem_cons.1 hx with rfl | hx
          · exact decodeEntry_wf he
          · exact hacc x hx
      · simp

theorem decodeBatch_wf {ws : List Word} {es : List (Nat × Entry)} (h : decodeBatch ws = .entries es) :
    ∀ e ∈ es, entryWf e.2 = true := decodeFrom_wf (by simp) h

/-! ## Batches -/

theorem acts_endBatch {p : Producer} (hp : p ≠ .fill) (n : Fin 4) (r : LaneResult) (hs : P → s.known) :
    Acts P s (s.endBatch n p r) :=
  (Acts.lane .results fun hP => (hs hP).active).trans (acts_hand (it := { producer := p, record := .laneResult n r true, raises := (Event.lane n).mask })
    hp fun _ => rfl)

theorem acts_decodeHead {n : Fin 4} (hb : s.lane.batch = .none) (hn : (s.laneAt n).state = .applying)
    (hs : P → s.known) : Acts P s (s.decodeHead n) := by
  unfold State.decodeHead
  dsimp only
  split
  · rename_i es he
    exact .lane (.begins es n hb hn (decodeBatch_wf he)) fun hP => (hs hP).active
  · exact acts_endBatch (by simp) n _ hs

theorem applyingLane_some {n : Fin 4} (h : s.applyingLane = some n) :
    (s.laneAt n).state = .applying ∧ ∃ rest, s.lane.commit = n :: rest := by
  unfold State.applyingLane at h
  split at h
  · rename_i m rest hc
    split at h
    · rename_i ha
      cases h
      exact ⟨ha, rest, hc⟩
    · cases h
  · cases h

theorem runs_batchDecode (hs : P → s.known) : s.runs P (execBatchDecode s) := by
  refine runs_working ?_
  have h1 := acts_promoteHead hs
  refine h1.trans ?_
  dsimp only
  split
  · rename_i n hb hn
    exact acts_decodeHead hb (applyingLane_some hn).1 fun hP => h1.known hP (hs hP)
  · exact .rfl

/-- The entry at hand is simulated on the working copy (R37). -/
theorem acts_simulated {c : Check} {off : Nat} {e : Entry} (h : s.nextEntry = some (c, off, e)) (hs : P → s.known) :
    Acts P s (s.simulated c off (simulate s.setup.retain off e c.work)) := .lane (.simulates c off e h) fun hP => (hs hP).active

theorem acts_finishCheck {n : Fin 4} {c : Check} (hb : s.lane.batch = .checking c) (hs : P → s.known) :
    Acts P s (s.finishCheck n c) := by
  unfold State.finishCheck
  split
  · exact .rfl
  · exact acts_endBatch (by simp) n _ hs
  · rename_i he
    exact .lane (.passes c hb he) fun hP => (hs hP).active

theorem acts_applyBatch {n : Fin 4} {c : Check} (hb : s.lane.batch = .applyRequested c) (hs : P → s.known) :
    Acts P s (s.applyBatch n c) := by
  have h1 : Acts P s ((s.applied c.work).setBatch .resulting) := .setup (.applies c hb)
  have fit : P → (s.applied c.work).slotsFit := fun hP => State.slotsFit_of_signs
    (s := (s.applied c.work).setBatch .resulting) rfl (h1.known hP (hs hP)).slotsFit
  have echo := Hands.syncEcho (P := P) (s := s.applied c.work) s (Event.when .clockEnd (endsClock s.clock c.work))
  have rooms := echo.trans (Hands.syncRooms s fun hP => by
    rw [echo.store]
    exact (h1.known hP (hs hP)).roomsFit)
  have signs := rooms.trans (Hands.syncSigns s (fun hP => rooms.slotsFit (fit hP)) fun hP => (hs hP).slotsFit)
  exact (h1.trans (signs.setBatch .resulting).acts).trans (acts_hand (by simp) fun _ => rfl)

/-! ## Records that enter -/

/-- The first waiting record, not the fill's, enters the queue (R169). -/
theorem acts_entered {it : Item} {rest : List Item} (hw : s.post.waiting = it :: rest) (hp : it.producer ≠ .fill)
    (hf : s.hasPlaces (recordSize it.record) = true) : Acts P s ((s.setWaiting rest).enter it) := by
  have h : Hands P s ((((s.setWaiting rest).enqueue it.record).handRaise it.raises).handNext it.producer) :=
    ((Hands.taken hw hp hf).trans (.raise _)).trans (.next hp)
  rw [enter_eq _ hp]
  split
  · exact h.acts.trans (acts_settleEngine _)
  · exact h.acts

theorem acts_handHeld (n : Fin 4) (hs : P → s.known) : Acts P s (s.handHeld n) := by
  unfold State.handHeld
  split
  · have h1 : Acts P s _ := .lane (.holds n none) fun hP => (hs hP).active
    exact h1.trans (Hands.push (by simp) fun _ => rfl).acts
  · exact .rfl

/-- A record of the start-up fill enters: the next is handed, or the fill ends (R193, R194). -/
theorem acts_fillEntered {it : Item} {rest : List Item} (hw : s.post.waiting = it :: rest) (hp : it.producer = .fill)
    (hf : s.hasPlaces (recordSize it.record) = true) (hs : P → s.known) :
    Acts P s ((s.setWaiting rest).enter it) := by
  have henter : (s.setWaiting rest).enter it = (s.fillEntered it rest).advanceFill := by
    unfold State.enter State.afterEnter State.fillEntered
    rw [hp]
  rw [henter]
  have hphase : (s.fillEntered it rest).setup.phase = s.setup.phase := by
    obtain ⟨b, q, st, he⟩ := fillEntered_eq s it rest
    rw [he]
  unfold State.advanceFill
  split
  · rename_i k hk
    rw [hphase] at hk
    split
    · exact .setup (.fillNext k it rest hw hp hk hf)
    · unfold State.endFill
      have h1 : Acts P s _ := .setup (.fillLast k it rest hw hp hk hf)
      have h2 := h1.trans (Hands.raise Event.ready.mask).acts
      have h3 := h2.trans (acts_foldl_known State.handHeld allFour (fun _ n => acts_handHeld n) _
        fun hP => h2.known hP (hs hP))
      exact h3.trans (acts_promoteHead fun hP => h3.known hP (hs hP))
  · rename_i hk
    have hne : ∀ k, s.setup.phase ≠ .fill k := fun k h => hk k (by rw [hphase, h])
    have hready : (s.setWaiting rest).readyForLast .fill = s.setWaiting rest := by
      unfold State.readyForLast
      rw [if_neg (by simp [hne lastFill])]
    have e : s.fillEntered it rest = ((s.setWaiting rest).enqueue it.record).handRaise it.raises := by
      unfold State.fillEntered
      rw [hready]
    rw [e]
    refine Hands.acts (Hands.trans (t := (s.setWaiting rest).enqueue it.record) ⟨rfl, fun h =>
      (Hands.enqueue (P := False) (s := s.setWaiting rest) hf False.elim).fits h, fun _ h => ?_⟩ (.raise _))
    rw [State.postsOk_iff] at h
    obtain ⟨-, -, -, -, hfill⟩ := h
    exfalso
    have hmem : it ∈ fillsOf s.post.waiting := by rw [hw]; simp [fillsOf, hp]
    cases hph : s.setup.phase with
    | fill k => exact hne k hph
    | running => rw [hph] at hfill; rw [show fillsOf s.post.waiting = [] from hfill] at hmem; cases hmem
    | reload k => rw [hph] at hfill; rw [show fillsOf s.post.waiting = [] from hfill] at hmem; cases hmem

theorem runs_recordEnqueue (hs : P → s.known) : s.runs P (execRecordEnqueue s) := by
  refine runs_working ?_
  split
  · rename_i it rest hw
    split
    · rename_i hf
      have hw' : s.post.waiting = it :: rest := by
        unfold State.waitingPlain at hw
        split at hw
        · split at hw
          · cases hw; assumption
          · cases hw
        · cases hw
      by_cases hp : it.producer = .fill
      · have h1 := acts_fillEntered (P := P) hw' hp hf hs
        exact h1.trans (acts_afterCredit _ fun hP => h1.known hP (hs hP))
      · have h1 := acts_entered (P := P) hw' hp hf
        exact h1.trans (acts_afterCredit _ fun hP => h1.known hP (hs hP))
    · exact .rfl
  · exact .rfl

/-- A lane result that heads the waiting records is not the fill's. -/
theorem waitingResult_some {it : Item} {n : Fin 4} {ends : Bool} {rest : List Item}
    (h : s.waitingResult = some (it, n, ends, rest)) :
    s.post.waiting = it :: rest ∧ it.producer ≠ .fill ∧ ∃ r, it.record = .laneResult n r ends := by
  unfold State.waitingResult at h
  split at h
  · rename_i x l hw
    split at h
    · rename_i m r e hr
      split at h
      · cases h
      · rename_i hp
        cases h
        refine ⟨hw, fun hf => hp ?_, r, hr⟩
        simp [Item.plain, hr, hf]
    · cases h
  · cases h

theorem acts_releaseLane (n : Fin 4) (hs : P → s.known) : Acts P s (s.releaseLane n) := by
  have h1 : Acts P s _ := .lane (.releases n) fun hP => (hs hP).active
  exact h1.trans (acts_promoteHead fun hP => h1.known hP (hs hP))

theorem runs_laneResult (hs : P → s.known) : s.runs P (execLaneResult s) := by
  refine runs_working ?_
  split
  · rename_i it n ends rest hw
    obtain ⟨hw', hp, -⟩ := waitingResult_some hw
    split
    · rename_i hf
      have h1 := acts_entered (P := P) hw' hp hf
      dsimp only
      split
      · exact h1.trans (acts_releaseLane n fun hP => h1.known hP (hs hP))
      · exact h1
    · exact .rfl
  · exact .rfl

theorem waitingRaise_some {f : BitVec 13} {rest : List Item} (h : s.waitingRaise = some (f, rest)) :
    ∃ it, s.post.waiting = it :: rest ∧ it.record = .raise f := by
  unfold State.waitingRaise at h
  split at h
  · rename_i it l hw
    split at h
    · rename_i hr
      cases h
      exact ⟨it, hw, hr⟩
    · cases h
  · cases h

/-- The raise that heads the waiting records is taken from them (R178). -/
theorem hands_popRaise {f : BitVec 13} {it : Item} {rest : List Item} (hw : s.post.waiting = it :: rest)
    (hr : it.record = .raise f) : Hands P s (s.setWaiting rest) := by
  refine .setWaiting (fun _ h x hx => h x (by rw [hw]; exact List.mem_cons_of_mem _ hx)) fun _ h => ?_
  have hp : it.producer ≠ .fill := fun hp => h.not_raise (it := it) (by rw [hw]; simp [fillsOf, hp]) f hr
  have : fillsOf s.post.waiting = fillsOf rest := by rw [hw]; simp [fillsOf, hp]
  rwa [this] at h

theorem runs_flagRaise : s.runs P (execFlagRaise s) := by
  refine runs_working ?_
  split
  · rename_i f rest hw
    obtain ⟨it, hw', hr⟩ := waitingRaise_some hw
    have h1 := (hands_popRaise (P := P) hw' hr).acts
    split
    · exact h1
    · split
      · rename_i hf
        have h2 : Acts P (s.setWaiting rest) _ := .path (.flags (s.post.flags ||| f))
        refine (h1.trans h2).trans (Hands.acts (Hands.enqueue (r := .flagsWord) ?_ fun _ => rfl))
        exact hf
      · exact .rfl
  · exact .rfl

end Sys2Proof.Machine
end

section
/-! Every command as a chain of acts (95_what_each_step_holds.md). -/

namespace Sys2Proof.Machine

variable {P : Prop} {s t u : State}

/-! ## Host accesses -/

theorem acts_beginHost (hs : P → s.known) : Acts P s s.beginHost := by
  unfold State.beginHost
  have own : Acts P s s.ownAccess.releaseHold := (acts_ownAccess hs).trans acts_releaseHold
  split
  · split
    · exact own
    · exact .rfl
  · exact own
  · exact acts_releaseHold

/-- A host access is a chain of acts if what it does to a part at work is; while the part is held it crosses unclassified. -/
theorem runs_hostAccess {passed served : State → State} (hs : P → s.known)
    (hp : s.pins.pgood = true → s.active = false → Acts P s (passed s))
    (h : ∀ b : State, (P → b.known) → Acts P b (served b)) : s.runs P (.next (s.hostAccess passed served)) := by
  refine runs_next ?_
  unfold State.hostAccess
  split
  · exact .rfl
  · rename_i hg
    split
    · rename_i ha
      exact hp (by simpa using hg) (by simpa using ha)
    · have h1 := acts_beginHost hs
      have h2 := h1.trans (h s.beginHost fun hP => h1.known hP (hs hP))
      unfold State.servedAccess
      dsimp only
      split
      · exact h2
      · exact h2.trans (acts_endHost _)

theorem runs_hostWrite {served : State → State} (a : Nat) (d : Drive) (hs : P → s.known)
    (h : ∀ b : State, (P → b.known) → Acts P b (served b)) : s.runs P (.next (s.hostWriteWith a d served)) :=
  runs_hostAccess hs (fun hg ha => .path (.passes a d hg ha)) h

theorem runs_laneAccess {k : Nat} (hk : k ≤ 127) (n : Fin 4) (d : Drive) (hs : P → s.known) :
    s.runs P (.next (s.laneAccess n k d)) := runs_hostWrite _ d hs fun _ hb => acts_laneWrite hk d hb

theorem runs_setupAccess {o : Nat} (he : o % 2 = 0) (ho : o < 0x100) (v : Word) (hs : P → s.known) :
    s.runs P (.next (s.setupAccess o v)) := runs_hostWrite _ _ hs fun _ hb => acts_setupWrite he ho _ hb

/-! ## Areas -/

/-- The area of an offset, by the bounds of the areas (section 9.1). -/
theorem areaOf_cases (o : Nat) :
    (o < 0x100 ∧ areaOf o = .setup o)
    ∨ (0x100 ≤ o ∧ o < 0x500 ∧ areaOf o = .laneWord (Fin.ofNat 4 ((o - 0x100) / 0x100)) ((o % 0x100) / 2))
    ∨ (o = 0x580 ∧ areaOf o = .flagsWord)
    ∨ (o = 0x682 ∧ areaOf o = .readCount)
    ∨ (0x500 ≤ o ∧ o < 0x2800 ∧ o ≠ 0x580 ∧ o ≠ 0x682 ∧ areaOf o = .guarded)
    ∨ (0x2800 ≤ o ∧ o < 0x4000 ∧ areaOf o = .unposted)
    ∨ (0x4000 ≤ o ∧ areaOf o = .pool ((o - 0x4000) / 0x20)) := by
  unfold areaOf flagsOffset readCountOffset
  by_cases h1 : o < 0x100
  · exact .inl ⟨h1, if_pos h1⟩
  rw [if_neg h1]
  by_cases h2 : o < 0x500
  · exact .inr (.inl ⟨by omega, h2, if_pos h2⟩)
  rw [if_neg h2]
  by_cases h3 : o < 0x2800
  · rw [if_pos h3]
    by_cases h4 : o = 0x580
    · exact .inr (.inr (.inl ⟨h4, if_pos h4⟩))
    rw [if_neg h4]
    by_cases h5 : o = 0x682
    · exact .inr (.inr (.inr (.inl ⟨h5, if_pos h5⟩)))
    rw [if_neg h5]
    exact .inr (.inr (.inr (.inr (.inl ⟨by omega, h3, h4, h5, rfl⟩))))
  rw [if_neg h3]
  by_cases h6 : o < 0x4000
  · exact .inr (.inr (.inr (.inr (.inr (.inl ⟨by omega, h6, if_pos h6⟩)))))
  · exact .inr (.inr (.inr (.inr (.inr (.inr ⟨by omega, if_neg h6⟩)))))

/-- What the owner of an area makes of a host write that enables a byte (R165). -/
def State.areaWrite (s : State) (o : Nat) (d : Drive) : Area → State
  | .setup o' => s.setupWrite o' d
  | .laneWord n k => s.laneWrite n k d
  | .flagsWord => s.ackMerge d
  | .readCount => s.readCountWrite d
  | .guarded => s.guardedWriteAt o d
  | .unposted => s.forwardAt o d
  | .pool _ => s.poolWrite o d

theorem sortedWrite_eq (s : State) (o : Nat) {d : Drive} (hd : d ≠ .neither) :
    s.sortedWrite o d = s.areaWrite o d (areaOf o) := by
  cases d with
  | neither => exact absurd rfl hd
  | _ => unfold State.sortedWrite State.areaWrite; cases areaOf o <;> rfl

theorem sortedWrite_neither (s : State) (o : Nat) : s.sortedWrite o .neither = s := rfl

/-- A host write sorted by the area of an even offset (R165). -/
theorem acts_sortedWrite {o : Nat} (he : o % 2 = 0) (ho : o < 0x10000) (d : Drive) (hs : P → s.known) :
    Acts P s (s.sortedWrite o d) := by
  by_cases hd : d = .neither
  · rw [hd, sortedWrite_neither]
  rw [sortedWrite_eq s o hd]
  rcases areaOf_cases o with ⟨h, e⟩ | ⟨-, -, e⟩ | ⟨-, e⟩ | ⟨-, e⟩ | ⟨-, -, -, -, e⟩ | ⟨h1, h2, e⟩ | ⟨h, e⟩ <;> rw [e]
  · exact acts_setupWrite he h d hs
  · exact acts_laneWrite (by omega) d hs
  · exact acts_ackMerge d
  · exact acts_readCountWrite d
  · exact acts_guardedWriteAt o d
  · exact .path (.forwards _ d (outside_status he (.inr (by omega)) (.inl h2)))
  · exact acts_poolWrite he h ho d hs

theorem acts_anyWrite {a : Nat} (he : a % 2 = 0) (d : Drive) (hs : P → s.known) : Acts P s (s.anyWrite a d) := by
  unfold State.anyWrite
  split
  · exact acts_sortedWrite (by omega) (Nat.mod_lt _ (by decide)) d hs
  · rename_i h
    refine .path (.forwards a d ⟨he, fun n k hk ha => h ?_, fun l i hl hi ha => h ?_⟩)
    · have := n.isLt
      unfold State.regionAddress laneOffset at ha
      omega
    · unfold State.regionAddress poolOffset at ha
      omega

/-! ## Power, the reset pin and restart -/

theorem runs_powerOn : s.runs P (execPowerOn s) := runs_start (.blocks { s.pins with pgood := true, powerOnEnded := false })

theorem runs_powerOnEnd (straps : Fin 16) (m : Bool) : s.runs P (execPowerOnEnd straps m s) := by
  unfold execPowerOnEnd
  split
  · rename_i h
    simp only [State.poweringOn, Bool.and_eq_true, Bool.not_eq_true'] at h
    dsimp only
    split
    · rename_i hr
      exact runs_start (.straps _ straps h.1 (by simp [State.active, h.2]) h.1 (.inr hr))
    · exact runs_start (.starts { s.pins with powerOnEnded := true } straps m)
  · exact runs_next .rfl

/-- One byte of a post write's word, written or not. -/
theorem acts_cutByte {e : PostEntry} (he : e ∈ s.path.postQueue) {i : Nat} (hi : i ≤ 1) (v : Byte) (b : Bool) :
    Acts P s { s with mem := if b then writeByte s.mem (s.regionAddress e.offset + i) v else s.mem } := by
  cases b with
  | true => exact .path (.cuts e he i hi v)
  | false => exact .rfl

/-- A post write cut short: each byte of its word is written or not (R176). -/
theorem acts_cutPostWrite : Acts P s s.cutPostWrite := by
  unfold State.cutPostWrite
  split
  · exact .rfl
  · rename_i e q hq
    have hmem : e ∈ s.path.postQueue := by rw [hq]; exact List.mem_cons_self
    have h1 := acts_cutByte (P := P) hmem (Nat.zero_le 1) (loByte e.value) (Config.cutLow s.freeIndex)
    rw [Nat.add_zero] at h1
    refine h1.trans (Acts.trans ?_ acts_useFree)
    refine acts_cutByte (s := { s with mem := _ }) ?_ (Nat.le_refl 1) (hiByte e.value) (Config.cutHigh s.freeIndex)
    exact hmem

theorem runs_resetAssert (b : Bool) : s.runs P (execResetAssert b s) := by
  have cut : Acts P s (if b && s.ownChoice = some .postWrite then s.cutPostWrite else s) := by
    split
    · exact acts_cutPostWrite
    · exact .rfl
  exact ⟨_, _, rfl, cut, .inr (.blocks _)⟩

theorem runs_resetRelease (straps : Fin 16) (m : Bool) : s.runs P (execResetRelease straps m s) := by
  unfold execResetRelease
  split
  · rename_i h
    simp only [Bool.and_eq_true] at h
    dsimp only
    split
    · exact runs_start (.starts { s.pins with resetLow := false } straps m)
    · rename_i hp
      exact runs_start (.straps _ straps h.1 (by simp [State.active, h.2]) h.1 (.inl (by simpa using hp)))
  · rename_i h
    refine runs_start (.pins _ ?_)
    cases hg : s.pins.pgood with
    | false => exact .inl rfl
    | true =>
      refine .inr ⟨rfl, rfl, ?_⟩
      simp only [hg, Bool.true_and] at h
      simp [h]

theorem runs_pgoodFall : s.runs P (execPgoodFall s) := runs_start (.pins _ (.inl rfl))

end Sys2Proof.Machine
end

section
/-! Every command as a chain of acts (95_what_each_step_holds.md). -/

namespace Sys2Proof.Machine

variable {P : Prop} {s t u : State}

theorem runs_checkEnd (hs : P → s.known) : s.runs P (execCheckEnd s) := by
  refine runs_working ?_
  split
  · rename_i c n hb hn
    split
    · exact acts_finishCheck hb hs
    · exact .rfl
  · exact .rfl

theorem runs_apply (hs : P → s.known) : s.runs P (execApply s) := by
  refine runs_working ?_
  split
  · rename_i c n hb hn
    split
    · exact acts_applyBatch hb hs
    · exact .rfl
  · exact .rfl

theorem runs_minuteEdge : s.runs P (execMinuteEdge s) := by
  refine runs_ite fun _ => ?_
  dsimp only
  split
  · exact (acts_setMinute true).trans acts_minuteEvent
  · exact acts_setMinute true

theorem runs_timebaseExpiry : s.runs P (execTimebaseExpiry s) := by
  refine runs_ite fun _ => ?_
  have h1 : Acts P s _ := .setup (.clock s.clock.restartTimebase)
  dsimp only
  split
  · exact h1
  · exact h1.trans acts_minuteEvent

theorem runs_sendTimeComposition (hs : P → s.known) : s.runs P (execSendTimeComposition s) := by
  refine runs_next ?_
  split
  · split
    · exact acts_serveRequest _ _ hs
    · exact .rfl
  · exact .rfl

theorem runs_sweepTimerExpiry (n : Fin 4) : s.runs P (execSweepTimerExpiry n s) :=
  runs_ite fun _ => acts_setEngine n _ id (fitsWork_of_state rfl)

theorem runs_frameSent (n : Fin 4) : s.runs P (execFrameSent n s) := by
  refine runs_ite fun _ => ?_
  split
  · exact acts_setPort n _
  · exact acts_setPort n _

theorem sweepPresence_some {e : Engine} {p : Bool} (h : e.sweepPresence = some p) : e.state ≠ .finishing := by
  unfold Engine.sweepPresence at h
  intro hf
  rw [hf] at h
  cases h

theorem runs_slotsEnd (n : Fin 4) (marks : BitVec 128) (hs : P → s.known) : s.runs P (execSlotsEnd n marks s) := by
  refine runs_next ?_
  split
  · rename_i p hp
    split
    · have h1 := acts_portQuiet (P := P) (s := s) n .afterSweep
      exact h1.trans (acts_onMap (s := s.portQuiet n .afterSweep) n (sweepPresence_some hp) (fun hP => h1.known hP (hs hP)) p marks)
    · exact .rfl
  · exact .rfl

theorem runs_callPress (n : Fin 4) (hs : P → s.known) : s.runs P (execCallPress n s) := by
  refine runs_next ?_
  split
  · split
    · exact acts_takePress n _ hs
    · exact .rfl
  · exact .rfl

theorem runs_refreshTimerExpiry (i : Fin 512) (hs : P → s.known) : s.runs P (execRefreshTimerExpiry i s) := by
  refine runs_next ?_
  split
  · rename_i g hg
    split
    · have h1 : Acts P s _ := .sign (.refreshed i.val g hg)
      exact h1.trans (acts_syncHealth (by simp) (fun hP => h1.known hP (hs hP)) hs [] [])
    · exact .rfl
  · exact .rfl

theorem runs_hostRead (a : BitVec 19) (b c : Bool) (hs : P → s.known) : s.runs P (execHostRead a b c s) :=
  runs_hostAccess hs (fun _ _ => acts_returnData _ _ _) fun _ _ => acts_returnData _ _ _

theorem runs_insistStall : s.runs P (execInsistStall s) := runs_ite fun _ => acts_turns _ ⟨rfl, rfl, rfl, id⟩

theorem even_styleOffset (st : RoomState) : styleOffset st % 2 = 0 ∧ styleOffset st < 0x100 := by cases st <;> decide
theorem even_kindOffset (k : SignKind) : kindOffset k % 2 = 0 ∧ kindOffset k < 0x100 := by cases k <;> decide
theorem even_plainOffset (p : PlainSetup) : plainOffset p % 2 = 0 ∧ plainOffset p < 0x100 := by
  cases p with
  | line n =>
    have := n.isLt
    simp only [plainOffset]
    omega
  | _ => decide

/-- Every command answers a next state, which a chain of acts reaches. -/
theorem exec_runs (c : Instr) (hs : P → s.known) : s.runs P (exec c s) := by
  cases c with
  | powerOn => exact runs_powerOn
  | powerOnEnd straps m => exact runs_powerOnEnd straps m
  | resetAssert b => exact runs_resetAssert b
  | resetRelease straps m => exact runs_resetRelease straps m
  | pgoodFall => exact runs_pgoodFall
  | restart => exact runs_hostWrite _ _ hs fun _ hb => acts_setupWrite (by decide) (by decide) _ hb
  | setupRead => exact runs_ite fun _ => acts_makeSetupRead hs
  | entryWordWrite n k v => exact runs_laneAccess (by omega) n _ hs
  | entryByteWrite n k h v => exact runs_laneAccess (by omega) n _ hs
  | postWord n q e => exact runs_laneAccess (by decide) n _ hs
  | discard n q e => exact runs_laneAccess (by decide) n _ hs
  | batchDecode => exact runs_batchDecode hs
  | putSession | dropSession | cancelSession | moveSession | shiftSession | putRoom | roomState | setClock | putSign
    | dropSign =>
    refine runs_working ?_
    split
    · exact acts_simulated ‹_› hs
    · exact .rfl
  | checkEnd => exact runs_checkEnd hs
  | apply => exact runs_apply hs
  | laneResult => exact runs_laneResult hs
  | minuteEdge => exact runs_minuteEdge
  | minuteFall => exact runs_ite fun _ => acts_setMinute false
  | timebaseExpiry => exact runs_timebaseExpiry
  | minuteSignal => exact runs_ite fun _ => acts_answerMinute hs
  | refill => exact runs_ite fun _ => acts_answerRefill hs
  | dirtyComposition => exact runs_ite fun _ => acts_serveDirty hs
  | sendTimeComposition => exact runs_sendTimeComposition hs
  | fillRead => exact runs_ite fun _ => acts_makeFillRead hs
  | snoop l w d =>
    refine runs_hostWrite _ d hs fun _ hb => acts_poolWrite ?_ ?_ ?_ d hb
    all_goals unfold poolWord poolOffset; omega
  | engineChoose n => exact runs_ite fun _ => acts_chooseWork n
  | sweepTimerExpiry n => exact runs_sweepTimerExpiry n
  | loneBreakEnd n => exact runs_ite fun _ => acts_portIdle n
  | frameSent n => exact runs_frameSent n
  | reply n r => exact runs_ite fun _ => acts_takeReply n _ hs
  | answerTimeout n => exact runs_ite fun _ => acts_takeReply n _ hs
  | replyGap n => exact runs_ite fun _ => acts_takeReply n _ hs
  | slotsEnd n marks => exact runs_slotsEnd n marks hs
  | quietTimeEnd n => exact runs_ite fun _ => acts_portIdle n
  | callPress n => exact runs_callPress n hs
  | refreshTimerExpiry i => exact runs_refreshTimerExpiry i hs
  | ackMerge d => exact runs_hostWrite _ d hs fun _ _ => acts_ackMerge d
  | readCountWrite d => exact runs_hostWrite _ d hs fun _ _ => acts_readCountWrite d
  | guardedWrite w d =>
    refine runs_hostWrite _ d hs fun _ hb => acts_sortedWrite ?_ ?_ d hb
    all_goals unfold postedWord postedOffset; omega
  | segSet n => exact runs_setupAccess (by decide) (by decide) _ hs
  | segClear n => exact runs_setupAccess (by decide) (by decide) _ hs
  | clockRun on => exact runs_setupAccess (by decide) (by decide) _ hs
  | minuteSrc on => exact runs_setupAccess (by decide) (by decide) _ hs
  | quiet on => exact runs_setupAccess (by decide) (by decide) _ hs
  | cacheOff on => exact runs_setupAccess (by decide) (by decide) _ hs
  | enable v => exact runs_setupAccess (by decide) (by decide) _ hs
  | matrix v => exact runs_setupAccess (by decide) (by decide) _ hs
  | style st v => exact runs_setupAccess (even_styleOffset st).1 (even_styleOffset st).2 _ hs
  | kind k v => exact runs_setupAccess (even_kindOffset k).1 (even_kindOffset k).2 _ hs
  | setupWordWrite w v => exact runs_setupAccess (even_plainOffset w).1 (even_plainOffset w).2 _ hs
  | hostWrite a d => exact runs_hostWrite _ d hs fun _ hb => acts_anyWrite (by unfold byteAddress; omega) d hb
  | hostRead a b c => exact runs_hostRead a b c hs
  | insistStall => exact runs_insistStall
  | postWrite => exact runs_ite fun _ => acts_makePostWrite
  | recordEnqueue => exact runs_recordEnqueue hs
  | flagRaise => exact runs_flagRaise

/-! ## Steps -/

/-- What each act keeps and the queue of commands does not enter, a step keeps. -/
theorem step_keeps {Q : State → Prop} (hQ : ∀ s t, Act False s t → Q s → Q t)
    (hq : ∀ (s : State) l, Q s → Q (s.withPending l)) (h : step s = .next t) (hi : Q s) : Q t := by
  unfold step at h
  split at h
  · cases h; exact hi
  · rename_i c rest hp
    obtain ⟨u, v, hv, ha, hend⟩ := exec_runs (P := False) (s := s.withPending rest) c False.elim
    rw [hv] at h
    cases h
    have hu := ha.keeps hQ (hq s rest hi)
    rcases hend with rfl | hstart
    · exact hu
    · exact hQ _ _ (.start hstart False.elim) hu

end Sys2Proof.Machine
end

section
/-! Obligations settled from the acts of every command: the queue of commands, setup and credits, the store and the signs. -/

namespace Sys2Proof.Machine

variable {P : Prop} {s t u : State}

theorem SetupAct.pending (h : SetupAct s t) : t.pending = s.pending := by
  cases h with
  | fillNext k it rest hw hp hk hs =>
    obtain ⟨b, q, st, he⟩ := fillEntered_eq s it rest
    rw [he]; rfl
  | fillLast k it rest hw hp hk hs =>
    obtain ⟨b, q, st, he⟩ := fillEntered_eq s it rest
    rw [he]
  | minute c d h =>
    rw [startOver_frame]
  | applies c h => rw [applied_frame]; rfl
  | _ => rfl

theorem StartAct.pending (h : StartAct s t) : t.pending = s.pending := by cases h <;> rfl

theorem Act.pending (h : Act P s t) : t.pending = s.pending := by
  cases h with
  | path h => exact h.pending
  | sign h => exact h.pending
  | cache h => exact h.pending
  | lane h => exact h.pending
  | setup h => exact h.pending
  | start h => exact h.pending
  | hands h => exact h.pending

/-- Settles O2: every command is a chain of acts, and no act touches the queue of commands. -/
theorem commandsLeaveTheQueue : Obligations.CommandsLeaveTheQueue := by
  unfold Obligations.CommandsLeaveTheQueue
  intro c s
  obtain ⟨u, t, ht, ha, hend⟩ := exec_runs (P := False) (s := s) c False.elim
  have hu := ha.keeps (Q := fun u => u.pending = s.pending) (fun _ _ h hu => h.pending.trans hu) rfl
  refine ⟨t, ht, ?_⟩
  rcases hend with rfl | hstart
  · exact hu
  · exact hstart.pending.trans hu

/-- Settles O5: setup values in range and credits within their caps are kept by every act. -/
theorem stepKeepsSetupAndCreditsInRange : Obligations.StepKeepsSetupAndCreditsInRange := by
  unfold Obligations.StepKeepsSetupAndCreditsInRange
  exact fun s t h => ⟨step_keeps (Q := fun u => u.setup.inRange = true) (fun _ _ h => h.inRange) (fun _ _ => id)
      h,
    step_keeps (Q := fun u => u.creditsOk = true) (fun _ _ h => h.creditsOk) (fun _ _ => id) h⟩

/-- Settles O6: the tables of the store and of a check's working copy are kept by every act. -/
theorem stepKeepsStoreTables : Obligations.StepKeepsStoreTables := by
  unfold Obligations.StepKeepsStoreTables
  exact fun s t hs h => step_keeps (Q := fun u => u.storeOk = true) (fun _ _ h => h.storeOk) (fun _ _ => id)
    h hs

/-- Settles O7: the sign definitions, in force and of a check's working copy, are kept by every act. -/
theorem stepKeepsSignAddressesDistinct : Obligations.StepKeepsSignAddressesDistinct := by
  unfold Obligations.StepKeepsSignAddressesDistinct
  exact fun s t hs h => step_keeps (Q := fun u => u.signsOk = true) (fun _ _ h => h.signsOk) (fun _ _ => id)
    h hs

end Sys2Proof.Machine
end

section
/-! Memory in its one form and tables in order, kept by every act (log 3; R25, R69, R95, R149). -/

namespace Sys2Proof.Machine

variable {P : Prop} {s t u : State}

/-! ## Memory -/

theorem arrive_mem (s : State) (f : Fill) : (s.arrive f).mem = s.mem := by
  unfold State.arrive
  dsimp only
  repeat' split
  all_goals rfl

theorem spoil_mem (s : State) (l : Nat) : (s.spoil l).mem = s.mem := by
  unfold State.spoil
  repeat' split
  all_goals rfl

theorem SetupAct.mem (h : SetupAct s t) : t.mem = s.mem := by
  cases h with
  | fillNext k it rest hw hp hk hs =>
    obtain ⟨b, q, st, he⟩ := fillEntered_eq s it rest
    rw [he]; rfl
  | fillLast k it rest hw hp hk hs =>
    obtain ⟨b, q, st, he⟩ := fillEntered_eq s it rest
    rw [he]
  | minute c d h => rw [startOver_frame]
  | applies c h => rw [applied_frame]; rfl
  | _ => rfl

theorem StartAct.mem (h : StartAct s t) : t.mem = s.mem := by cases h <;> rfl

theorem CacheAct.wf (h : CacheAct s t) (hs : s.memoryCanonical = true) : t.memoryCanonical = true := by
  unfold State.memoryCanonical at hs ⊢
  cases h with
  | arrives l q f hq hf hl => rw [arrive_mem]; exact hs
  | snoops l w d hl hw => rw [spoil_mem]; exact Memory.wf_writeDrive _ _ hs
  | _ => exact hs

theorem LaneAct.wf (h : LaneAct s t) (hs : s.memoryCanonical = true) : t.memoryCanonical = true := by
  unfold State.memoryCanonical at hs ⊢
  cases h with
  | captures n k v hk ho => exact Memory.wf_writeDrive (s.regionAddress (laneOffset n k)) (.both v) hs
  | capturesByte n k i d hk ho => exact Memory.wf_writeDrive (s.regionAddress (laneOffset n k)) d hs
  | _ => exact hs

theorem PathAct.wf (h : PathAct s t) (hs : s.memoryCanonical = true) : t.memoryCanonical = true := by
  unfold State.memoryCanonical at hs ⊢
  cases h with
  | drains e q hq => exact Memory.wf_writeWord _ _ hs
  | cuts e he i hi v => exact Memory.wf_writeByte _ _ hs
  | forwards a d ha => exact Memory.wf_writeDrive _ _ hs
  | passes a d hp ha => exact Memory.wf_writeDrive _ _ hs
  | _ => exact hs

theorem memoryCanonical_congr (h : t.mem = s.mem) (hs : s.memoryCanonical = true) : t.memoryCanonical = true := by
  unfold State.memoryCanonical at hs ⊢; rw [h]; exact hs

theorem Act.memoryCanonical (h : Act P s t) (hs : s.memoryCanonical = true) : t.memoryCanonical = true := by
  cases h with
  | path h => exact h.wf hs
  | sign h => exact memoryCanonical_congr h.mem hs
  | cache h => exact h.wf hs
  | lane h => exact h.wf hs
  | setup h => exact memoryCanonical_congr h.mem hs
  | start h => exact memoryCanonical_congr h.mem hs
  | hands h => exact memoryCanonical_congr h.mem hs

/-! ## Order -/

/-- The rooms touched and the slots named by a check's entries are in order. -/
def Work.ordered (w : Work) : Prop := Tab.sorted w.touched = true ∧ sortedIndices w.named = true

theorem allFour_all (p : Fin 4 → Bool) : allFour.all p = true ↔ ∀ n, p n = true := by
  simp only [allFour, List.all_cons, List.all_nil, Bool.and_true, Bool.and_eq_true]
  refine ⟨fun ⟨h0, h1, h2, h3⟩ n => ?_, fun h => ⟨h 0, h 1, h 2, h 3⟩⟩
  match n with
  | 0 => exact h0
  | 1 => exact h1
  | 2 => exact h2
  | 3 => exact h3

theorem State.orderOk_iff (s : State) : s.orderOk = true
    ↔ (∀ n, Tab.sorted (s.laneAt n).shadow = true) ∧ (∀ n, Tab.sorted (s.engine n).owed = true)
      ∧ sortedIndices s.comp.dirty = true ∧ (∀ c, s.comp.composition = some c → c.wanted.Nodup)
      ∧ ∀ c, s.lane.batch.check = some c → c.work.ordered := by
  unfold State.orderOk Work.ordered
  simp only [Bool.and_eq_true, allFour_all, Option.all_eq_true, noRepeat_iff, forall_and, and_assoc]

section Order

/-- What the order of the tables says of the lanes is kept. -/
def State.lanesOrdered (s : State) : Prop := ∀ n, Tab.sorted (s.laneAt n).shadow = true

theorem laneAt_congr (h : t.lane = s.lane) (n : Fin 4) : t.laneAt n = s.laneAt n := by unfold State.laneAt; rw [h]
theorem engine_congr (h : t.engines = s.engines) (n : Fin 4) : t.engine n = s.engine n := by unfold State.engine; rw [h]

theorem sorted_setLane {n : Fin 4} {l : Lane} (hl : Tab.sorted l.shadow = true)
    (hs : ∀ m, Tab.sorted (s.laneAt m).shadow = true) (m : Fin 4) : Tab.sorted ((s.lane.lanes.set n l).get m).shadow = true := by
  rw [Quad.get_set]
  split
  · exact hl
  · exact hs m

theorem LaneAct.shadows (h : LaneAct s t) (hs : ∀ n, Tab.sorted (s.laneAt n).shadow = true) (m : Fin 4) :
    Tab.sorted (t.laneAt m).shadow = true := by
  cases h with
  | captures n k v hk ho => exact sorted_setLane (Tab.sorted_set _ _ (hs n)) hs m
  | capturesByte n k i d hk ho => exact sorted_setLane (Tab.sorted_set _ _ (hs n)) hs m
  | clears n ho => exact sorted_setLane rfl hs m
  | holds n r => exact sorted_setLane (l := { s.laneAt n with heldResult := r }) (hs n) hs m
  | accepts n q e ho hj => exact sorted_setLane (l := acceptedLane (s.laneAt n) q e) (hs n) hs m
  | promotes n rest hc hr hq => exact sorted_setLane (l := { s.laneAt n with state := .applying }) (hs n) hs m
  | releases n => exact sorted_setLane rfl hs m
  | _ => exact hs m

theorem sorted_touches {rooms : List Nat} {off : Nat} {l : Tab Nat} (h : Tab.sorted l = true) :
    Tab.sorted (rooms.foldl (fun t r => Tab.set t r off) l) = true := by
  induction rooms generalizing l with
  | nil => exact h
  | cons r rooms ih => exact ih (Tab.sorted_set r off h)

theorem Work.ordered_marks {off : Nat} {w w' : Work} (h : w.marks off w') (hw : w.ordered) : w'.ordered := by
  obtain ⟨h1, h2⟩ := hw
  cases h with
  | keeps hs hn ht =>
    obtain ⟨rooms, ht⟩ := ht
    exact ⟨ht ▸ sorted_touches h1, hn ▸ h2⟩
  | puts i d hd ha => exact ⟨h1, sortedIndices_insertIndex i h2⟩
  | drops i => exact ⟨h1, sortedIndices_insertIndex i h2⟩

theorem LaneAct.checks (h : LaneAct s t) (hs : ∀ c, s.lane.batch.check = some c → c.work.ordered) (c : Check)
    (hc : t.lane.batch.check = some c) : c.work.ordered := by
  cases h with
  | begins es n hb hn hw => cases hc; exact ⟨rfl, rfl⟩
  | simulates k off e hn =>
    have hw := hs k (by rw [(nextEntry_eq_some hn).1]; rfl)
    cases hc
    cases ho : simulate s.setup.retain off e k.work with
    | refused code first => exact hw
    | passed w => exact Work.ordered_marks (simulate_marks ho) hw
  | results => cases hc
  | passes k hb he => cases hc; exact hs _ (by rw [hb]; rfl)
  | releases n => cases hc
  | _ => exact hs c hc

theorem orderOk_lane (h : LaneAct s t) (hs : s.orderOk = true) : t.orderOk = true := by
  rw [State.orderOk_iff] at hs ⊢
  obtain ⟨h1, h2, h3, h4, h5⟩ := hs
  refine ⟨h.shadows h1, fun n => ?_, ?_, ?_, h.checks h5⟩
  · rw [engine_congr h.engines]; exact h2 n
  · rw [h.comp]; exact h3
  · rw [h.comp]; exact h4

/-! ### Engines and the dirty set -/

theorem sorted_setEngine {n : Fin 4} {e : Engine} (he : Tab.sorted (s.engine n).owed = true → Tab.sorted e.owed = true)
    (hs : ∀ m, Tab.sorted (s.engine m).owed = true) (m : Fin 4) : Tab.sorted ((s.engines.set n e).get m).owed = true := by
  rw [Quad.get_set]
  split
  · exact he (hs n)
  · exact hs m

theorem handToPort_owed (s : State) (n m : Fin 4) : ((s.handToPort n).engine m).owed = (s.engine m).owed := by
  obtain ⟨e, p, h, ho, -⟩ := handToPort_eq s n
  rw [h, State.engine_setPort, State.engine_setEngine]
  split
  next hm => rw [hm, ho]
  next => rfl

/-- The end of a composition leaves what is owed as it is. -/
theorem endComposition_owed (s : State) (c : Composition) (m : Fin 4) :
    ((s.endComposition c).engine m).owed = (s.engine m).owed := by
  have idle : ∀ (u : State) (n : Fin 4), ((u.updateEngine n fun e => { e with state := .idle }).engine m).owed
      = (u.engine m).owed := fun u n => by
    unfold State.updateEngine
    rw [State.engine_setEngine]
    split
    next hm => rw [hm]
    next => rfl
  rcases endComposition_cases s c with h | ⟨g, hg, ⟨-, -, h | ⟨r, h⟩ | h⟩ | ⟨n, -, -, h | ⟨r, rec, b, h⟩ | h⟩⟩ <;> rw [h]
  · rfl
  · rfl
  · rfl
  · rfl
  · exact idle _ n
  · unfold State.sendFace State.updateEngine
    dsimp only
    rw [handToPort_owed, State.engine_setEngine]
    split
    next hm => rw [hm]; rfl
    next => rfl
  · exact idle _ n

theorem handToPort_comp (s : State) (n : Fin 4) : (s.handToPort n).comp = s.comp := by
  obtain ⟨e, p, h, -⟩ := handToPort_eq s n
  rw [h]; rfl

theorem endComposition_comp (s : State) (c : Composition) :
    (s.endComposition c).comp = { s.comp with composition := none } := by
  rcases endComposition_cases s c with h | ⟨g, hg, ⟨-, -, h | ⟨r, h⟩ | h⟩ | ⟨n, -, -, h | ⟨r, rec, b, h⟩ | h⟩⟩ <;> rw [h]
  · rfl
  · rfl
  · rfl
  · rfl
  · rfl
  · exact handToPort_comp _ _
  · rfl

theorem nodup_distinct (l : List Nat) : (distinct l).Nodup := by
  induction l with
  | nil => exact List.nodup_nil
  | cons x l ih => exact List.nodup_cons.2 ⟨by simp, ih.filter _⟩

theorem SignAct.owed (h : SignAct s t) (hs : ∀ n, Tab.sorted (s.engine n).owed = true) (m : Fin 4) :
    Tab.sorted (t.engine m).owed = true := by
  cases h with
  | engine n e ho hw => exact sorted_setEngine ho hs m
  | accepted n i g g' e hg hw hx hd hs' hf hc he ho => exact sorted_setEngine ho hs m
  | returned n i g g' r e hg hw hx hd hs' hf hc he ho => exact sorted_setEngine ho hs m
  | lost n i g e hg hw he ho => exact sorted_setEngine ho hs m
  | ends c hc => rw [endComposition_owed]; exact hs m
  | _ => exact hs m

theorem SignAct.dirty_sorted (h : SignAct s t) (hs : sortedIndices s.comp.dirty = true) : sortedIndices t.comp.dirty = true := by
  cases h with
  | dirty d hd => exact hd hs
  | ends c hc => rw [endComposition_comp]; exact hs
  | _ => exact hs

theorem SignAct.wanted (h : SignAct s t) (hs : ∀ c, s.comp.composition = some c → c.wanted.Nodup) (c : Composition)
    (hc : t.comp.composition = some c) : c.wanted.Nodup := by
  cases h with
  | ends k hk => rw [endComposition_comp] at hc; cases hc
  | orphans k hk => cases hc; exact hs k hk
  | begins i g n hg hn => cases hc; exact nodup_distinct _
  | _ => exact hs c hc

theorem orderOk_sign (h : SignAct s t) (hs : s.orderOk = true) : t.orderOk = true := by
  rw [State.orderOk_iff] at hs ⊢
  obtain ⟨h1, h2, h3, h4, h5⟩ := hs
  refine ⟨fun n => ?_, h.owed h2, h.dirty_sorted h3, h.wanted h4, ?_⟩
  · rw [laneAt_congr h.lane]; exact h1 n
  · rw [h.lane]; exact h5

/-! ### The text cache -/

theorem takeLines_suffix (l : List Nat) (c : TextCache) (got : Tab (List Byte)) : (takeLines l c got).1 <:+ l := by
  induction l generalizing c got with
  | nil => exact List.suffix_rfl
  | cons x l ih =>
    unfold takeLines
    split
    · exact (ih _ _).trans (List.suffix_cons _ _)
    · exact List.suffix_rfl

theorem arrive_comp (s : State) (f : Fill) : (s.arrive f).comp = s.comp := by
  unfold State.arrive
  dsimp only
  repeat' split
  all_goals rfl

theorem spoil_comp (s : State) (l : Nat) : (s.spoil l).comp = s.comp := by
  unfold State.spoil
  repeat' split
  all_goals rfl

theorem CacheAct.wanted (h : CacheAct s t) (hs : ∀ c, s.comp.composition = some c → c.wanted.Nodup) (c : Composition)
    (hc : t.comp.composition = some c) : c.wanted.Nodup := by
  cases h with
  | courses k hk => cases hc; exact (hs k hk).sublist (takeLines_suffix _ _ _).sublist
  | arrives l q f hq hf hl => rw [arrive_comp] at hc; exact hs c hc
  | snoops l w d hl hw => rw [spoil_comp] at hc; exact hs c hc
  | _ => exact hs c hc

theorem orderOk_cache (h : CacheAct s t) (hs : s.orderOk = true) : t.orderOk = true := by
  rw [State.orderOk_iff] at hs ⊢
  obtain ⟨h1, h2, h3, h4, h5⟩ := hs
  refine ⟨fun n => ?_, fun n => ?_, ?_, h.wanted h4, ?_⟩
  · rw [laneAt_congr h.lane]; exact h1 n
  · rw [engine_congr h.engines]; exact h2 n
  · rw [h.dirty]; exact h3
  · rw [h.lane]; exact h5

theorem orderOk_congr (h1 : t.lane = s.lane) (h2 : t.engines = s.engines) (h3 : t.comp = s.comp) (hs : s.orderOk = true) :
    t.orderOk = true := by
  rw [State.orderOk_iff] at hs ⊢
  simp only [laneAt_congr h1, engine_congr h2, h1, h3]
  exact hs

/-! ### The apply step -/

theorem changeSlot_owed (defs : Tab SignDef) (dr : List Nat) (i : Nat) (hs : ∀ n, Tab.sorted (s.engine n).owed = true)
    (m : Fin 4) : Tab.sorted ((s.changeSlot defs dr i).engine m).owed = true := by
  have left : ∀ d : SignDef, Tab.sorted ((s.clearOldLine i d).engine m).owed = true := fun d => by
    have hw : ∀ e : Engine, (withdrawn i e).owed = e.owed := fun e => by
      unfold withdrawn
      repeat' split
      all_goals rfl
    unfold State.clearOldLine State.unowe State.updateEngine
    rw [State.setEngine_setEngine, State.engine_setEngine_self]
    refine sorted_setEngine (s := s) (fun h => ?_) hs m
    rw [hw]
    exact Tab.sorted_del _ h
  unfold State.changeSlot
  split
  · exact hs m
  · exact hs m
  · exact left _
  · split
    · exact left _
    · split
      · exact left _
      · exact hs m

theorem changeSlot_dirty (defs : Tab SignDef) (dr : List Nat) (i : Nat) (hs : sortedIndices s.comp.dirty = true) :
    sortedIndices (s.changeSlot defs dr i).comp.dirty = true := by
  unfold State.changeSlot
  split
  · exact hs
  · exact hs
  · exact sortedIndices_filter _ hs
  · split
    · exact hs
    · split <;> exact hs

theorem changeSlot_composition (s : State) (defs : Tab SignDef) (dr : List Nat) (i : Nat) :
    (s.changeSlot defs dr i).comp.composition = s.comp.composition := by
  unfold State.changeSlot
  split
  · rfl
  · rfl
  · rfl
  · split
    · rfl
    · split <;> rfl

/-- What the order of the tables says of the engines and the compositor. -/
def State.worksOrdered (s : State) : Prop :=
  (∀ n, Tab.sorted (s.engine n).owed = true) ∧ sortedIndices s.comp.dirty = true
    ∧ ∀ c, s.comp.composition = some c → c.wanted.Nodup

theorem worksOrdered_foldl_changeSlot (defs : Tab SignDef) (dr : List Nat) (l : List Nat) (hs : s.worksOrdered) :
    (l.foldl (fun t i => t.changeSlot defs dr i) s).worksOrdered := by
  induction l generalizing s with
  | nil => exact hs
  | cons i l ih =>
    obtain ⟨h1, h2, h3⟩ := hs
    exact ih ⟨changeSlot_owed defs dr i h1, changeSlot_dirty defs dr i h2, by rw [changeSlot_composition]; exact h3⟩

theorem dirtied_markApplied (s old : State) (w : Work) : s.dirtied (s.markApplied old w) := by
  have h1 := dirtied_foldl (fun (t : State) i => t.markWhere fun g =>
    targetsRoom g.2.defn i (zoneOf old.store.rooms i ++ zoneOf w.rooms i)) (fun t _ => dirtied_markWhere t _)
    (Tab.keys w.touched) s
  exact h1.trans (dirtied_foldl State.markDirty dirtied_markDirty w.named _)

theorem dirtied_markedApplied (u s : State) (w : Work) : u.dirtied (u.markedApplied s w) := by
  have h : u.dirtied (if clockDiffers s.clock w then u.markAll else u) := by
    split
    · exact dirtied_markAll u
    · exact .refl u
  exact (h.trans (dirtied_markRoomChanges _ s)).trans (dirtied_markApplied _ s w)

theorem worksOrdered_applied (w : Work) (hs : s.worksOrdered) : (s.applied w).worksOrdered := by
  rw [applied_eq]
  obtain ⟨h1, h2, h3⟩ : ((s.storeApplied w).changeSigns w).worksOrdered := worksOrdered_foldl_changeSlot _ _ _ hs
  obtain ⟨d, hd, hsort⟩ := dirtied_markedApplied ((s.storeApplied w).changeSigns w) s w
  rw [hd]
  exact ⟨h1, hsort h2, h3⟩

theorem orderOk_setup (h : SetupAct s t) (hs : s.orderOk = true) : t.orderOk = true := by
  cases h with
  | fillNext k it rest hw hp hk hs' =>
    obtain ⟨b, q, st, he⟩ := fillEntered_eq s it rest
    rw [he]; exact orderOk_congr rfl rfl rfl hs
  | fillLast k it rest hw hp hk hs' =>
    obtain ⟨b, q, st, he⟩ := fillEntered_eq s it rest
    rw [he]; exact orderOk_congr rfl rfl rfl hs
  | minute c d h =>
    rw [State.orderOk_iff] at hs
    obtain ⟨h1, h2, h3, h4, h5⟩ := hs
    rcases startOver_eq { s with
      clock := c
      store :=
        { sessions := retired s.setup.retain s.clock.now s.store.sessions
          rooms := deriveAll (retired s.setup.retain s.clock.now s.store.sessions) s.clock.now s.store.rooms }
      comp := { s.comp with dirty := d } } with ⟨hb, ho⟩ | ⟨k, hb, ho⟩
    · rw [ho, State.orderOk_iff]
      exact ⟨h1, h2, h h3, h4, h5⟩
    · rw [ho, State.orderOk_iff]
      exact ⟨h1, h2, h h3, h4, fun c hc => by cases hc; exact ⟨rfl, rfl⟩⟩
  | applies c h =>
    rw [State.orderOk_iff] at hs
    obtain ⟨h1, h2, h3, h4, h5⟩ := hs
    obtain ⟨w2, w3, w4⟩ := worksOrdered_applied c.work ⟨h2, h3, h4⟩
    rw [State.orderOk_iff]
    refine ⟨fun n => ?_, w2, w3, w4, fun k hk => by cases hk⟩
    have hl : (((s.applied c.work).setBatch .resulting).laneAt n).shadow = (s.laneAt n).shadow := by
      rw [applied_frame]; rfl
    rw [hl]; exact h1 n
  | _ => exact orderOk_congr rfl rfl rfl hs

theorem orderOk_start (h : StartAct s t) (hs : s.orderOk = true) : t.orderOk = true := by
  cases h with
  | pins p h => exact orderOk_congr rfl rfl rfl hs
  | straps p b hg ha hp hh => exact orderOk_congr rfl rfl rfl hs
  | _ => exact orderOk_congr (s := State.reset) rfl rfl rfl rfl

theorem Act.orderOk (h : Act P s t) (hs : s.orderOk = true) : t.orderOk = true := by
  cases h with
  | path h => exact orderOk_congr h.lane h.engines h.comp hs
  | sign h => exact orderOk_sign h hs
  | cache h => exact orderOk_cache h hs
  | lane h => exact orderOk_lane h hs
  | setup h => exact orderOk_setup h hs
  | start h => exact orderOk_start h hs
  | hands h => exact orderOk_congr h.lane h.engines h.comp hs

end Order

/-- Settles O9: memory's form and the order of the tables are kept by every act. -/
theorem stepKeepsTablesInOrder : Obligations.StepKeepsTablesInOrder := by
  unfold Obligations.StepKeepsTablesInOrder
  exact fun s t hm ho h =>
    ⟨step_keeps (Q := fun u => u.memoryCanonical = true) (fun _ _ h => h.memoryCanonical) (fun _ _ => id)
        h hm,
      step_keeps (Q := fun u => u.orderOk = true) (fun _ _ h => h.orderOk) (fun _ _ => id) h ho⟩

end Sys2Proof.Machine
end

section
/-! Bounds of the queues, the text cache and the lanes, kept by every act (R34, R68, R71, R169, R174, R175). -/

namespace Sys2Proof.Machine

variable {P : Prop} {s t u : State}

/-! ## The text cache -/

/-- The list of cached lines holds at most 64, none twice (R68). -/
def linesFit (l : List CacheLine) : Prop := l.length ≤ 64 ∧ (l.map (·.line)).Nodup

/-- The pending fills, at most 4 with no two for one line, and the fill queue, which holds those not HOLDING (R71, R175). -/
structure FillsFit (fs : List Fill) (q : List Nat) : Prop where
  bound : fs.length ≤ 4
  once : (fs.map (·.line)).Nodup
  queued : q.Nodup
  filled : ∀ l ∈ q, l ∈ fs.map (·.line)
  waits : ∀ f ∈ fs, f.line ∈ q ↔ f.state ≠ .holding

theorem find?_eq_some_of_nodup {α : Type} {key : α → Nat} {l : List α} (h : (l.map key).Nodup) (x : α) (k : Nat) :
    l.find? (fun e => decide (key e = k)) = some x ↔ x ∈ l ∧ key x = k := by
  induction l with
  | nil => simp
  | cons y l ih =>
    rw [List.map_cons, List.nodup_cons] at h
    rw [List.find?_cons]
    by_cases hy : key y = k
    · simp only [hy, decide_true, Option.some.injEq, List.mem_cons]
      refine ⟨fun he => he ▸ ⟨.inl rfl, hy⟩, fun ⟨hx, hk⟩ => ?_⟩
      rcases hx with rfl | hx
      · rfl
      · exact absurd (List.mem_map_of_mem (f := key) hx) (by rw [hk, ← hy]; exact h.1)
    · simp only [hy, decide_false, ih h.2, List.mem_cons]
      exact ⟨fun ⟨hx, hk⟩ => ⟨.inr hx, hk⟩, fun ⟨hx, hk⟩ => ⟨hx.resolve_left fun he => hy (he ▸ hk), hk⟩⟩

theorem fill_eq_some {c : TextCache} (h : (c.fills.map (·.line)).Nodup) {l : Nat} {f : Fill} :
    c.fill l = some f ↔ f ∈ c.fills ∧ f.line = l := find?_eq_some_of_nodup h f l

theorem fill_eq_none {c : TextCache} {l : Nat} : c.fill l = none ↔ l ∉ c.fills.map (·.line) := by
  simp [TextCache.fill]

theorem mem_of_fill {c : TextCache} {l : Nat} {f : Fill} (h : c.fill l = some f) : f ∈ c.fills ∧ f.line = l :=
  ⟨List.mem_of_find?_eq_some h, by simpa using List.find?_some h⟩

theorem mem_of_entry {c : TextCache} {l : Nat} {e : CacheLine} (h : c.entry l = some e) : e ∈ c.lines ∧ e.line = l :=
  ⟨List.mem_of_find?_eq_some h, by simpa using List.find?_some h⟩

theorem State.cacheOk_iff (s : State) : s.cacheOk = true
    ↔ linesFit s.cache.lines ∧ FillsFit s.cache.fills s.path.fillQueue := by
  simp only [State.cacheOk, linesFit, noRepeat_iff, Bool.and_eq_true, decide_eq_true_eq, List.all_eq_true, Bool.or_eq_true,
    List.contains_iff_mem, Option.any_eq_true, and_assoc]
  refine ⟨fun ⟨h1, h2, h3, h4, h5, h6, h7⟩ => ⟨h1, h2, h3, h4, h5, fun l hl => ?_, fun f hf => ⟨fun hl => ?_, fun hs => ?_⟩⟩,
    fun ⟨h1, h2, h⟩ => ⟨h1, h2, h.bound, h.once, h.queued, fun l hl => ?_, fun f hf => ?_⟩⟩
  · obtain ⟨f, hf, -⟩ := h6 l hl
    obtain ⟨hm, rfl⟩ := mem_of_fill hf
    exact List.mem_map_of_mem hm
  · obtain ⟨g, hg, hs⟩ := h6 _ hl
    rw [(fill_eq_some h4).2 ⟨hf, rfl⟩] at hg
    cases hg
    exact hs
  · exact (h7 f hf).resolve_left hs
  · obtain ⟨f, hf, rfl⟩ := List.mem_map.1 (h.filled l hl)
    exact ⟨f, (fill_eq_some h.once).2 ⟨hf, rfl⟩, (h.waits f hf).1 hl⟩
  · by_cases hs : f.state = .holding
    · exact .inl hs
    · exact .inr ((h.waits f hf).2 hs)

theorem linesFit.filter {l : List CacheLine} (h : linesFit l) (p : CacheLine → Bool) : linesFit (l.filter p) :=
  ⟨(List.length_filter_le _ _).trans h.1, h.2.sublist (List.filter_sublist.map _)⟩

theorem not_mem_lines_filter (l : List CacheLine) (k : Nat) : k ∉ (l.filter fun e => e.line ≠ k).map (·.line) := by simp

theorem linesFit_moveFront {c : TextCache} (l : Nat) (h : linesFit c.lines) : linesFit (c.moveFront l).lines := by
  unfold TextCache.moveFront
  split
  next e he =>
    obtain ⟨hm, rfl⟩ := mem_of_entry he
    have hlt : (c.lines.filter fun x => x.line ≠ e.line).length < c.lines.length :=
      List.length_filter_lt_length_iff_exists.2 ⟨e, hm, by simp⟩
    exact ⟨Nat.le_trans hlt h.1, List.nodup_cons.2 ⟨not_mem_lines_filter _ _, (h.filter _).2⟩⟩
  next => exact h

theorem linesFit_join {c : TextCache} (l : Nat) (d : List Byte) (h : linesFit c.lines) : linesFit (c.join l d).lines := by
  have hs : ((c.lines.filter fun e => e.line ≠ l).take 63).Sublist (c.lines.filter fun e => e.line ≠ l) :=
    List.take_sublist _ _
  refine ⟨?_, List.nodup_cons.2 ⟨fun hm => not_mem_lines_filter c.lines l ((hs.map _).subset hm), ?_⟩⟩
  · have := List.length_take_le 63 (c.lines.filter fun e => e.line ≠ l)
    show _ + 1 ≤ 64
    exact Nat.succ_le_succ this
  · exact (h.filter _).2.sublist (hs.map _)

theorem moveFront_fills (c : TextCache) (l : Nat) : (c.moveFront l).fills = c.fills := by
  unfold TextCache.moveFront
  split <;> rfl

theorem touchList_fills (c : TextCache) (ls : List Nat) : (c.touchList ls).fills = c.fills := by
  induction ls with
  | nil => rfl
  | cons l ls ih => exact (moveFront_fills _ _).trans ih

theorem linesFit_touchList {c : TextCache} (ls : List Nat) (h : linesFit c.lines) : linesFit (c.touchList ls).lines := by
  induction ls with
  | nil => exact h
  | cons l ls ih => exact linesFit_moveFront l ih

/-- A held line is held by a HOLDING fill. -/
theorem held_eq_some {c : TextCache} {l : Nat} {d : List Byte} (h : c.held l = some d) :
    ∃ f, c.fill l = some f ∧ f.state = .holding := by
  unfold TextCache.held at h
  split at h
  next f hf =>
    split at h
    next hs => exact ⟨f, hf, hs⟩
    next => cases h
  next => cases h

/-! ### Fills -/

section Fills

variable {fs : List Fill} {q : List Nat}

/-- A fill that is HOLDING leaves the set; it was not queued. -/
theorem FillsFit.drop_holding {f : Fill} (h : FillsFit fs q) (hf : f ∈ fs) (hs : f.state = .holding) :
    FillsFit (fs.filter fun g => g.line ≠ f.line) q where
  bound := (List.length_filter_le _ _).trans h.bound
  once := h.once.sublist (List.filter_sublist.map _)
  queued := h.queued
  filled l hl := by
    obtain ⟨g, hg, rfl⟩ := List.mem_map.1 (h.filled l hl)
    have hne : g.line ≠ f.line := fun he => (h.waits f hf).1 (he ▸ hl) hs
    exact List.mem_map_of_mem (List.mem_filter.2 ⟨hg, by simpa using hne⟩)
  waits g hg := h.waits g (List.mem_of_mem_filter hg)

/-- A fill leaves the set and the queue. -/
theorem FillsFit.drop (h : FillsFit fs q) (l : Nat) :
    FillsFit (fs.filter fun g => g.line ≠ l) (q.filter (· ≠ l)) where
  bound := (List.length_filter_le _ _).trans h.bound
  once := h.once.sublist (List.filter_sublist.map _)
  queued := h.queued.filter _
  filled m hm := by
    obtain ⟨hm, hne⟩ := List.mem_filter.1 hm
    obtain ⟨g, hg, rfl⟩ := List.mem_map.1 (h.filled m hm)
    exact List.mem_map_of_mem (List.mem_filter.2 ⟨hg, by simpa using hne⟩)
  waits g hg := by
    obtain ⟨hg, hne⟩ := List.mem_filter.1 hg
    rw [← h.waits g hg, List.mem_filter]
    exact ⟨And.left, fun hl => ⟨hl, by simpa using hne⟩⟩

theorem FillsFit.issue {l : Nat} (h : FillsFit fs q) (hn : l ∉ fs.map (·.line)) (hlt : fs.length < 4) :
    FillsFit (fs ++ [newFill l]) (q ++ [l]) where
  bound := by simp; omega
  once := by
    rw [List.map_append, List.nodup_append]
    refine ⟨h.once, List.nodup_singleton _, fun a ha b hb he => hn ?_⟩
    rw [List.map_singleton, List.mem_singleton] at hb
    rw [he, hb] at ha
    exact ha
  queued := List.nodup_append.2 ⟨h.queued, List.nodup_singleton _, fun a ha b hb he =>
    hn (h.filled l (by rw [← List.mem_singleton.1 hb, ← he]; exact ha))⟩
  filled m hm := by
    rw [List.map_append, List.mem_append]
    exact (List.mem_append.1 hm).imp (h.filled m) id
  waits g hg := by
    rw [List.mem_append, List.mem_singleton]
    rcases List.mem_append.1 hg with hg | hg
    · rw [← h.waits g hg]
      exact ⟨fun hm => hm.resolve_right fun he => hn (he ▸ List.mem_map_of_mem hg), .inl⟩
    · rw [List.mem_singleton.1 hg]
      exact ⟨fun _ => FillState.noConfusion, fun _ => .inr rfl⟩

/-- The fill of one line changes; the queue holds its line as its new state says. -/
theorem FillsFit.change {l : Nat} {g : Fill → Fill} {q' : List Nat} (h : FillsFit fs q) (hg : ∀ f, (g f).line = f.line)
    (hq : q'.Nodup) (hm : l ∈ fs.map (·.line)) (ho : ∀ m, m ≠ l → (m ∈ q' ↔ m ∈ q))
    (hl : ∀ f ∈ fs, f.line = l → (l ∈ q' ↔ (g f).state ≠ .holding)) :
    FillsFit (fs.map fun f => if f.line = l then g f else f) q' := by
  have hk : (fs.map fun f => if f.line = l then g f else f).map (·.line) = fs.map (·.line) := by
    rw [List.map_map]
    refine List.map_congr_left fun f _ => ?_
    simp only [Function.comp]
    split
    · exact hg f
    · rfl
  refine ⟨by simpa using h.bound, hk ▸ h.once, hq, fun m hmq => ?_, fun f hf => ?_⟩
  · rw [hk]
    by_cases he : m = l
    · exact he ▸ hm
    · exact h.filled m ((ho m he).1 hmq)
  · obtain ⟨x, hx, rfl⟩ := List.mem_map.1 hf
    by_cases he : x.line = l
    · rw [if_pos he, hg, he]; exact hl x hx he
    · rw [if_neg he, ho _ he]; exact h.waits x hx

theorem FillsFit.not_mem {f : Fill} (h : FillsFit fs q) (hf : f ∈ fs) (hs : f.state = .holding) : f.line ∉ q :=
  fun hm => (h.waits f hf).1 hm hs

end Fills

theorem FillsFit_dropFill_held {c : TextCache} {q : List Nat} {l : Nat} {d : List Byte} (hd : c.held l = some d)
    (h : FillsFit c.fills q) : FillsFit (c.dropFill l).fills q := by
  obtain ⟨f, hf, hs⟩ := held_eq_some hd
  obtain ⟨hm, rfl⟩ := mem_of_fill hf
  exact h.drop_holding hm hs

/-- A text cache within its bounds, with a fill queue. -/
def TextCache.fits (c : TextCache) (q : List Nat) : Prop := linesFit c.lines ∧ FillsFit c.fills q

theorem TextCache.fits_take {c c' : TextCache} {q : List Nat} {l : Nat} {d : List Byte} (ht : c.take l = some (d, c'))
    (h : c.fits q) : c'.fits q := by
  unfold TextCache.take at ht
  split at ht
  next => cases ht; exact ⟨linesFit_moveFront l h.1, (moveFront_fills c l).symm ▸ h.2⟩
  next =>
    split at ht
    next d' hd => cases ht; exact ⟨h.1, FillsFit_dropFill_held hd h.2⟩
    next => cases ht

theorem TextCache.fits_takeLines {q : List Nat} (ls : List Nat) {c : TextCache} (got : Tab (List Byte)) (h : c.fits q) :
    (takeLines ls c got).2.1.fits q := by
  induction ls generalizing c got with
  | nil => exact h
  | cons l ls ih =>
    unfold takeLines
    split
    next d c' ht => exact ih _ (TextCache.fits_take ht h)
    next => exact h

theorem latestHolding_held {c : TextCache} {ls : List Nat} {m : Nat} (h : latestHolding c ls = some m) :
    ∃ d, c.held m = some d := by
  induction ls with
  | nil => cases h
  | cons l ls ih =>
    unfold latestHolding at h
    split at h
    next k hk => cases h; exact ih hk
    next =>
      split at h
      next hh => cases h; exact Option.isSome_iff_exists.1 hh
      next => cases h

/-- The composition's place yielded: no fill, or a HOLDING one leaves the set (R73). -/
theorem yieldPlace_cases (ls : List Nat) (c : TextCache) :
    yieldPlace ls c = c ∨ ∃ m d, c.held m = some d ∧ yieldPlace ls c = c.dropFill m := by
  unfold yieldPlace
  split
  · exact .inl rfl
  · split
    · exact .inl rfl
    · split
      next m hm =>
        obtain ⟨d, hd⟩ := latestHolding_held hm
        exact .inr ⟨m, d, hd, rfl⟩
      next => exact .inl rfl

theorem TextCache.fits_yieldPlace {q : List Nat} (ls : List Nat) {c : TextCache} (h : c.fits q) :
    (yieldPlace ls c).fits q := by
  rcases yieldPlace_cases ls c with he | ⟨m, d, hd, he⟩
  · rw [he]; exact h
  · rw [he]; exact ⟨h.1, FillsFit_dropFill_held hd h.2⟩

theorem TextCache.fits_issueFills (ls : List Nat) {c : TextCache} {q : List Nat} (h : c.fits q) :
    (issueFills ls c q).1.fits (issueFills ls c q).2 := by
  induction ls generalizing c q with
  | nil => exact h
  | cons l ls ih =>
    unfold issueFills
    split
    next => exact ih h
    next hn =>
      split
      next hlt =>
        refine ih ⟨h.1, h.2.issue (fill_eq_none.1 ?_) hlt⟩
        simp only [Bool.or_eq_true, not_or, Bool.not_eq_true, Option.isSome_eq_false_iff, Option.isNone_iff_eq_none] at hn
        exact hn.2
      next => exact h

theorem cacheOk_congr (h1 : t.cache = s.cache) (h2 : t.path.fillQueue = s.path.fillQueue) (hs : s.cacheOk = true) :
    t.cacheOk = true := by
  rw [State.cacheOk_iff] at hs ⊢; rw [h1, h2]; exact hs

theorem mem_filter_append {q : List Nat} {l m : Nat} (h : m ≠ l) : m ∈ q.filter (· ≠ l) ++ [l] ↔ m ∈ q := by
  simp [h]

theorem nodup_filter_append {q : List Nat} (l : Nat) (h : q.Nodup) : (q.filter (· ≠ l) ++ [l]).Nodup := by
  refine List.nodup_append.2 ⟨h.filter _, List.nodup_singleton _, fun a ha b hb he => ?_⟩
  rw [List.mem_singleton.1 hb] at he
  simp [he] at ha

/-- A fill that has its words arrives: issued again, HOLDING, or gone with its line in the list (R72, R73, R76). -/
theorem cacheOk_arrive {f : Fill} (hm : f.line ∈ s.cache.fills.map (·.line)) (h : s.cache.fits s.path.fillQueue) :
    (s.arrive f).cache.fits (s.arrive f).path.fillQueue := by
  have ho : ∀ m, m ≠ f.line → (m ∈ s.path.fillQueue.filter (· ≠ f.line) ↔ m ∈ s.path.fillQueue) := fun m hne => by
    simp [hne]
  unfold State.arrive
  dsimp only
  split
  next =>
    refine ⟨h.1, ?_⟩
    have hc := h.2.change (l := f.line) (g := fun x => newFill x.line) (fun _ => rfl)
      (nodup_filter_append f.line h.2.queued) hm (fun m => mem_filter_append)
      (fun g _ _ => ⟨fun _ => FillState.noConfusion, fun _ => by simp⟩)
    have he : (s.cache.reissue f.line).fills
        = s.cache.fills.map fun x => if x.line = f.line then newFill x.line else x :=
      List.map_congr_left fun x _ => ite_congr rfl (fun e => by rw [e]) (fun _ => rfl)
    exact he ▸ hc
  next =>
    split
    next =>
      exact ⟨h.1, h.2.change (g := fun x => { x with state := .holding }) (fun _ => rfl) (h.2.queued.filter _) hm ho
        (fun g _ _ => by simp)⟩
    next => exact ⟨linesFit_join _ _ h.1, h.2.drop _⟩

theorem cacheOk_spoil (l : Nat) (h : s.cache.fits s.path.fillQueue) :
    (s.spoil l).cache.fits (s.spoil l).path.fillQueue := by
  unfold State.spoil
  split
  next => exact h
  next f hf =>
    obtain ⟨hm, rfl⟩ := mem_of_fill hf
    have hl := List.mem_map_of_mem (f := Fill.line) hm
    split
    next hs =>
      have hn := h.2.not_mem hm hs
      have hc := h.2.change (l := f.line) (g := fun x => newFill x.line) (q' := s.path.fillQueue ++ [f.line])
        (fun _ => rfl)
        (List.nodup_append.2 ⟨h.2.queued, List.nodup_singleton _, fun a ha b hb he =>
          hn (by rw [← List.mem_singleton.1 hb, ← he]; exact ha)⟩) hl
        (fun m hne => by simp [hne]) (fun g _ _ => ⟨fun _ => FillState.noConfusion, fun _ => by simp⟩)
      have he : (s.cache.reissue f.line).fills
          = s.cache.fills.map fun x => if x.line = f.line then newFill x.line else x :=
        List.map_congr_left fun x _ => ite_congr rfl (fun e => by rw [e]) (fun _ => rfl)
      exact ⟨h.1, he ▸ hc⟩
    next =>
      exact ⟨h.1, h.2.change (g := fun x => { x with spoiled := true }) (fun _ => rfl) h.2.queued hl (fun _ _ => Iff.rfl)
        (fun g hg he => he ▸ h.2.waits g hg)⟩

theorem FillsFit.readWord {c : TextCache} {q : List Nat} {l : Nat} (w : Word) (h : FillsFit c.fills q) (hl : l ∈ q) :
    FillsFit (c.readWord l w).fills q :=
  h.change (g := fun f => { f with state := .reading, data := f.data ++ [w] }) (fun _ => rfl) h.queued (h.filled l hl)
    (fun _ _ => Iff.rfl) (fun _ _ _ => ⟨fun _ => FillState.noConfusion, fun _ => hl⟩)

theorem readWord_keys (c : TextCache) (l : Nat) (w : Word) : (c.readWord l w).fills.map (·.line) = c.fills.map (·.line) := by
  unfold TextCache.readWord
  rw [List.map_map]
  refine List.map_congr_left fun f _ => ?_
  simp only [Function.comp]
  split <;> rfl

theorem CacheAct.cacheOk (h : CacheAct s t) (hs : s.cacheOk = true) : t.cacheOk = true := by
  rw [State.cacheOk_iff] at hs ⊢
  have hf : s.cache.fits s.path.fillQueue := hs
  cases h with
  | courses c h => exact TextCache.fits_issueFills _ (TextCache.fits_yieldPlace _ (TextCache.fits_takeLines _ _ hf))
  | touches ls => exact ⟨linesFit_touchList ls hf.1, (touchList_fills s.cache ls).symm ▸ hf.2⟩
  | empties => exact ⟨⟨Nat.zero_le _, List.nodup_nil⟩, hf.2⟩
  | skips l q hq hn =>
    have he : s.path.fillQueue.filter (· ≠ l) = s.path.fillQueue := List.filter_eq_self.2 fun m hm => by
      have hk := hf.2.filled m hm
      have hn' := fill_eq_none.1 hn
      simpa using fun he : m = l => hn' (he ▸ hk)
    exact ⟨hf.1, he.symm ▸ hf.2⟩
  | reads l q f hq hfl hlt => exact ⟨hf.1, hf.2.readWord _ (by rw [hq]; exact List.mem_cons_self)⟩
  | arrives l q f hq hfl hlt =>
    obtain ⟨hm, rfl⟩ := mem_of_fill hfl
    exact cacheOk_arrive (s := { s with cache := s.cache.readWord f.line (s.wordRead f.line f) })
      (by rw [readWord_keys]; exact List.mem_map_of_mem (f := Fill.line) (a := f) hm)
      ⟨hf.1, hf.2.readWord _ (by rw [hq]; exact List.mem_cons_self)⟩
  | snoops l w d hl hw =>
    exact cacheOk_spoil (s := { s.forwardAt (poolOffset l + 2 * w) d with
        cache := (s.forwardAt (poolOffset l + 2 * w) d).cache.without l }) l ⟨hf.1.filter _, hf.2⟩

theorem cacheOk_empty (h1 : t.cache = { lines := [], fills := [] }) (h2 : t.path.fillQueue = []) : t.cacheOk = true := by
  rw [State.cacheOk_iff, h1, h2]
  exact ⟨⟨Nat.zero_le _, List.nodup_nil⟩, ⟨Nat.zero_le _, List.nodup_nil, List.nodup_nil, by simp, by simp⟩⟩

theorem PathAct.fillQueue (h : PathAct s t) : t.path.fillQueue = s.path.fillQueue := by
  cases h with
  | turns p h => exact h.2.2.1
  | _ => rfl

theorem SetupAct.cache (h : SetupAct s t) : t.cache = s.cache := by
  cases h with
  | fillNext k it rest hw hp hk hs =>
    obtain ⟨b, q, st, he⟩ := fillEntered_eq s it rest
    rw [he]; rfl
  | fillLast k it rest hw hp hk hs =>
    obtain ⟨b, q, st, he⟩ := fillEntered_eq s it rest
    rw [he]
  | minute c d h => rw [startOver_frame]
  | applies c h => rw [applied_frame]; rfl
  | _ => rfl

theorem SetupAct.fillQueue (h : SetupAct s t) : t.path.fillQueue = s.path.fillQueue := by
  cases h with
  | fillNext k it rest hw hp hk hs =>
    obtain ⟨b, q, st, he⟩ := fillEntered_eq s it rest
    rw [he]; rfl
  | fillLast k it rest hw hp hk hs =>
    obtain ⟨b, q, st, he⟩ := fillEntered_eq s it rest
    rw [he]
  | minute c d h => rw [startOver_frame]
  | applies c h => rw [applied_frame]; rfl
  | _ => rfl

theorem SetupAct.insist (h : SetupAct s t) : t.path.insist = s.path.insist := by
  cases h with
  | fillNext k it rest hw hp hk hs =>
    obtain ⟨b, q, st, he⟩ := fillEntered_eq s it rest
    rw [he]; rfl
  | fillLast k it rest hw hp hk hs =>
    obtain ⟨b, q, st, he⟩ := fillEntered_eq s it rest
    rw [he]
  | minute c d h => rw [startOver_frame]
  | applies c h => rw [applied_frame]; rfl
  | _ => rfl

theorem Act.cacheOk (h : Act P s t) (hs : s.cacheOk = true) : t.cacheOk = true := by
  cases h with
  | path h => exact cacheOk_congr h.cache h.fillQueue hs
  | sign h => exact cacheOk_congr h.cache (by rw [h.path]) hs
  | cache h => exact h.cacheOk hs
  | lane h => exact cacheOk_congr h.cache (by rw [h.path]) hs
  | setup h => exact cacheOk_congr h.cache h.fillQueue hs
  | start h =>
    cases h with
    | pins p h => exact cacheOk_congr rfl rfl hs
    | straps p b hg ha hp hh => exact cacheOk_congr rfl rfl hs
    | _ => exact cacheOk_empty rfl rfl
  | hands h => exact cacheOk_congr h.cache h.fillQueue hs

/-! ## The post queue and the insist count -/

theorem State.postQueueFits_iff (s : State) : s.postQueueFits = true ↔ s.path.postQueue.length ≤ 64 := by
  exact decide_eq_true_iff

theorem postQueueFits_mono (h : t.path.postQueue.length ≤ s.path.postQueue.length) (hs : s.postQueueFits = true) :
    t.postQueueFits = true := by
  rw [State.postQueueFits_iff] at hs ⊢; omega

theorem PathAct.postQueueFits (h : PathAct s t) (hs : s.postQueueFits = true) : t.postQueueFits = true := by
  cases h with
  | turns p h => exact postQueueFits_mono (le_of_eq (congrArg List.length h.2.1)) hs
  | drains e q hq => exact postQueueFits_mono (by rw [hq]; exact Nat.le_succ _) hs
  | unqueues o => exact postQueueFits_mono (List.length_filter_le _ _) hs
  | _ => exact hs

theorem readyForLast_path (s : State) (p : Producer) : (s.readyForLast p).path = s.path := by
  obtain ⟨b, h⟩ := readyForLast_eq s p
  rw [h]

theorem postQueueFits_fillEntered {it : Item} {rest : List Item} (h : s.hasPlaces (recordSize it.record) = true) :
    (s.fillEntered it rest).postQueueFits = true := by
  simp only [State.hasPlaces, decide_eq_true_eq] at h
  unfold State.fillEntered
  rw [handRaise_eq, State.postQueueFits_iff]
  simp only [State.setWaiting, State.enqueue, List.length_append, entriesFrom_length, recordWords_length,
    readyForLast_path]
  exact h

theorem SetupAct.postQueueFits (h : SetupAct s t) (hs : s.postQueueFits = true) : t.postQueueFits = true := by
  cases h with
  | fillNext k it rest hw hp hk hf => exact postQueueFits_fillEntered (rest := rest) hf
  | fillLast k it rest hw hp hk hf => exact postQueueFits_fillEntered (rest := rest) hf
  | minute c d h => rw [startOver_frame]; exact hs
  | applies c h => rw [applied_frame]; exact hs
  | _ => exact hs

theorem Act.postQueueFits (h : Act P s t) (hs : s.postQueueFits = true) : t.postQueueFits = true := by
  cases h with
  | path h => exact h.postQueueFits hs
  | sign h => exact postQueueFits_mono (by rw [h.path]) hs
  | cache h => exact postQueueFits_mono (by rw [h.postQueue]) hs
  | lane h => exact postQueueFits_mono (by rw [h.path]) hs
  | setup h => exact h.postQueueFits hs
  | start h =>
    cases h with
    | pins p h => exact hs
    | straps p b hg ha hp hh => exact hs
    | _ => exact (State.postQueueFits_iff _).2 (Nat.zero_le _)
  | hands h => exact h.fits hs

theorem Act.insist (h : Act P s t) (hs : s.path.insist ≤ 255) : t.path.insist ≤ 255 := by
  cases h with
  | path h =>
    cases h with
    | turns p h => exact h.2.2.2 hs
    | _ => exact hs
  | sign h => rw [h.path]; exact hs
  | cache h => rw [h.insist]; exact hs
  | lane h => rw [h.path]; exact hs
  | setup h => rw [h.insist]; exact hs
  | start h =>
    cases h with
    | pins p h => exact hs
    | straps p b hg ha hp hh => exact hs
    | _ => exact Nat.zero_le _
  | hands h => rw [h.insist]; exact hs

/-! ## The lanes and the commit queue -/

theorem State.lanesOk_iff (s : State) : s.lanesOk = true ↔ s.lane.commit.Nodup
    ∧ (∀ n, (s.laneAt n).state ≠ .opened ↔ n ∈ s.lane.commit) ∧ ∀ n ∈ s.lane.commit.drop 1, (s.laneAt n).state = .queued := by
  have hv : (s.lane.commit.map (·.val)).Nodup ↔ s.lane.commit.Nodup :=
    List.nodup_map_iff (Fin.val_injective)
  have hb : ∀ n : Fin 4, (((s.laneAt n).state != .opened) == s.lane.commit.contains n) = true
      ↔ ((s.laneAt n).state ≠ .opened ↔ n ∈ s.lane.commit) := fun n => by
    rw [beq_iff_eq, Bool.eq_iff_iff, bne_iff_ne, List.contains_iff_mem]
  simp only [State.lanesOk, noRepeat_iff, Bool.and_eq_true, allFour_all, hv, hb, and_assoc]
  simp only [List.all_eq_true, decide_eq_true_eq]

theorem lanesOk_congr (h1 : ∀ n, (t.laneAt n).state = (s.laneAt n).state) (h2 : t.lane.commit = s.lane.commit)
    (hs : s.lanesOk = true) : t.lanesOk = true := by
  rw [State.lanesOk_iff] at hs ⊢; simp only [h1, h2]; exact hs

theorem state_setLane {n : Fin 4} {l : Lane} (h : l.state = (s.laneAt n).state) (m : Fin 4) :
    ((s.lane.lanes.set n l).get m).state = (s.laneAt m).state := by
  rw [Quad.get_set]
  split
  next he => rw [he, h]
  next => rfl

theorem LaneAct.lanesOk (h : LaneAct s t) (hs : s.lanesOk = true) : t.lanesOk = true := by
  cases h with
  | captures n k v hk ho =>
    exact lanesOk_congr (fun m => state_setLane (l := captureWord (s.laneAt n) k v) rfl m) rfl hs
  | capturesByte n k i d hk ho =>
    exact lanesOk_congr (fun m => state_setLane (l := captureByte (s.laneAt n) k i d) rfl m) rfl hs
  | clears n ho => exact lanesOk_congr (fun m => state_setLane (l := clearedLane (s.laneAt n)) rfl m) rfl hs
  | holds n r => exact lanesOk_congr (fun m => state_setLane (l := { s.laneAt n with heldResult := r }) rfl m) rfl hs
  | accepts n q e ho hj =>
    rw [State.lanesOk_iff] at hs ⊢
    obtain ⟨h1, h2, h3⟩ := hs
    have hn : n ∉ s.lane.commit := fun hm => (h2 n).2 hm ho
    have hst : ∀ m, m ≠ n → (s.lane.lanes.set n (acceptedLane (s.laneAt n) q e)).get m = s.laneAt m := fun m hm =>
      Quad.get_set_of_ne _ _ hm
    refine ⟨List.nodup_append.2 ⟨h1, List.nodup_singleton _, fun a ha b hb he => ?_⟩, fun m => ?_, fun m hm => ?_⟩
    · exact hn (by rw [← List.mem_singleton.1 hb, ← he]; exact ha)
    · show ((s.lane.lanes.set n (acceptedLane (s.laneAt n) q e)).get m).state ≠ .opened ↔ m ∈ s.lane.commit ++ [n]
      by_cases he : m = n
      · subst he
        rw [Quad.get_set_self]
        exact ⟨fun _ => by simp, fun _ => LaneState.noConfusion⟩
      · rw [hst m he, h2 m]; simp [he]
    · show ((s.lane.lanes.set n (acceptedLane (s.laneAt n) q e)).get m).state = .queued
      by_cases he : m = n
      · subst he; rw [Quad.get_set_self]; rfl
      · rw [hst m he]
        refine h3 m ?_
        have hm : m ∈ (s.lane.commit ++ [n]).drop 1 := hm
        rw [List.drop_append] at hm
        exact (List.mem_append.1 hm).resolve_right fun hx => he (List.mem_singleton.1 (List.mem_of_mem_drop hx))
  | promotes n rest hc hr hq =>
    rw [State.lanesOk_iff] at hs ⊢
    obtain ⟨h1, h2, h3⟩ := hs
    have h1' := List.nodup_cons.1 (hc ▸ h1)
    refine ⟨h1, fun m => ?_, fun m hm => ?_⟩
    · show ((s.lane.lanes.set n { s.laneAt n with state := .applying }).get m).state ≠ .opened ↔ m ∈ s.lane.commit
      by_cases he : m = n
      · subst he
        rw [Quad.get_set_self, hc]
        exact ⟨fun _ => List.mem_cons_self, fun _ => LaneState.noConfusion⟩
      · rw [Quad.get_set_of_ne _ _ he]; exact h2 m
    · show ((s.lane.lanes.set n { s.laneAt n with state := .applying }).get m).state = .queued
      have hm : m ∈ s.lane.commit.drop 1 := hm
      have hr : m ∈ rest := by rw [hc] at hm; exact hm
      rw [Quad.get_set_of_ne _ _ fun he : m = n => h1'.1 (he ▸ hr)]
      exact h3 m hm
  | releases n =>
    rw [State.lanesOk_iff] at hs ⊢
    obtain ⟨h1, h2, h3⟩ := hs
    refine ⟨h1.filter _, fun m => ?_, fun m hm => ?_⟩
    · show ((s.lane.lanes.set n { s.laneAt n with state := .opened, shadow := [], accepted := none }).get m).state ≠ .opened
        ↔ m ∈ s.lane.commit.filter (· ≠ n)
      by_cases he : m = n
      · subst he; rw [Quad.get_set_self]; simp
      · rw [Quad.get_set_of_ne _ _ he]
        exact (h2 m).trans (by simp [he])
    · show ((s.lane.lanes.set n { s.laneAt n with state := .opened, shadow := [], accepted := none }).get m).state = .queued
      have hm : m ∈ (s.lane.commit.filter (· ≠ n)).drop 1 := hm
      have hne : m ≠ n := by simpa using (List.mem_filter.1 (List.mem_of_mem_drop hm)).2
      rw [Quad.get_set_of_ne _ _ hne]
      refine h3 m ?_
      cases hc : s.lane.commit with
      | nil => rw [hc] at hm; cases hm
      | cons x rest =>
        rw [hc, List.filter_cons] at hm
        split at hm
        · exact List.mem_of_mem_filter hm
        · exact List.mem_of_mem_filter (List.mem_of_mem_drop hm)
  | _ => exact lanesOk_congr (fun _ => rfl) rfl hs

theorem SetupAct.lanes (h : SetupAct s t) : t.lane.lanes = s.lane.lanes ∧ t.lane.commit = s.lane.commit := by
  cases h with
  | fillNext k it rest hw hp hk hs =>
    obtain ⟨b, q, st, he⟩ := fillEntered_eq s it rest
    rw [he]; exact ⟨rfl, rfl⟩
  | fillLast k it rest hw hp hk hs =>
    obtain ⟨b, q, st, he⟩ := fillEntered_eq s it rest
    rw [he]; exact ⟨rfl, rfl⟩
  | minute c d h =>
    rcases startOver_eq { s with
      clock := c
      store :=
        { sessions := retired s.setup.retain s.clock.now s.store.sessions
          rooms := deriveAll (retired s.setup.retain s.clock.now s.store.sessions) s.clock.now s.store.rooms }
      comp := { s.comp with dirty := d } } with ⟨hb, ho⟩ | ⟨k, hb, ho⟩ <;> rw [ho] <;> exact ⟨rfl, rfl⟩
  | applies c h => rw [applied_frame]; exact ⟨rfl, rfl⟩
  | _ => exact ⟨rfl, rfl⟩

theorem lanesOk_of_lanes (h1 : t.lane.lanes = s.lane.lanes) (h2 : t.lane.commit = s.lane.commit) (hs : s.lanesOk = true) :
    t.lanesOk = true :=
  lanesOk_congr (fun n => by unfold State.laneAt; rw [h1]) h2 hs

theorem Act.lanesOk (h : Act P s t) (hs : s.lanesOk = true) : t.lanesOk = true := by
  cases h with
  | path h => exact lanesOk_of_lanes (by rw [h.lane]) (by rw [h.lane]) hs
  | sign h => exact lanesOk_of_lanes (by rw [h.lane]) (by rw [h.lane]) hs
  | cache h => exact lanesOk_of_lanes (by rw [h.lane]) (by rw [h.lane]) hs
  | lane h => exact h.lanesOk hs
  | setup h => exact lanesOk_of_lanes h.lanes.1 h.lanes.2 hs
  | start h =>
    cases h with
    | pins p h => exact lanesOk_of_lanes (s := s) rfl rfl hs
    | straps p b hg ha hp hh => exact lanesOk_of_lanes (s := s) rfl rfl hs
    | _ => exact lanesOk_of_lanes (s := State.reset) rfl rfl (by decide)
  | hands h => exact lanesOk_of_lanes (by rw [h.lane]) (by rw [h.lane]) hs

/-- Settles O8: each bound is kept by every act by itself. -/
theorem stepKeepsQueuesBounded : Obligations.StepKeepsQueuesBounded := by
  unfold Obligations.StepKeepsQueuesBounded
  intro s t hp hc hr hi hl h
  refine ⟨?_, ?_, ?_, ?_, ?_⟩
  · exact step_keeps (Q := fun u => u.postQueueFits = true) (fun _ _ h => h.postQueueFits) (fun _ _ => id)
      h hp
  · exact step_keeps (Q := fun u => u.cacheOk = true) (fun _ _ h => h.cacheOk) (fun _ _ => id) h hc
  · exact step_keeps (Q := fun u => u.post.ringOk = true) (fun _ _ h => h.ringOk) (fun _ _ => id)
      h hr
  · exact step_keeps (Q := fun u => u.path.insist ≤ 255) (fun _ _ h => h.insist) (fun _ _ => id) h hi
  · exact step_keeps (Q := fun u => u.lanesOk = true) (fun _ _ h => h.lanesOk) (fun _ _ => id) h hl

end Sys2Proof.Machine
end

section
/-! The face queue lists and the engines' work fit the signs' states: kept by every act (R98, R110, R114, R142, R144). -/

namespace Sys2Proof.Machine

variable {P : Prop} {s t u : State}

/-! ## The lists of a line -/

/-- Every sign of a line's lists, URGENT first. -/
def FaceLists.all (l : FaceLists) : List Nat := l.urgent ++ l.content ++ l.tick

theorem FaceLists.mem_all (l : FaceLists) (i : Nat) : i ∈ l.all ↔ ∃ r, i ∈ l.get r := by
  simp only [FaceLists.all, List.mem_append]
  exact ⟨fun h => by rcases h with (h | h) | h <;> [exact ⟨.urgent, h⟩; exact ⟨.content, h⟩; exact ⟨.tick, h⟩],
    fun ⟨r, h⟩ => by cases r <;> [exact .inl (.inl h); exact .inl (.inr h); exact .inr h]⟩

theorem FaceLists.all_without (l : FaceLists) (i : Nat) : (l.without i).all = l.all.filter (· ≠ i) := by
  simp [FaceLists.all, FaceLists.without]

theorem FaceLists.not_mem_without (l : FaceLists) (i : Nat) : i ∉ (l.without i).all := by
  rw [FaceLists.all_without]; simp

/-- A sign put on a list of a line, wherever in it, joins the signs of the line's lists. -/
theorem FaceLists.all_set_perm (l : FaceLists) (r : Rank) {v : List Nat} {i : Nat} (h : v.Perm (i :: l.get r)) :
    (l.set r v).all.Perm (i :: l.all) := by
  cases r with
  | urgent =>
    exact ((h.append_right l.content).append_right l.tick).trans (by simp [FaceLists.all, FaceLists.get])
  | content =>
    refine ((h.append_left l.urgent).append_right l.tick).trans ?_
    simp only [FaceLists.all, FaceLists.get, List.append_assoc, List.cons_append]
    exact List.perm_middle
  | tick =>
    refine (h.append_left (l.urgent ++ l.content)).trans ?_
    simp only [FaceLists.all, FaceLists.get]
    exact List.perm_middle

theorem FaceLists.rankOf_eq_none {l : FaceLists} {i : Nat} (h : l.rankOf i = none) : i ∉ l.all := by
  unfold FaceLists.rankOf at h
  simp only [List.contains_iff_mem] at h
  split at h
  · cases h
  next h1 =>
    split at h
    · cases h
    next h2 =>
      split at h
      · cases h
      next h3 => simp [FaceLists.all, h1, h2, h3]

/-- What joining a list does: the sign stays where it is, on one, or is put on a list of those without it (R114). -/
theorem FaceLists.join_cases (l : FaceLists) (i : Nat) (r : Rank) :
    l.join i r = l ∨ (l.join i r).all.Perm (i :: (l.without i).all) := by
  unfold FaceLists.join
  split
  · split
    · exact .inr (FaceLists.all_set_perm _ _ List.perm_append_comm)
    · exact .inl rfl
  next h =>
    have hn := FaceLists.rankOf_eq_none h
    have hw : (l.without i).all = l.all := by
      rw [FaceLists.all_without]
      exact List.filter_eq_self.2 fun j hj => by simpa using fun he : j = i => hn (he ▸ hj)
    rw [hw]
    exact .inr (FaceLists.all_set_perm _ _ List.perm_append_comm)

/-! ## Signs fit to be listed and worked for -/

/-- A sign a line's lists may hold (R110, R114). -/
def Sign.listable (g : Sign) (n : Fin 4) : Prop :=
  g.defn.line = n ∧ (g.state = .pending ∨ g.state = .refreshing) ∧ g.deferred = false

/-- A sign an engine of a line may work for; SENDING and with no mark while it holds its FACE (R142, R144). -/
def Sign.workable (g : Sign) (n : Fin 4) (face : Bool) : Prop :=
  g.defn.line = n ∧ (face = true → g.state = .sending ∧ g.deferred = false)

/-- The face queue lists fit the signs. -/
structure ListsFit (f : Nat → Option Sign) (q : Quad FaceLists) : Prop where
  once : ∀ n, (q.get n).all.Nodup
  fit : ∀ n, ∀ i ∈ (q.get n).all, ∃ g, f i = some g ∧ g.listable n

/-- The engines' work fits the signs. -/
def WorksFit (f : Nat → Option Sign) (es : Quad Engine) : Prop :=
  ∀ n i, (es.get n).servesSlot = some i → ∃ g, f i = some g ∧ g.workable n (es.get n).sendsFace

/-- No dirty composition is of a SENDING sign. -/
def CompFits (f : Nat → Option Sign) (c : Option Composition) : Prop :=
  ∀ k, c = some k → k.engine = none → ∀ g, f k.slot = some g → g.state ≠ .sending

theorem State.listsOk_iff (s : State) : s.listsOk = true
    ↔ ListsFit s.sign s.lists ∧ WorksFit s.sign s.engines ∧ CompFits s.sign s.comp.composition := by
  have hl : ∀ n, s.lineListsOk n = true
      ↔ (s.lists.get n).all.Nodup ∧ ∀ i ∈ (s.lists.get n).all, ∃ g, s.sign i = some g ∧ g.listable n := fun n => by
    simp only [State.lineListsOk, noRepeat_iff, Bool.and_eq_true, List.all_eq_true, Option.any_eq_true, Bool.or_eq_true,
      decide_eq_true_eq, Bool.not_eq_true', Sign.listable, FaceLists.all, and_assoc]
  have hw : ∀ n, s.engineWorkOk n = true ↔ ∀ i, (s.engines.get n).servesSlot = some i →
      ∃ g, s.sign i = some g ∧ g.workable n (s.engines.get n).sendsFace := fun n => by
    simp only [State.engineWorkOk, State.engine, Option.all_eq_true, Option.any_eq_true, Bool.and_eq_true,
      Bool.or_eq_true, decide_eq_true_eq, Bool.not_eq_true', Sign.workable]
    refine forall_congr' fun i => imp_congr_right fun _ => exists_congr fun g => and_congr_right fun _ =>
      and_congr_right fun _ => ?_
    cases (s.engines.get n).sendsFace <;> simp
  have hc : (s.comp.composition.all fun c => c.engine.isSome || (s.sign c.slot).all fun g => g.state ≠ .sending) = true
      ↔ CompFits s.sign s.comp.composition := by
    simp only [CompFits, Option.all_eq_true, Bool.or_eq_true, decide_eq_true_eq]
    refine forall_congr' fun c => imp_congr_right fun _ => ?_
    cases c.engine <;> simp
  unfold State.listsOk
  rw [Bool.and_eq_true, allFour_all, hc]
  simp only [Bool.and_eq_true, hl, hw]
  exact ⟨fun ⟨h, h3⟩ => ⟨⟨fun n => (h n).1.1, fun n => (h n).1.2⟩, fun n => (h n).2, h3⟩,
    fun ⟨h1, h2, h3⟩ => ⟨fun n => ⟨⟨h1.once n, h1.fit n⟩, h2 n⟩, h3⟩⟩

/-! ### What keeps the lists fit -/

section Fit

variable {f f' : Nat → Option Sign} {q : Quad FaceLists} {es : Quad Engine} {c : Option Composition} {i : Nat} {n : Fin 4}

/-- `f'` is `f` but for the sign of one slot. -/
def agreesOff (f f' : Nat → Option Sign) (i : Nat) : Prop := ∀ j, j ≠ i → f' j = f j

theorem ListsFit.update (h : ListsFit f q) (ha : agreesOff f f' i)
    (hi : ∀ n, i ∈ (q.get n).all → ∃ g, f' i = some g ∧ g.listable n) : ListsFit f' q where
  once := h.once
  fit m j hj := by
    by_cases he : j = i
    · exact he ▸ hi m (he ▸ hj)
    · rw [ha j he]; exact h.fit m j hj

theorem ListsFit.without (h : ListsFit f q) (n : Fin 4) (i : Nat) : ListsFit f (q.set n ((q.get n).without i)) where
  once m := by
    rw [Quad.get_set]
    split
    · rw [FaceLists.all_without]; exact (h.once n).filter _
    · exact h.once m
  fit m j hj := by
    rw [Quad.get_set] at hj
    split at hj
    next he =>
      rw [FaceLists.all_without] at hj
      exact he ▸ h.fit n j (List.mem_of_mem_filter hj)
    next => exact h.fit m j hj

/-- A sign that has left its line's lists stands on none. -/
theorem ListsFit.unlisted {g : Sign} (h : ListsFit f q) (hg : f i = some g) (m : Fin 4) :
    i ∉ ((q.set g.defn.line ((q.get g.defn.line).without i)).get m).all := by
  rw [Quad.get_set]
  split
  · exact FaceLists.not_mem_without _ _
  next hne =>
    intro hm
    obtain ⟨g', hg', hl, -⟩ := h.fit m i hm
    rw [hg] at hg'
    cases hg'
    exact hne hl.symm

/-- A sign leaves its line's lists, and changes in any way. -/
theorem ListsFit.leave {g : Sign} (h : ListsFit f q) (hg : f i = some g) (ha : agreesOff f f' i) :
    ListsFit f' (q.set g.defn.line ((q.get g.defn.line).without i)) :=
  (h.without _ i).update ha fun m hm => absurd hm (h.unlisted hg m)

/-- A listable sign is put on its line's lists. -/
theorem ListsFit.insert {l : FaceLists} {g : Sign} (h : ListsFit f q) (hp : l.all.Perm (i :: ((q.get n).without i).all))
    (hg : f i = some g) (hl : g.listable n) : ListsFit f (q.set n l) where
  once m := by
    rw [Quad.get_set]
    split
    · refine (hp.nodup_iff).2 (List.nodup_cons.2 ⟨FaceLists.not_mem_without _ _, ?_⟩)
      rw [FaceLists.all_without]; exact (h.once n).filter _
    · exact h.once m
  fit m j hj := by
    rw [Quad.get_set] at hj
    split at hj
    next he =>
      rcases List.mem_cons.1 (hp.subset hj) with rfl | hj
      · exact ⟨g, hg, he ▸ hl⟩
      · rw [FaceLists.all_without] at hj
        exact he ▸ h.fit n j (List.mem_of_mem_filter hj)
    next => exact h.fit m j hj

/-- A sign changes, and the engine of its line with it. -/
theorem WorksFit.update {g : Sign} (h : WorksFit f es) (hg : f i = some g) (ha : agreesOff f f' i) {e : Engine}
    (he : ∀ j, e.servesSlot = some j → ∃ g', f' j = some g' ∧ g'.workable g.defn.line e.sendsFace) :
    WorksFit f' (es.set g.defn.line e) := fun m j hj => by
  rw [Quad.get_set] at hj ⊢
  split at hj
  next hm => rw [if_pos hm, hm]; exact he j hj
  next hm =>
    rw [if_neg hm]
    by_cases hji : j = i
    · obtain ⟨g', hg', hl, -⟩ := h m j hj
      rw [hji, hg] at hg'
      cases hg'
      exact absurd hl.symm hm
    · rw [ha j hji]; exact h m j hj

/-- A sign changes; the engines that work for it still may. -/
theorem WorksFit.keep (h : WorksFit f es) (ha : agreesOff f f' i)
    (hi : ∀ n, (es.get n).servesSlot = some i → ∃ g, f' i = some g ∧ g.workable n (es.get n).sendsFace) :
    WorksFit f' es := fun m j hj => by
  by_cases he : j = i
  · exact he ▸ hi m (he ▸ hj)
  · rw [ha j he]; exact h m j hj

theorem WorksFit.setEngine (h : WorksFit f es) {e : Engine}
    (he : ∀ j, e.servesSlot = some j → ∃ g, f j = some g ∧ g.workable n e.sendsFace) : WorksFit f (es.set n e) :=
  fun m j hj => by
    rw [Quad.get_set] at hj ⊢
    split at hj
    next hm => rw [if_pos hm, hm]; exact he j hj
    next hm => rw [if_neg hm]; exact h m j hj

theorem CompFits.update (h : CompFits f c) (ha : agreesOff f f' i)
    (hi : ∀ g, f' i = some g → g.state ≠ .sending ∨ ∃ g', f i = some g' ∧ g'.state = .sending) : CompFits f' c :=
  fun k hk he g hg => by
    by_cases hki : k.slot = i
    · rcases hi g (hki ▸ hg) with h' | ⟨g', hg', hs⟩
      · exact h'
      · exact absurd hs (h k hk he g' (hki ▸ hg'))
    · rw [ha _ hki] at hg; exact h k hk he g hg

theorem CompFits.none (f : Nat → Option Sign) : CompFits f Option.none := fun _ hk => by cases hk

end Fit

theorem agreesOff_setSign (s : State) (i : Nat) (g : Sign) : agreesOff s.sign (s.setSign i g).sign i := fun j hj => by
  rw [State.sign_setSign, if_neg hj]

/-- The lists, the work and the composition fit the signs. -/
def State.fitted (s : State) : Prop :=
  ListsFit s.sign s.lists ∧ WorksFit s.sign s.engines ∧ CompFits s.sign s.comp.composition

/-- Signs that look the same to the lists and the engines are as fit for both. -/
theorem fitted_looks (h1 : ∀ i, (t.sign i).map (fun g => (g.defn.line, g.state, g.deferred))
      = (s.sign i).map fun g => (g.defn.line, g.state, g.deferred))
    (h2 : t.lists = s.lists) (h3 : t.engines = s.engines) (h4 : t.comp.composition = s.comp.composition)
    (hs : s.fitted) : t.fitted := by
  obtain ⟨hl, hw, hc⟩ := hs
  have looks : ∀ {i g}, s.sign i = some g → ∃ g', t.sign i = some g' ∧ g'.defn.line = g.defn.line ∧ g'.state = g.state
      ∧ g'.deferred = g.deferred := fun {i g} hg => by
    have h := h1 i
    rw [hg] at h
    obtain ⟨g', hg', he⟩ := Option.map_eq_some_iff.1 h
    simp only [Prod.mk.injEq] at he
    exact ⟨g', hg', he⟩
  refine ⟨⟨h2 ▸ hl.once, fun n i hi => ?_⟩, fun n i hi => ?_, fun k hk he g hg hsend => ?_⟩
  · obtain ⟨g, hg, a, b, c⟩ := hl.fit n i (h2 ▸ hi)
    obtain ⟨g', hg', x, y, z⟩ := looks hg
    exact ⟨g', hg', x.trans a, by rw [y]; exact b, z.trans c⟩
  · rw [h3] at hi ⊢
    obtain ⟨g, hg, a, b⟩ := hw n i hi
    obtain ⟨g', hg', x, y, z⟩ := looks hg
    exact ⟨g', hg', x.trans a, fun hf => ⟨y.trans (b hf).1, z.trans (b hf).2⟩⟩
  · have h := h1 k.slot
    rw [hg] at h
    obtain ⟨g', hg', he'⟩ := Option.map_eq_some_iff.1 h.symm
    simp only [Prod.mk.injEq] at he'
    exact hc k (h4 ▸ hk) he g' hg' (he'.2.1.trans hsend)

theorem fitted_congr (h1 : t.signs = s.signs) (h2 : t.lists = s.lists) (h3 : t.engines = s.engines)
    (h4 : t.comp.composition = s.comp.composition) (hs : s.fitted) : t.fitted :=
  fitted_looks (fun i => by unfold State.sign; rw [h1]) h2 h3 h4 hs

/-- Where a sign is SENDING for an engine, it stands on no list and the sign of no other engine. -/
theorem ListsFit.not_sending {f : Nat → Option Sign} {q : Quad FaceLists} {i : Nat} {g : Sign} (h : ListsFit f q)
    (hg : f i = some g) (hs : g.state ≠ .pending) (hr : g.state ≠ .refreshing) (n : Fin 4) : i ∉ (q.get n).all := fun hm => by
  obtain ⟨g', hg', -, hst, -⟩ := h.fit n i hm
  rw [hg] at hg'
  cases hg'
  exact hst.elim hs hr

/-! ## The acts on signs -/

theorem Engine.none_of_serves {e : Engine} (h : e.servesSlot = none) {Q : Nat → Prop} (j : Nat)
    (hj : e.servesSlot = some j) : Q j := by rw [h] at hj; cases hj

theorem handToPort_serves (s : State) (n m : Fin 4) : ((s.handToPort n).engine m).servesSlot = (s.engine m).servesSlot
    ∧ ((s.handToPort n).engine m).sendsFace = (s.engine m).sendsFace := by
  obtain ⟨e, p, h, -, -, he⟩ := handToPort_eq s n
  rw [h, State.engine_setPort, State.engine_setEngine]
  split
  next hm =>
    subst hm
    rcases he with rfl | ⟨x, hx, rfl⟩
    · exact ⟨rfl, rfl⟩
    · unfold Engine.servesSlot Engine.sendsFace
      rw [hx]
      refine ⟨rfl, ?_⟩
      cases x <;> rfl
  next => exact ⟨rfl, rfl⟩

theorem fitted_handToPort (n : Fin 4) (hs : s.fitted) : (s.handToPort n).fitted := by
  obtain ⟨hl, hw, hc⟩ := hs
  have hsign : (s.handToPort n).sign = s.sign := by funext i; unfold State.sign; rw [signs_handToPort]
  have hlists : (s.handToPort n).lists = s.lists := by
    obtain ⟨e, p, h, -⟩ := handToPort_eq s n
    rw [h]; rfl
  refine ⟨?_, ?_, ?_⟩
  · rw [hsign, hlists]; exact hl
  · rw [hsign]
    intro m i hi
    obtain ⟨h1, h2⟩ := handToPort_serves s n m
    unfold State.engine at h1 h2
    rw [h2]
    exact hw m i (h1 ▸ hi)
  · rw [hsign, handToPort_comp]; exact hc

theorem enqueuedState_listable {st : SignState} (h1 : st ≠ .lost) (h2 : st ≠ .sending) :
    enqueuedState st = .pending ∨ enqueuedState st = .refreshing := by
  cases st <;> simp_all [enqueuedState]

/-- A sign that is neither LOST nor SENDING is enqueued (R114). -/
theorem fitted_enqueueFace {i : Nat} {g : Sign} (r : Rank) (hg : s.sign i = some g) (h1 : g.state ≠ .lost)
    (h2 : g.state ≠ .sending) (hs : s.fitted) : (s.enqueueFace i g r).fitted := by
  obtain ⟨hl, hw, hc⟩ := hs
  let g' : Sign := { g with deferred := false, state := enqueuedState g.state }
  have ha := agreesOff_setSign s i g'
  have hg' : (s.setSign i g').sign i = some g' := State.sign_setSign_self ..
  have hl' : ListsFit (s.setSign i g').sign s.lists := hl.update ha fun n hm => by
    obtain ⟨x, hx, hline, -⟩ := hl.fit n i hm
    rw [hg] at hx
    cases hx
    exact ⟨g', hg', hline, enqueuedState_listable h1 h2, rfl⟩
  refine ⟨?_, ?_, ?_⟩
  · show ListsFit (s.setSign i g').sign (s.lists.set g.defn.line ((s.lists.get g.defn.line).join i r))
    rcases FaceLists.join_cases (s.lists.get g.defn.line) i r with he | hp
    · rw [he, Quad.set_get_self]; exact hl'
    · exact hl'.insert hp hg' ⟨rfl, enqueuedState_listable h1 h2, rfl⟩
  · refine hw.keep ha fun n hn => ?_
    obtain ⟨x, hx, hline, hf⟩ := hw n i hn
    rw [hg] at hx
    cases hx
    exact ⟨g', hg', hline, fun hface => absurd (hf hface).1 h2⟩
  · refine hc.update ha fun x hx => .inl ?_
    have hx' : some g' = some x := hg'.symm.trans hx
    cases hx'
    rcases enqueuedState_listable h1 h2 with h | h <;> exact fun e => SignState.noConfusion (h.symm.trans e)

/-- A sign that is not SENDING is deferred (R110). -/
theorem fitted_deferSign {i : Nat} {g : Sign} (hg : s.sign i = some g) (h2 : g.state ≠ .sending) (hs : s.fitted) :
    (s.deferSign i g).fitted := by
  obtain ⟨hl, hw, hc⟩ := hs
  let g' : Sign := { g with deferred := true, state := if g.state = .refreshing then .refreshing else .deferred }
  have ha := agreesOff_setSign s i g'
  have hg' : (s.setSign i g').sign i = some g' := State.sign_setSign_self ..
  refine ⟨hl.leave hg ha, hw.keep ha fun n hn => ?_, hc.update ha fun x hx => .inl ?_⟩
  · obtain ⟨x, hx, hline, hf⟩ := hw n i hn
    rw [hg] at hx
    cases hx
    exact ⟨g', hg', hline, fun hface => absurd (hf hface).1 h2⟩
  · have hx' : some g' = some x := hg'.symm.trans hx
    cases hx'
    show (if g.state = .refreshing then SignState.refreshing else .deferred) ≠ .sending
    split <;> exact SignState.noConfusion

/-- A mark removed changes nothing the lists and the engines see, but that a DEFERRED sign is SYNCED. -/
theorem fitted_unmarked {i : Nat} {g : Sign} (hg : s.sign i = some g) (hs : s.fitted) : (s.setSign i (unmarked g)).fitted := by
  obtain ⟨hl, hw, hc⟩ := hs
  have ha := agreesOff_setSign s i (unmarked g)
  have hg' : (s.setSign i (unmarked g)).sign i = some (unmarked g) := State.sign_setSign_self ..
  have hst : ∀ st, st ≠ .deferred → g.state = st → (unmarked g).state = st := fun st hne he => by
    unfold unmarked
    dsimp only
    rw [if_neg (he ▸ hne), he]
  refine ⟨hl.update ha fun n hm => ?_, hw.keep ha fun n hn => ?_, hc.update ha fun x hx => ?_⟩
  · obtain ⟨x, hx, hline, hstate, -⟩ := hl.fit n i hm
    rw [hg] at hx
    cases hx
    exact ⟨_, hg', hline, hstate.imp (hst _ SignState.noConfusion) (hst _ SignState.noConfusion), rfl⟩
  · obtain ⟨x, hx, hline, hf⟩ := hw n i hn
    rw [hg] at hx
    cases hx
    exact ⟨_, hg', hline, fun hface => ⟨hst _ SignState.noConfusion (hf hface).1, rfl⟩⟩
  · by_cases hsend : g.state = .sending
    · exact .inr ⟨g, hg, hsend⟩
    · have hx' : some (unmarked g) = some x := hg'.symm.trans hx
      cases hx'
      refine .inl ?_
      unfold unmarked
      dsimp only
      split
      · exact SignState.noConfusion
      · exact hsend

/-- The sign an engine requests leaves its list; the engine takes other work for it, or none. -/
theorem fitted_judged {n : Fin 4} {i : Nat} {g g' : Sign} {e : Engine} (hg : s.sign i = some g)
    (hr : (s.engine n).servesSlot = some i) (hd : g'.defn = g.defn)
    (he : e.servesSlot = none ∨ e.servesSlot = some i ∧ g'.state = .sending ∧ g'.deferred = false)
    (hn : g'.state ≠ .sending ∨ s.comp.composition = none) (hs : s.fitted) :
    (((s.setSign i g').leaveLists g.defn.line i).setEngine n e).fitted := by
  obtain ⟨hl, hw, hc⟩ := hs
  have ha := agreesOff_setSign s i g'
  have hg' : (s.setSign i g').sign i = some g' := State.sign_setSign_self ..
  obtain ⟨x, hx, hline, -⟩ := hw n i hr
  rw [hg] at hx
  cases hx
  subst hline
  refine ⟨hl.leave hg ha, hw.update hg ha fun j hj => ?_, ?_⟩
  · rcases he with he | ⟨he, hst, hdf⟩
    · rw [he] at hj; cases hj
    · rw [he] at hj
      cases hj
      exact ⟨g', hg', by rw [hd], fun _ => ⟨hst, hdf⟩⟩
  · rcases hn with hn | hn
    · refine hc.update ha fun x hx => .inl ?_
      have hx' : some g' = some x := hg'.symm.trans hx
      cases hx'
      exact hn
    · show CompFits _ s.comp.composition
      rw [hn]; exact .none _

theorem requesting_serves {n : Fin 4} {i : Nat} (h : (s.engine n).state = .requesting i) :
    (s.engine n).servesSlot = some i ∧ (s.engine n).sendsFace = false := by
  unfold Engine.servesSlot Engine.sendsFace
  rw [h]
  exact ⟨rfl, rfl⟩

/-- A dirty composition is of no SENDING sign; its end fits its sign to the lists, and a send-time composition's also the
engine that asked for it (R98, R109, R116). -/
theorem fitted_endComposition {c : Composition} (hc : s.comp.composition = some c) (hs : s.fitted) :
    (s.endComposition c).fitted := by
  have hu : (s.setComposition none).fitted := ⟨hs.1, hs.2.1, .none _⟩
  rcases endComposition_cases s c with h | ⟨g, hg, ⟨he, hl, h⟩ | ⟨n, he, hr, h⟩⟩
  · rw [h]; exact hu
  · have hn := hs.2.2 c hc he g hg
    rcases h with h | ⟨r, h⟩ | h <;> rw [h]
    · exact fitted_unmarked hg hu
    · exact fitted_enqueueFace r hg hl hn hu
    · exact fitted_deferSign hg hn hu
  · obtain ⟨hsv, hf⟩ := requesting_serves hr
    rcases h with h | ⟨r, rec, b, h⟩ | h <;> rw [h]
    · exact fitted_judged (s := s.setComposition none) hg hsv rfl (.inl rfl) (.inr rfl) hu
    · refine fitted_handToPort n ?_
      exact fitted_judged (s := s.setComposition none) hg hsv rfl (.inr ⟨rfl, rfl, rfl⟩) (.inr rfl) hu
    · exact fitted_judged (s := s.setComposition none) hg hsv rfl (.inl rfl) (.inr rfl) hu

theorem fitted_engine {n : Fin 4} {e : Engine} (hw : s.fitsWork n e) (ho : Tab.sorted s.signs = true) (hs : s.fitted) :
    (s.setEngine n e).fitted := by
  obtain ⟨hl, hwk, hc⟩ := hs
  refine ⟨hl, hwk.setEngine fun j hj => ?_, hc⟩
  rcases hw with h | ⟨h1, h2⟩ | ⟨h1, i, h2, h⟩
  · rw [h] at hj; cases hj
  · rw [h2]; exact hwk n j (h1 ▸ hj)
  · rw [h2] at hj
    cases hj
    rcases h with ⟨g, hg, hline⟩ | ⟨r, hr⟩
    · exact ⟨g, Tab.get_of_mem ho hg, hline, fun hf => by rw [h1] at hf; cases hf⟩
    · obtain ⟨g, hg, hline, -⟩ := hl.fit n j ((FaceLists.mem_all _ _).2 ⟨r, hr⟩)
      exact ⟨g, hg, hline, fun hf => by rw [h1] at hf; cases hf⟩

/-- The sign of an engine's FACE is SENDING with no mark, on no list. -/
theorem fitted_face {n : Fin 4} {i : Nat} {g : Sign} (hg : s.sign i = some g) (hw : (s.engine n).servesSlot = some i)
    (hx : (s.engine n).sendsFace = true) (hs : s.fitted) :
    g.defn.line = n ∧ g.deferred = false ∧ ∀ m, i ∉ (s.lists.get m).all := by
  obtain ⟨hl, hwk, -⟩ := hs
  obtain ⟨x, hx', hline, hf⟩ := hwk n i hw
  rw [hg] at hx'
  cases hx'
  obtain ⟨hsend, hdf⟩ := hf hx
  exact ⟨hline, hdf, hl.not_sending hg (by rw [hsend]; exact SignState.noConfusion) (by rw [hsend]; exact SignState.noConfusion)⟩

theorem afterRefresh_cases (s : State) (i : Nat) (g : Sign) : s.afterRefresh i g = g.state
    ∨ (g.state = .refreshing ∧ s.afterRefresh i g ≠ .sending
      ∧ (g.deferred = false → s.listed i g = true → s.afterRefresh i g = .pending)) := by
  unfold State.afterRefresh
  split
  · exact .inl rfl
  next h =>
    refine .inr ⟨not_not.1 h, ?_, fun hd hl => ?_⟩
    · split
      · exact SignState.noConfusion
      · split <;> exact SignState.noConfusion
    · rw [hd, hl]; rfl

theorem rankOf_isSome {l : FaceLists} {i : Nat} (h : i ∈ l.all) : (l.rankOf i).isSome = true := by
  rw [← Option.ne_none_iff_isSome]
  exact fun hn => FaceLists.rankOf_eq_none hn h

theorem fitted_refreshed {i : Nat} {g : Sign} (hg : s.sign i = some g) (hs : s.fitted) :
    (s.setSign i { g with timer := none, state := s.afterRefresh i g }).fitted := by
  obtain ⟨hl, hw, hc⟩ := hs
  let g' : Sign := { g with timer := none, state := s.afterRefresh i g }
  have ha := agreesOff_setSign s i g'
  have hg' : (s.setSign i g').sign i = some g' := State.sign_setSign_self ..
  refine ⟨hl.update ha fun n hm => ?_, hw.keep ha fun n hn => ?_, hc.update ha fun x hx => ?_⟩
  · obtain ⟨x, hx, hline, hstate, hdf⟩ := hl.fit n i hm
    rw [hg] at hx
    cases hx
    refine ⟨g', hg', hline, ?_, hdf⟩
    rcases afterRefresh_cases s i g with h | ⟨-, -, h⟩
    · show s.afterRefresh i g = _ ∨ s.afterRefresh i g = _
      rw [h]; exact hstate
    · subst hline
      exact .inl (h hdf (rankOf_isSome hm))
  · obtain ⟨x, hx, hline, hf⟩ := hw n i hn
    rw [hg] at hx
    cases hx
    refine ⟨g', hg', hline, fun hface => ⟨?_, (hf hface).2⟩⟩
    rcases afterRefresh_cases s i g with h | ⟨h, -⟩
    · exact h.trans (hf hface).1
    · exact absurd (h.symm.trans (hf hface).1) SignState.noConfusion
  · have hx' : some g' = some x := hg'.symm.trans hx
    cases hx'
    rcases afterRefresh_cases s i g with h | ⟨-, h, -⟩
    · by_cases hsend : g.state = .sending
      · exact .inr ⟨g, hg, hsend⟩
      · exact .inl fun he => hsend (h.symm.trans he)
    · exact .inl h

theorem SignAct.fitted (h : SignAct s t) (ho : Tab.sorted s.signs = true) (hs : s.fitted) : t.fitted := by
  cases h with
  | dirty d hd => exact hs
  | arbiter i n => exact hs
  | ports q => exact hs
  | engine n e hso hw => exact fitted_engine hw ho hs
  | sign i g g' hg hd hst hf hc =>
    refine fitted_looks (s := s) (fun j => ?_) rfl rfl rfl hs
    rw [State.sign_setSign]
    split
    next he => rw [he, hg, Option.map_some, Option.map_some, hd, hst, hf]
    next => rfl
  | accepted n i g g' e hg hw hx hd hst hf hc he hso =>
    obtain ⟨rfl, hdf, hu⟩ := fitted_face hg hw hx hs
    have ha := agreesOff_setSign s i g'
    refine ⟨hs.1.update ha fun n hm => absurd hm (hu n),
      hs.2.1.update hg ha (fun j hj => by rw [he] at hj; cases hj), hs.2.2.update ha fun x hx' => .inl ?_⟩
    have hx' : some g' = some x := (State.sign_setSign_self ..).symm.trans hx'
    cases hx'
    rw [hst]; exact SignState.noConfusion
  | returned n i g g' r e hg hw hx hd hst hf hc he hso =>
    obtain ⟨rfl, hdf, hu⟩ := fitted_face hg hw hx hs
    have ha := agreesOff_setSign s i g'
    have hg' : (s.setSign i g').sign i = some g' := State.sign_setSign_self ..
    have hl' : ListsFit (s.setSign i g').sign s.lists := hs.1.update ha fun n hm => absurd hm (hu n)
    refine ⟨hl'.insert (n := g.defn.line) (FaceLists.all_set_perm _ r (.refl _)) hg' ⟨by rw [hd], hst, hf.trans hdf⟩,
      hs.2.1.update hg ha (fun j hj => by rw [he] at hj; cases hj), hs.2.2.update ha fun x hx' => .inl ?_⟩
    have hx' : some g' = some x := hg'.symm.trans hx'
    cases hx'
    rcases hst with h | h <;> rw [h] <;> exact SignState.noConfusion
  | lost n i g e hg hw he hso =>
    exact fitted_judged hg hw rfl (.inl he) (.inl SignState.noConfusion) hs
  | back i g hg hl =>
    have hg := Tab.get_of_mem ho hg
    have ha := agreesOff_setSign s i (backSign s.setup.styles g)
    have hg' : (s.setSign i (backSign s.setup.styles g)).sign i = some (backSign s.setup.styles g) :=
      State.sign_setSign_self ..
    refine ⟨hs.1.update ha fun n hm => absurd hm ?_, hs.2.1.keep ha fun n hn => ?_, hs.2.2.update ha fun x hx' => .inl ?_⟩
    · exact hs.1.not_sending hg (by rw [hl]; exact SignState.noConfusion) (by rw [hl]; exact SignState.noConfusion) n
    · obtain ⟨x, hx, hline, hf⟩ := hs.2.1 n i hn
      rw [show s.sign i = some g from hg] at hx
      cases hx
      exact ⟨_, hg', hline, fun hface => absurd (hl.symm.trans (hf hface).1) SignState.noConfusion⟩
    · rw [State.sign_setSign_self] at hx'
      cases hx'
      exact SignState.noConfusion
  | refreshed i g hg => exact fitted_refreshed hg hs
  | ends c hc => exact fitted_endComposition hc hs
  | orphans c hc => exact ⟨hs.1, hs.2.1, fun k hk he g hg => by cases hk; exact hs.2.2 c hc he g hg⟩
  | begins i g n hg hn =>
    refine ⟨hs.1, hs.2.1, fun k hk he g' hg' => ?_⟩
    cases hk
    rw [show s.sign i = some g' from hg'] at hg
    cases hg
    exact hn he

/-! ## The apply step -/

theorem withdrawn_serves {i : Nat} {e : Engine} {j : Nat} (h : (withdrawn i e).servesSlot = some j) :
    j ≠ i ∧ e.servesSlot = some j ∧ (withdrawn i e).sendsFace = e.sendsFace := by
  unfold withdrawn at h ⊢
  cases hst : e.state with
  | requesting k =>
    rw [hst] at h
    by_cases hk : k = i
    · simp [hk, Engine.servesSlot] at h
    · simp only [hk, if_false] at h ⊢
      refine ⟨?_, h, trivial⟩
      rintro rfl
      simp only [Engine.servesSlot, hst, Option.some.injEq] at h
      exact hk h
  | ready x =>
    rw [hst] at h
    by_cases hk : exchangeSlot x = some i
    · simp [hk, Engine.servesSlot] at h
    · simp only [hk, if_false] at h ⊢
      refine ⟨?_, h, trivial⟩
      rintro rfl
      simp only [Engine.servesSlot, hst] at h
      exact hk h
  | running x b =>
    rw [hst] at h
    by_cases hk : exchangeSlot x = some i
    · simp [hk, Engine.servesSlot] at h
    · simp only [hk, if_false] at h ⊢
      refine ⟨?_, h, trivial⟩
      rintro rfl
      cases b with
      | true => simp [Engine.servesSlot, hst] at h
      | false =>
        simp only [Engine.servesSlot, hst] at h
        exact hk h
  | off => rw [hst] at h; simp [Engine.servesSlot, hst] at h
  | idle => rw [hst] at h; simp [Engine.servesSlot, hst] at h
  | finishing => rw [hst] at h; simp [Engine.servesSlot, hst] at h

/-- A sign leaves its old line with its list entry and its engine's work, and changes in any way to one not SENDING, or
goes (R118, R141, R158). -/
theorem fitted_left {i : Nat} {g : Sign} {u : State} (hg : s.sign i = some g) (ha : agreesOff s.sign u.sign i)
    (hn : ∀ g', u.sign i = some g' → g'.state ≠ .sending)
    (hl : u.lists = (s.clearOldLine i g.defn).lists) (he : u.engines = (s.clearOldLine i g.defn).engines)
    (hc : u.comp.composition = s.comp.composition) (hs : s.fitted) : u.fitted := by
  obtain ⟨h1, h2, h3⟩ := hs
  refine ⟨?_, ?_, ?_⟩
  · rw [hl]; exact h1.leave hg ha
  · rw [he]
    unfold State.clearOldLine State.unowe State.updateEngine
    rw [State.setEngine_setEngine, State.engine_setEngine_self]
    refine h2.update hg ha fun j hj => ?_
    obtain ⟨hji, hsv, hsf⟩ := withdrawn_serves hj
    rw [hsf, ha j hji]
    exact h2 g.defn.line j hsv
  · rw [hc]
    exact h3.update ha fun x hx => .inl (hn x hx)

theorem movedSign_state (u : SetupLogic) (g : Sign) (d : SignDef) : (movedSign u g d).state ≠ .sending := by
  show (if g.deferred then SignState.deferred else .unseen) ≠ .sending
  split <;> exact SignState.noConfusion

theorem fitted_changeSlot (defs : Tab SignDef) (dr : List Nat) (i : Nat) (hs : s.fitted) :
    (s.changeSlot defs dr i).fitted := by
  have ha : agreesOff s.sign (s.changeSlot defs dr i).sign i := fun j hj => by rw [sign_changeSlot, if_neg hj]
  have hi : (s.changeSlot defs dr i).sign i = slotAfter s.setup defs dr i (s.sign i) := by
    rw [sign_changeSlot, if_pos rfl]
  have hcomp := changeSlot_composition s defs dr i
  cases hg : s.sign i with
  | none =>
    obtain ⟨h1, h2, h3⟩ := hs
    have hu : ∀ n, i ∉ (s.lists.get n).all := fun n hm => by
      obtain ⟨x, hx, -⟩ := h1.fit n i hm
      rw [hg] at hx; cases hx
    have hw : ∀ n, (s.engines.get n).servesSlot ≠ some i := fun n hm => by
      obtain ⟨x, hx, -⟩ := h2 n i hm
      rw [hg] at hx; cases hx
    have same : (s.changeSlot defs dr i).lists = s.lists ∧ (s.changeSlot defs dr i).engines = s.engines := by
      unfold State.changeSlot
      rw [hg]
      cases Tab.get defs i <;> exact ⟨rfl, rfl⟩
    refine ⟨?_, ?_, ?_⟩
    · rw [same.1]; exact h1.update ha fun n hm => absurd hm (hu n)
    · rw [same.2]; exact h2.keep ha fun n hm => absurd hm (hw n)
    · rw [hcomp]
      refine h3.update ha fun x hx => .inl ?_
      rw [hi, hg] at hx
      unfold slotAfter at hx
      cases hd : Tab.get defs i with
      | none => rw [hd] at hx; cases hx
      | some d => rw [hd] at hx; cases hx; exact SignState.noConfusion
  | some g =>
    cases hd : Tab.get defs i with
    | none =>
      refine fitted_left hg ha (fun x hx => ?_) ?_ ?_ hcomp hs
      · rw [hi, hg] at hx
        unfold slotAfter at hx
        rw [hd] at hx
        cases hx
      · unfold State.changeSlot; rw [hg, hd]; rfl
      · unfold State.changeSlot; rw [hg, hd]; rfl
    | some d =>
      rw [hg] at hi
      unfold slotAfter at hi
      rw [hd] at hi
      dsimp only at hi
      have hch : s.changeSlot defs dr i = if dr.contains i then (s.clearOldLine i g.defn).setSign i (newSign s.setup d)
          else if g.defn.line ≠ d.line || g.defn.address ≠ d.address then
            (s.clearOldLine i g.defn).setSign i (movedSign s.setup g d)
          else s.setSign i (redefinedSign s.setup g d) := by
        unfold State.changeSlot; rw [hg, hd]
      by_cases h1 : dr.contains i = true
      · rw [if_pos h1] at hch hi
        refine fitted_left hg ha (fun x hx => ?_) (by rw [hch]; rfl) (by rw [hch]; rfl) hcomp hs
        rw [hi] at hx; cases hx; exact SignState.noConfusion
      · rw [if_neg h1] at hch hi
        by_cases h2 : (decide (g.defn.line ≠ d.line) || decide (g.defn.address ≠ d.address)) = true
        · rw [if_pos h2] at hch hi
          refine fitted_left hg ha (fun x hx => ?_) (by rw [hch]; rfl) (by rw [hch]; rfl) hcomp hs
          rw [hi] at hx; cases hx; exact movedSign_state _ _ _
        · rw [if_neg h2] at hch hi
          refine fitted_looks (s := s) (fun j => ?_) (by rw [hch]; rfl) (by rw [hch]; rfl) hcomp hs
          by_cases hj : j = i
          · rw [hj, hi, hg]
            simp only [ne_eq, decide_not, Bool.or_eq_true, Bool.not_eq_true', decide_eq_false_iff_not, not_or,
              not_not] at h2
            simp [redefinedSign, h2.1]
          · rw [ha j hj]

theorem fitted_changeSigns (w : Work) (hs : s.fitted) : (s.changeSigns w).fitted := by
  have fold : ∀ (l : List Nat) (u : State), u.fitted →
      (l.foldl (fun t i => t.changeSlot w.signs w.dropped i) u).fitted := fun l => by
    induction l with
    | nil => exact fun _ h => h
    | cons i l ih => exact fun u h => ih _ (fitted_changeSlot _ _ _ h)
  exact fold _ _ hs

theorem fitted_applied (w : Work) (hs : s.fitted) : (s.applied w).fitted := by
  rw [applied_eq]
  obtain ⟨d, hd⟩ := markedApplied_eq ((s.storeApplied w).changeSigns w) s w
  rw [hd]
  exact fitted_congr rfl rfl rfl rfl (fitted_changeSigns (s := s.storeApplied w) w hs)

/-! ## All acts -/

theorem sign_map (s : State) (f : Sign → Sign) (i : Nat) :
    Tab.get (s.signs.map fun e => (e.1, f e.2)) i = (s.sign i).map f := by
  unfold State.sign
  exact Tab.get_map (fun _ => f) s.signs i

theorem SetupAct.fitted (h : SetupAct s t) (hs : s.fitted) : t.fitted := by
  cases h with
  | fillNext k it rest hw hp hk hs' =>
    obtain ⟨b, q, st, he⟩ := fillEntered_eq s it rest
    rw [he]; exact fitted_congr (s := s) rfl rfl rfl rfl hs
  | fillLast k it rest hw hp hk hs' =>
    obtain ⟨b, q, st, he⟩ := fillEntered_eq s it rest
    rw [he]; exact fitted_congr (s := s) rfl rfl rfl rfl hs
  | kind k p h =>
    refine fitted_looks (s := s) (fun i => ?_) rfl rfl rfl hs
    show Option.map _ (Tab.get (capCredits k p.cap s.signs) i) = _
    rw [capCredits, sign_map s fun g => if g.defn.kind = k && p.cap < g.credits then { g with credits := p.cap } else g,
      Option.map_map]
    congr 1
    funext g
    simp only [Function.comp]
    split <;> rfl
  | refills c =>
    refine fitted_looks (s := s) (fun i => ?_) rfl rfl rfl hs
    show Option.map _ (Tab.get (s.signs.map fun (e : Nat × Sign) => (e.1, refillSign s.setup s.clock.now e.2)) i) = _
    rw [sign_map, Option.map_map]
    congr 1
    funext g
    unfold refillSign
    simp only [Function.comp]
    split <;> rfl
  | minute c d h => rw [startOver_frame]; exact fitted_congr (s := s) rfl rfl rfl rfl hs
  | applies c h => exact fitted_congr (s := s.applied c.work) rfl rfl rfl rfl (fitted_applied _ hs)
  | _ => exact fitted_congr (s := s) rfl rfl rfl rfl hs

theorem arrive_composition (s : State) (f : Fill) : (s.arrive f).comp.composition = s.comp.composition := by
  rw [arrive_comp]

theorem CacheAct.compFits {f : Nat → Option Sign} (h : CacheAct s t) (hs : CompFits f s.comp.composition) :
    CompFits f t.comp.composition := by
  cases h with
  | courses c hc => exact fun k hk he g hg => by cases hk; exact hs c hc he g hg
  | arrives l q f hq hf hl => rw [arrive_comp]; exact hs
  | snoops l w d hl hw => rw [spoil_comp]; exact hs
  | _ => exact hs

theorem CacheAct.fitted (h : CacheAct s t) (hs : s.fitted) : t.fitted := by
  obtain ⟨h1, h2, h3⟩ := hs
  have hsign : t.sign = s.sign := by funext i; unfold State.sign; rw [h.signs]
  refine ⟨?_, ?_, ?_⟩
  · rw [hsign, h.lists]; exact h1
  · rw [hsign, h.engines]; exact h2
  · rw [hsign]; exact h.compFits h3

theorem StartAct.fitted (h : StartAct s t) (hs : s.fitted) : t.fitted := by
  cases h with
  | pins p h => exact fitted_congr (s := s) rfl rfl rfl rfl hs
  | straps p b hg ha hp hh => exact fitted_congr (s := s) rfl rfl rfl rfl hs
  | _ => exact fitted_congr (s := State.reset) rfl rfl rfl rfl ((State.listsOk_iff _).1 (by decide))

theorem Act.listsOk (h : Act P s t) (ho : s.signsOk = true) (hs : s.listsOk = true) : t.listsOk = true := by
  rw [State.listsOk_iff] at hs ⊢
  have hsort : Tab.sorted s.signs = true := by
    rw [← sorted_signDefs]
    exact ((signDefsOk_iff _).1 ((State.signsOk_iff s).1 ho).1).1
  cases h with
  | path h => exact fitted_congr (s := s) h.signs h.lists h.engines (by rw [h.comp]) hs
  | sign h => exact h.fitted hsort hs
  | cache h => exact h.fitted hs
  | lane h => exact fitted_congr (s := s) h.signs h.lists h.engines (by rw [h.comp]) hs
  | setup h => exact h.fitted hs
  | start h => exact h.fitted hs
  | hands h => exact fitted_congr (s := s) h.signs h.lists h.engines (by rw [h.comp]) hs

/-- Settles O11: with the signs' definitions in order, every act keeps the lists and the work fit. -/
theorem stepKeepsFaceListsDisjoint : Obligations.StepKeepsFaceListsDisjoint := by
  unfold Obligations.StepKeepsFaceListsDisjoint
  intro s t hg hl h
  exact (step_keeps (Q := fun u => u.signsOk = true ∧ u.listsOk = true)
    (fun _ _ h ⟨h1, h2⟩ => ⟨h.signsOk h1, h.listsOk h1 h2⟩) (fun _ _ => id) h ⟨hg, hl⟩).2

end Sys2Proof.Machine
end

section
/-! STRICT rooms free of conflict, kept by every act (R9, R10, R11, R40, R41). -/

namespace Sys2Proof.Machine

variable {P : Prop} {s t u : State}

/-! ## What an entry leaves as it is in the rooms it does not touch -/

/-- In the rooms `w'` has not touched it has the policies and the sessions of `w`, which has not touched them either (R11). -/
def Work.leaves (w w' : Work) : Prop := ∀ i, Tab.get w'.touched i = none →
  Tab.get w.touched i = none ∧ (Tab.get w'.rooms i).map (·.policy) = (Tab.get w.rooms i).map (·.policy)
    ∧ ∀ id (x : Session), x.room = i → (Tab.get w'.sessions id = some x ↔ Tab.get w.sessions id = some x)

section Leaves

variable {w w' : Work} {off : Nat}

theorem Work.leaves_self (w : Work) : w.leaves w := fun _ h => ⟨h, rfl, fun _ _ _ => Iff.rfl⟩

theorem Work.touched_of_none {rooms : List Nat} {i : Nat} (h : Tab.get (w.touch off rooms).touched i = none) :
    i ∉ rooms ∧ Tab.get w.touched i = none := by
  by_cases hi : i ∈ rooms
  · rw [Work.get_touched_touch_of_mem w off hi] at h; cases h
  · exact ⟨hi, (Work.get_touched_touch_of_not_mem w off hi).symm.trans h⟩

/-- An entry that changes the sessions of the rooms it touches alone. -/
theorem Work.leaves_touch {ss : Tab Session} {rooms : List Nat}
    (h : ∀ id (x : Session), x.room ∉ rooms → (Tab.get ss id = some x ↔ Tab.get w.sessions id = some x)) :
    w.leaves ({ w with sessions := ss }.touch off rooms) := fun i hi => by
  obtain ⟨hn, ht⟩ := Work.touched_of_none hi
  exact ⟨ht, rfl, fun id x hx => h id x (hx ▸ hn)⟩

/-- A record put: its room is touched, and so is the room of the record it replaces. -/
theorem Work.leaves_put {id : Nat} {new : Session} {rooms : List Nat} (hn : new.room ∈ rooms)
    (ho : ∀ o, Tab.get w.sessions id = some o → o.room ∈ rooms) :
    w.leaves ({ w with sessions := Tab.set w.sessions id new }.touch off rooms) :=
  Work.leaves_touch fun j x hx => by
    rw [Tab.get_set]
    split
    next hj =>
      subst hj
      exact ⟨fun h => absurd ((Option.some.inj h) ▸ hn) hx, fun h => absurd (ho x h) hx⟩
    next => rfl

/-- A room put: it is touched. -/
theorem Work.leaves_writeRoom (room : Nat) (r : Room) : w.leaves (w.writeRoom off room r) := fun i hi => by
  obtain ⟨hn, ht⟩ := Work.touched_of_none hi
  rw [List.mem_singleton] at hn
  refine ⟨ht, ?_, fun _ _ _ => Iff.rfl⟩
  rw [(Work.changesRoom_writeRoom w off room r).2.1 i, if_neg hn]

theorem simPutSession_leaves {retain cls id room start fin : Nat} {title presenter : Handle}
    (h : simPutSession retain off cls id room start fin title presenter w = .passed w') : w.leaves w' := by
  unfold simPutSession at h
  dsimp only at h
  repeat' split at h
  all_goals cases h
  refine Work.leaves_put (by simp) fun o ho => ?_
  simp [ho]

theorem simDropSession_leaves {id : Nat} (h : simDropSession off id w = .passed w') : w.leaves w' := by
  unfold simDropSession at h
  split at h
  · cases h
  next e he =>
    split at h <;> cases h
    refine Work.leaves_touch fun j x hx => ?_
    rw [Tab.get_del]
    split
    next hj =>
      refine ⟨fun h => (by cases h), fun h => ?_⟩
      rw [hj, he] at h
      cases h
      exact absurd (by simp) hx
    next => rfl

theorem simCancelSession_leaves {id : Nat} (h : simCancelSession off id w = .passed w') : w.leaves w' := by
  unfold simCancelSession at h
  split at h
  · cases h
  next e he =>
    split at h
    · cases h
    split at h
    · cases h; exact w.leaves_self
    · cases h
      refine Work.leaves_put (by simp) fun o ho => ?_
      rw [he] at ho
      cases ho
      simp

theorem simMoveSession_leaves {id room : Nat} (h : simMoveSession off id room w = .passed w') : w.leaves w' := by
  unfold simMoveSession at h
  dsimp only at h
  split at h
  · cases h
  next e he =>
    split at h
    · cases h
    split at h
    · cases h
    split at h <;> cases h
    refine Work.leaves_put (by simp) fun o ho => ?_
    rw [he] at ho
    cases ho
    simp

theorem simShiftSession_leaves {cascade : Bool} {id : Nat} {delta : Int} (hw : Tab.sorted w.sessions = true)
    (h : simShiftSession off cascade id delta w = .passed w') : w.leaves w' := by
  unfold simShiftSession at h
  split at h
  · cases h
  split at h
  · cases h
  next e he =>
    dsimp only at h
    split at h
    · cases h
    split at h <;> cases h
    refine Work.leaves_touch fun j x hx => ?_
    have hroom : ∀ {i y}, (i, y) ∈ shiftedSet cascade id e w.sessions → y.room = e.room := fun {i y} hy => by
      obtain ⟨hget, hc⟩ := (mem_shiftedSet hw he i y).1 hy
      cases cascade with
      | true => exact hc.1
      | false =>
        rw [show i = id from hc, he] at hget
        cases hget
        rfl
    have hx' : x.room ≠ e.room := fun h => hx (h ▸ List.mem_cons_self)
    by_cases hj : ∃ y, (j, y) ∈ shiftedSet cascade id e w.sessions
    · obtain ⟨y, hy⟩ := hj
      have hy' := ((mem_shiftedSet hw he j y).1 hy).1
      have hset := Work.get_sessions_shiftAll_of_mem w off e.room delta hy fun a ha hk =>
        shiftedSet_functional hw he ha hy hk
      refine ⟨fun h => ?_, fun h => ?_⟩
      · have := hset.symm.trans h
        cases this
        exact absurd (hroom hy) hx'
      · rw [hy'] at h
        cases h
        exact absurd (hroom hy) hx'
    · have hsame := Work.get_sessions_shiftAll_of_not_mem w off e.room delta fun y hy => hj ⟨y, hy⟩
      exact iff_of_eq (congrArg (· = some x) hsame)

theorem simPutRoom_leaves {policy room zone changeover : Nat} {name : Handle}
    (h : simPutRoom off policy room name zone changeover w = .passed w') : w.leaves w' := by
  unfold simPutRoom at h
  dsimp only at h
  repeat' split at h
  all_goals cases h
  · exact Work.leaves_writeRoom _ _
  · exact w.leaves_self
  · exact Work.leaves_writeRoom _ _

theorem simRoomState_leaves {action room : Nat} (h : simRoomState off action room w = .passed w') : w.leaves w' := by
  unfold simRoomState at h
  repeat' split at h
  all_goals cases h
  · exact w.leaves_self
  · exact Work.leaves_writeRoom _ _

theorem simSetClock_leaves {minute origin : Nat} (h : simSetClock minute origin w = .passed w') : w.leaves w' := by
  unfold simSetClock at h
  split at h <;> cases h
  exact w.leaves_self

theorem simPutSign_leaves {kind slot line lines address lookahead : Nat} {targets : List Nat}
    (h : simPutSign kind slot line lines address lookahead targets w = .passed w') : w.leaves w' := by
  unfold simPutSign at h
  repeat' split at h
  all_goals cases h
  exact w.leaves_self

theorem simDropSign_leaves {slot : Nat} (h : simDropSign slot w = .passed w') : w.leaves w' := by
  unfold simDropSign at h
  repeat' split at h
  all_goals cases h
  exact w.leaves_self

theorem simulate_leaves {retain : Nat} {e : Entry} (hw : Tab.sorted w.sessions = true)
    (h : simulate retain off e w = .passed w') : w.leaves w' := by
  cases e with
  | putSession cls id room start fin title presenter => exact simPutSession_leaves h
  | dropSession id => exact simDropSession_leaves h
  | cancelSession id => exact simCancelSession_leaves h
  | moveSession id room => exact simMoveSession_leaves h
  | shiftSession cascade id delta => exact simShiftSession_leaves hw h
  | putRoom policy room name zone changeover => exact simPutRoom_leaves h
  | roomState action room => exact simRoomState_leaves h
  | setClock minute origin => exact simSetClock_leaves h
  | putSign kind slot line lines address lookahead targets => exact simPutSign_leaves h
  | dropSign slot => exact simDropSign_leaves h

end Leaves

theorem Tab.mem_iff_get {α : Type} {t : Tab α} (h : Tab.sorted t = true) (e : Nat × α) : e ∈ t ↔ Tab.get t e.1 = some e.2 :=
  ⟨Tab.get_of_mem h, Tab.mem_of_get⟩

/-- A check whose working copy is its last one's but for the rooms its entries touch agrees with the store if that did. -/
theorem Check.agrees_leaves {c k : Check} (h1 : Tab.sorted c.work.sessions = true) (h2 : Tab.sorted k.work.sessions = true)
    (h : c.work.leaves k.work) (hc : c.agrees s) : k.agrees s := fun i hi => by
  obtain ⟨ht, hp, hs⟩ := h i hi
  obtain ⟨hp', hs'⟩ := hc i ht
  exact ⟨hp.trans hp', fun e he => (Tab.mem_iff_get h2 e).trans (((hs e.1 e.2 he).trans
    (Tab.mem_iff_get h1 e).symm).trans (hs' e he))⟩

/-! ## The overlap judgement -/

theorem firstConflict_eq_none {m : BitVec 10} {l : List (Nat × Session)} : firstConflict m l = none
    ↔ l.Pairwise fun x y => conflicting m x.2 y.2 = false := by
  induction l with
  | nil => simp [firstConflict]
  | cons x l ih =>
    unfold firstConflict
    rw [List.pairwise_cons]
    split
    next y hy =>
      have hm := List.mem_of_find?_eq_some hy
      have hc := List.find?_some hy
      exact ⟨fun h => (by cases h), fun ⟨h, _⟩ => (by rw [h y hm] at hc; cases hc)⟩
    next hn =>
      rw [ih]
      refine ⟨fun h => ⟨fun y hy => ?_, h⟩, And.right⟩
      simpa using List.find?_eq_none.1 hn y hy

theorem conflicting_eq_true {m : BitVec 10} {a b : Session} : conflicting m a b = true
    ↔ a.cancelled = false ∧ b.cancelled = false ∧ a.start < b.fin ∧ b.start < a.fin
      ∧ m.getLsbD (pairBit a.cls b.cls) = true := by
  simp [conflicting, overlaps, and_assoc]

theorem List.Pairwise.rel_of_order {α : Type} {l : List α} {R Q : α → α → Prop} (hR : l.Pairwise R) (hQ : l.Pairwise Q)
    (hirr : ∀ x, ¬ Q x x) (hasym : ∀ x y, Q x y → ¬ Q y x) {x y : α} (hx : x ∈ l) (hy : y ∈ l) (h : Q x y) : R x y := by
  induction l with
  | nil => cases hx
  | cons z l ih =>
    obtain ⟨hR1, hR2⟩ := List.pairwise_cons.1 hR
    obtain ⟨hQ1, hQ2⟩ := List.pairwise_cons.1 hQ
    rcases List.mem_cons.1 hx with hxz | hxl <;> rcases List.mem_cons.1 hy with hyz | hyl
    · exact absurd h (by rw [hxz, hyz]; exact hirr _)
    · exact hxz ▸ hR1 y hyl
    · exact absurd h (hasym _ _ (hyz ▸ hQ1 x hxl))
    · exact ih hR2 hQ2 hxl hyl

theorem chainPrecedes_asymm {x y : Nat × Session} (h : chainPrecedes x y) : ¬ chainPrecedes y x := by
  unfold chainPrecedes at *; omega

/-- A room's chain has no first conflict just when no two of its sessions conflict. -/
theorem firstConflict_chainOf {m : BitVec 10} {w : Work} {i : Nat} (hs : Tab.sorted w.sessions = true) :
    firstConflict m (chainOf w.sessions i) = none ↔ ∀ x y, ¬ w.conflict m i x y := by
  rw [firstConflict_eq_none]
  have hp := pairwise_chainOf (i := i) hs
  constructor
  · intro h x y ⟨hx, hy, hxr, hyr, hxy, hc⟩
    have := List.Pairwise.rel_of_order h hp chainPrecedes_irrefl (fun _ _ => chainPrecedes_asymm)
      (mem_chainOf.2 ⟨hx, hxr⟩) (mem_chainOf.2 ⟨hy, hyr⟩) hxy
    rw [conflicting_eq_true.2 hc] at this
    cases this
  · intro h
    refine (List.Pairwise.and_mem.1 hp).imp fun {x y} ⟨hx, hy, hxy⟩ => ?_
    obtain ⟨hx, hxr⟩ := mem_chainOf.1 hx
    obtain ⟨hy, hyr⟩ := mem_chainOf.1 hy
    rw [← Bool.not_eq_true]
    exact fun hc => h x y ⟨hx, hy, hxr, hyr, hxy, conflicting_eq_true.1 hc⟩

theorem judgeOverlap_cons (m : BitVec 10) (w : Work) (e : Nat × Nat) (t : Tab Nat) : judgeOverlap m w (e :: t)
    = match Tab.get w.rooms e.1 with
      | some r =>
        if r.policy = .strict then
          match firstConflict m (chainOf w.sessions e.1) with
          | some p => some { code := .overlap, failing := e.2, first := p.1, second := p.2 }
          | none => judgeOverlap m w t
        else judgeOverlap m w t
      | none => judgeOverlap m w t := by
  obtain ⟨i, off⟩ := e
  rw [judgeOverlap]
  cases firstConflict m (chainOf w.sessions i) <;> rfl

/-- The judgement finds nothing just when no touched STRICT room has a first conflict (R10). -/
theorem judgeOverlap_eq_none {m : BitVec 10} {w : Work} {t : Tab Nat} : judgeOverlap m w t = none
    ↔ ∀ e ∈ t, ∀ r, Tab.get w.rooms e.1 = some r → r.policy = .strict → firstConflict m (chainOf w.sessions e.1) = none := by
  induction t with
  | nil => simp [judgeOverlap]
  | cons e t ih =>
    rw [List.forall_mem_cons, ← ih, judgeOverlap_cons]
    cases hr : Tab.get w.rooms e.1 with
    | none => simp
    | some r =>
      by_cases hp : r.policy = .strict
      · cases hf : firstConflict m (chainOf w.sessions e.1) with
        | none => simp [hp]
        | some p => simp [hp]
      · simp [hp]

/-- A batch that passes leaves no STRICT room in conflict (R10, R40). -/
theorem strictFree_of_passes {c : Check} (hc : endOfCheck s.setup.matrix c = .passes) (hs : Tab.sorted c.work.sessions = true)
    (ha : c.agrees s) (hf : s.workingCopy.strictFree s.setup.matrix) : c.work.strictFree s.setup.matrix := by
  have hj : judgeOverlap s.setup.matrix c.work c.work.touched = none := by
    unfold endOfCheck at hc
    split at hc
    · cases hc
    split at hc
    · cases hc
    split at hc
    · cases hc
    next h => exact h
  intro i r hr hp x y hxy
  cases ht : Tab.get c.work.touched i with
  | some off =>
    exact (firstConflict_chainOf hs).1 (judgeOverlap_eq_none.1 hj _ (Tab.mem_of_get ht) r hr hp) x y hxy
  | none =>
    obtain ⟨hpol, hses⟩ := ha i ht
    rw [hr, Option.map_some] at hpol
    obtain ⟨r', hr', hp'⟩ := Option.map_eq_some_iff.1 hpol.symm
    obtain ⟨hx, hy, hxr, hyr, hrest⟩ := hxy
    exact hf i r' hr' (hp'.trans hp) x y ⟨(hses x hxr).1 hx, (hses y hyr).1 hy, hxr, hyr, hrest⟩

/-! ## What keeps it -/

/-- Fewer sessions in rooms of the same policies. -/
theorem Work.strictFree_mono {w w' : Work} {m : BitVec 10}
    (hr : ∀ i, (Tab.get w'.rooms i).map (·.policy) = (Tab.get w.rooms i).map (·.policy))
    (hs : ∀ e ∈ w'.sessions, e ∈ w.sessions) (h : w.strictFree m) : w'.strictFree m := by
  intro i r hri hp x y ⟨hx, hy, hrest⟩
  have hpol := hr i
  rw [hri, Option.map_some] at hpol
  obtain ⟨r', hr', hp'⟩ := Option.map_eq_some_iff.1 hpol.symm
  exact h i r' hr' (hp'.trans hp) x y ⟨hs x hx, hs y hy, hrest⟩

theorem Work.strictFree_nil {w : Work} {m : BitVec 10} (h : w.sessions = []) : w.strictFree m :=
  fun _ _ _ _ x _ hxy => by
    have hx := hxy.1
    rw [h] at hx
    cases hx

theorem Check.agrees_congr {c : Check} (h : t.store = s.store) (hc : c.agrees s) : c.agrees t := by
  unfold Check.agrees State.room at hc ⊢
  rw [h]; exact hc

theorem workingCopy_agrees (s : State) {c : Check} (hc : c.work = s.workingCopy) : c.agrees s := fun i _ => by
  rw [hc]; exact ⟨rfl, fun _ _ => Iff.rfl⟩

/-- What STRICT rooms stay free by: the store, the batch and the matrix, and, while the matrix is still to be read, that no
lane is APPLYING. -/
theorem strictOk_congr (h1 : t.store = s.store) (h2 : t.lane.batch = s.lane.batch) (h3 : t.setup.matrix = s.setup.matrix)
    (h4 : t.reloading = true → s.reloading = true)
    (h5 : t.reloading = true → ∀ n, (t.laneAt n).state = .applying → (s.laneAt n).state = .applying) (hs : s.strictOk) :
    t.strictOk := by
  obtain ⟨a, b, c, d⟩ := hs
  refine ⟨?_, fun k hk => ?_, fun k hk => ?_, fun hr => ?_⟩
  · rw [h3]
    exact Work.strictFree_mono (fun i => by unfold State.workingCopy; rw [h1]) (fun _ he => by
      unfold State.workingCopy at he; rw [h1] at he; exact he) a
  · exact Check.agrees_congr h1 (b k (h2 ▸ hk))
  · rw [h3]; exact c k (h2 ▸ hk)
  · obtain ⟨x, y, z⟩ := d (h4 hr)
    exact ⟨by rw [h1]; exact x, by rw [h2]; exact y, fun n hn => z n (h5 hr n hn)⟩

theorem reloading_congr (h : t.setup.phase = s.setup.phase) : t.reloading = s.reloading := by
  unfold State.reloading; rw [h]

theorem strictOk_same (h1 : t.store = s.store) (h2 : t.lane = s.lane) (h3 : t.setup.matrix = s.setup.matrix)
    (h4 : t.setup.phase = s.setup.phase) (hs : s.strictOk) : t.strictOk :=
  strictOk_congr h1 (by rw [h2]) h3 (by rw [reloading_congr h4]; exact id)
    (fun _ n h => by rw [laneAt_congr h2] at h; exact h) hs

theorem state_setLane_applying {n : Fin 4} {l : Lane} (h : l.state = .applying → (s.laneAt n).state = .applying) (m : Fin 4)
    (hm : ((s.lane.lanes.set n l).get m).state = .applying) : (s.laneAt m).state = .applying := by
  rw [Quad.get_set] at hm
  split at hm
  next he => rw [he]; exact h hm
  next => exact hm

theorem LaneAct.strictOk (h : LaneAct s t) (ho : s.storeOk = true) (hs : s.strictOk) : t.strictOk := by
  obtain ⟨hs1, -, hs3⟩ := (State.storeOk_iff s).1 ho
  cases h with
  | captures n k v hk hopen =>
    exact strictOk_congr (s := s) rfl rfl rfl id
      (fun _ m hm => state_setLane_applying (l := captureWord (s.laneAt n) k v) id m hm) hs
  | capturesByte n k i d hk hopen =>
    exact strictOk_congr (s := s) rfl rfl rfl id
      (fun _ m hm => state_setLane_applying (l := captureByte (s.laneAt n) k i d) id m hm) hs
  | clears n hopen =>
    exact strictOk_congr (s := s) rfl rfl rfl id
      (fun _ m hm => state_setLane_applying (l := clearedLane (s.laneAt n)) id m hm) hs
  | holds n r =>
    exact strictOk_congr (s := s) rfl rfl rfl id
      (fun _ m hm => state_setLane_applying (l := { s.laneAt n with heldResult := r }) id m hm) hs
  | accepts n q e hopen hj =>
    exact strictOk_congr (s := s) rfl rfl rfl id
      (fun _ m hm => state_setLane_applying (l := acceptedLane (s.laneAt n) q e) (fun h => by cases h) m hm) hs
  | promotes n rest hc hr hq =>
    refine strictOk_congr (s := s) rfl rfl rfl id (fun hrl => ?_) hs
    unfold State.reloading at hrl
    rw [show (s.setLane n { s.laneAt n with state := .applying }).setup.phase = .running from hr] at hrl
    cases hrl
  | begins es n hb hn hw =>
    obtain ⟨a, b, c, d⟩ := hs
    refine ⟨a, fun k hk => ?_, fun k hk => (by cases hk), fun hr => absurd hn ((d hr).2.2 n)⟩
    cases hk
    exact workingCopy_agrees s rfl
  | simulates c off e h =>
    obtain ⟨hb, -, he⟩ := nextEntry_eq_some h
    have hck : s.lane.batch.check = some c := by rw [hb]; rfl
    obtain ⟨hw, hes⟩ := (Check.storeOk_iff c).1 (hs3 c hck)
    have hsort := (sessionsOk_iff.1 hw.1).1
    obtain ⟨a, b, -, d⟩ := hs
    refine ⟨a, fun k hk => ?_, fun k hk => (by cases hk), fun hr => ?_⟩
    · cases hk
      cases hsim : simulate s.setup.retain off e c.work with
      | refused code first => exact Check.agrees_congr (s := s) rfl (b c hck)
      | passed w =>
        exact Check.agrees_congr (s := s) rfl (Check.agrees_leaves hsort
          (sessionsOk_iff.1 (simulate_storeOk hw (hes _ he) hsim).1).1 (simulate_leaves hsort hsim) (b c hck))
    · have := (d hr).2.1
      rw [hck] at this
      cases this
  | results =>
    obtain ⟨a, -, -, d⟩ := hs
    exact ⟨a, fun k hk => (by cases hk), fun k hk => (by cases hk), fun hr => ⟨(d hr).1, rfl, (d hr).2.2⟩⟩
  | passes c hb he =>
    have hck : s.lane.batch.check = some c := by rw [hb]; rfl
    have hsort := (sessionsOk_iff.1 ((Check.storeOk_iff c).1 (hs3 c hck)).1.1).1
    obtain ⟨a, b, -, d⟩ := hs
    refine ⟨a, fun k hk => ?_, fun k hk => ?_, fun hr => ?_⟩
    · cases hk; exact Check.agrees_congr (s := s) rfl (b c hck)
    · cases hk; exact strictFree_of_passes he hsort (b c hck) a
    · have := (d hr).2.1
      rw [hck] at this
      cases this
  | releases n =>
    obtain ⟨a, -, -, d⟩ := hs
    refine ⟨a, fun k hk => (by cases hk), fun k hk => (by cases hk), fun hr => ⟨(d hr).1, rfl, fun m hm => ?_⟩⟩
    exact (d hr).2.2 m (state_setLane_applying (l := { s.laneAt n with state := .opened, shadow := [], accepted := none })
      (fun h => by cases h) m hm)

/-! ### Setup, the clock and the store -/

theorem map_policy_map (f : Nat × Room → Room) (hf : ∀ e, (f e).policy = e.2.policy) (rooms : Tab Room) (i : Nat) :
    (Tab.get (rooms.map fun e => (e.1, f e)) i).map (·.policy) = (Tab.get rooms i).map (·.policy) := by
  rw [show (rooms.map fun e => (e.1, f e)) = rooms.map fun e => (e.1, (fun k v => f (k, v)) e.1 e.2) from rfl,
    Tab.get_map (fun k v => f (k, v)), Option.map_map]
  congr 1
  funext r
  exact hf (i, r)

theorem policies_applied (s : State) (w : Work) (i : Nat) :
    (Tab.get (s.appliedRooms w) i).map (·.policy) = (Tab.get w.rooms i).map (·.policy) :=
  map_policy_map (appliedAt (s.appliedSessions w) (appliedClock s.clock w).now (clockDiffers s.clock w) w.touched)
    (fun _ => (appliedAt_definition ..).2.2.2) w.rooms i

theorem policies_deriveAll (l : Tab Session) (now : Nat) (rooms : Tab Room) (i : Nat) :
    (Tab.get (deriveAll l now rooms) i).map (·.policy) = (Tab.get rooms i).map (·.policy) :=
  map_policy_map (derivedAt l now) (fun _ => (derivedAt_definition ..).2.2.2) rooms i

theorem appliedSessions_subset (s : State) (w : Work) {e : Nat × Session} (h : e ∈ s.appliedSessions w) :
    e ∈ w.sessions := by
  unfold State.appliedSessions at h
  split at h
  · exact List.mem_of_mem_filter h
  · exact h

/-- The store after a minute's retire and derivation holds no STRICT room in conflict if it held none. -/
theorem strictFree_minute (s : State) (c : ClockUnit) (d : List Nat) (h : s.workingCopy.strictFree s.setup.matrix) :
    (State.workingCopy { s with
      clock := c
      store :=
        { sessions := retired s.setup.retain s.clock.now s.store.sessions
          rooms := deriveAll (retired s.setup.retain s.clock.now s.store.sessions) s.clock.now s.store.rooms }
      comp := { s.comp with dirty := d } }).strictFree s.setup.matrix :=
  Work.strictFree_mono (w := s.workingCopy) (fun i => policies_deriveAll _ _ s.store.rooms i)
    (fun _ he => List.mem_of_mem_filter (l := s.store.sessions) he) h

theorem SetupAct.strictOk (h : SetupAct s t) (hs : s.strictOk) : t.strictOk := by
  cases h with
  | values u h =>
    obtain ⟨-, hm, hp, -⟩ := h
    exact strictOk_same (s := s) rfl rfl hm hp hs
  | matrix v h =>
    obtain ⟨a, b, c, d⟩ := hs
    obtain ⟨x, y, z⟩ := d h
    refine ⟨Work.strictFree_nil x, fun k hk => ?_, fun k hk => ?_, fun hr => ⟨x, y, z⟩⟩
    · rw [show s.lane.batch.check = some k from hk] at y; cases y
    · rw [show s.lane.batch = .applyRequested k from hk] at y; cases y
  | kind k p h => exact strictOk_same (s := s) rfl rfl rfl rfl hs
  | reloads k h => exact strictOk_congr (s := s) rfl rfl rfl (fun _ => h) (fun _ _ => id) hs
  | fills h => exact strictOk_congr (s := s) rfl rfl rfl (fun _ => h) (fun _ _ => id) hs
  | fillNext k it rest hw hp hk hs' =>
    obtain ⟨b, q, st, he⟩ := fillEntered_eq s it rest
    rw [he]
    exact strictOk_congr (s := s) rfl rfl rfl (fun h => by cases h) (fun _ _ => id) hs
  | fillLast k it rest hw hp hk hs' =>
    obtain ⟨b, q, st, he⟩ := fillEntered_eq s it rest
    rw [he]
    exact strictOk_congr (s := s) rfl rfl rfl (fun h => by cases h) (fun _ _ => id) hs
  | clock c => exact strictOk_same (s := s) rfl rfl rfl rfl hs
  | refills c => exact strictOk_same (s := s) rfl rfl rfl rfl hs
  | minute c d h =>
    obtain ⟨a, b, e, f⟩ := hs
    have hfree := strictFree_minute s c d a
    rcases startOver_eq { s with
      clock := c
      store :=
        { sessions := retired s.setup.retain s.clock.now s.store.sessions
          rooms := deriveAll (retired s.setup.retain s.clock.now s.store.sessions) s.clock.now s.store.rooms }
      comp := { s.comp with dirty := d } } with ⟨hb, ho⟩ | ⟨k, hb, ho⟩
    · rw [ho]
      have hb : s.lane.batch.check = none := hb
      refine ⟨hfree, fun k hk => ?_, fun k hk => ?_, fun hr => ?_⟩
      · rw [show s.lane.batch.check = some k from hk] at hb; cases hb
      · rw [show s.lane.batch = .applyRequested k from hk] at hb; cases hb
      · obtain ⟨x, y, z⟩ := f hr
        exact ⟨by rw [x]; rfl, y, z⟩
    · rw [ho]
      have hb : s.lane.batch.check = some k := hb
      refine ⟨hfree, fun k' hk' => ?_, fun k' hk' => (by cases hk'), fun hr => ?_⟩
      · cases hk'
        exact workingCopy_agrees _ rfl
      · have := (f hr).2.1
        rw [hb] at this
        cases this
  | applies c h =>
    obtain ⟨-, -, e, f⟩ := hs
    have hfree : (s.applied c.work).workingCopy.strictFree s.setup.matrix := by
      rw [applied_frame]
      exact Work.strictFree_mono (fun i => policies_applied s c.work i) (fun _ => appliedSessions_subset s c.work) (e c h)
    have hm : (s.applied c.work).setup = s.setup := by rw [applied_frame]; rfl
    refine ⟨?_, fun k hk => (by cases hk), fun k hk => (by cases hk), fun hr => ?_⟩
    · show (s.applied c.work).workingCopy.strictFree (s.applied c.work).setup.matrix
      rw [hm]; exact hfree
    · have hr' : s.reloading = true := by
        rw [← reloading_congr (t := (s.applied c.work).setBatch .resulting) (congrArg SetupLogic.phase hm)]; exact hr
      have := (f hr').2.1
      rw [h] at this
      cases this

/-- A store with no session, no batch in work and no lane APPLYING. -/
theorem strictOk_empty (h1 : t.store.sessions = []) (h2 : t.lane.batch = .none) (h3 : ∀ n, (t.laneAt n).state = .opened) :
    t.strictOk :=
  ⟨Work.strictFree_nil h1, fun k hk => (by rw [h2] at hk; cases hk), fun k hk => (by rw [h2] at hk; cases hk),
    fun _ => ⟨h1, by rw [h2]; rfl, fun n hn => (by rw [h3 n] at hn; cases hn)⟩⟩

theorem StartAct.strictOk (h : StartAct s t) (hs : s.strictOk) : t.strictOk := by
  have hopen : ∀ {u : State}, u.lane.lanes = .all .empty → ∀ n, (u.laneAt n).state = .opened := fun h n => by
    unfold State.laneAt
    rw [h, Quad.get_all]; rfl
  cases h with
  | pins p h => exact strictOk_same (s := s) rfl rfl rfl rfl hs
  | straps p b hg ha hp hh => exact strictOk_same (s := s) rfl rfl rfl rfl hs
  | blocks p => exact strictOk_empty rfl rfl (hopen rfl)
  | starts p b m => exact strictOk_empty rfl rfl (hopen rfl)
  | restarts => exact strictOk_empty rfl rfl (hopen rfl)

theorem Act.strictOk (h : Act P s t) (ho : s.storeOk = true) (hs : s.strictOk) : t.strictOk := by
  cases h with
  | path h => exact strictOk_same h.store h.lane (by rw [h.setup]) (by rw [h.setup]) hs
  | sign h => exact strictOk_same h.store h.lane (by rw [h.setup]) (by rw [h.setup]) hs
  | cache h => exact strictOk_same h.store h.lane (by rw [h.setup]) (by rw [h.setup]) hs
  | lane h => exact h.strictOk ho hs
  | setup h => exact h.strictOk hs
  | start h => exact h.strictOk hs
  | hands h => exact strictOk_same h.store h.lane (by rw [h.setup]) (by rw [h.setup]) hs

/-- Settles O10: with the store's tables in form, every act keeps STRICT rooms free of conflict. -/
theorem stepKeepsStrictRoomsFree : Obligations.StepKeepsStrictRoomsFree := by
  unfold Obligations.StepKeepsStrictRoomsFree
  intro s t hs _ hf h
  exact (step_keeps (Q := fun u => u.storeOk = true ∧ u.strictOk)
    (fun _ _ h ⟨h1, h2⟩ => ⟨h.storeOk h1, h.strictOk h1 h2⟩) (fun _ _ => id) h ⟨hs, hf⟩).2

end Sys2Proof.Machine
end

section
/-! What is posted keeps its form, and the part's copies of words in memory stay those words: kept by every act (R28, R68, R74,
R165, R169). -/

namespace Sys2Proof.Machine

variable {P : Prop} {s t u : State}

/-! ## Records on their way -/

theorem postsOk_congr (h1 : t.path.postQueue = s.path.postQueue) (h2 : t.post.waiting = s.post.waiting)
    (h3 : t.post.backlog = s.post.backlog) (h4 : t.setup.phase = s.setup.phase) (hs : s.postsOk = true) : t.postsOk = true := by
  rw [State.postsOk_iff] at hs ⊢; rw [h1, h2, h3, h4]; exact hs

theorem postsOk_queue (h1 : ∀ e ∈ t.path.postQueue, e ∈ s.path.postQueue) (h2 : t.post = s.post) (h3 : t.setup = s.setup)
    (hs : s.postsOk = true) : t.postsOk = true := by
  rw [State.postsOk_iff] at hs ⊢
  rw [h2, h3]
  exact ⟨fun e he => hs.1 e (h1 e he), hs.2⟩

theorem PathAct.postsOk (h : PathAct s t) (hs : s.postsOk = true) : t.postsOk = true := by
  cases h with
  | turns p h => exact postsOk_congr (s := s) h.2.1 rfl rfl rfl hs
  | drains e q hq => exact postsOk_queue (s := s) (fun x hx => by rw [hq]; exact List.mem_cons_of_mem _ hx) rfl rfl hs
  | unqueues o => exact postsOk_queue (s := s) (fun x hx => List.mem_of_mem_filter hx) rfl rfl hs
  | _ => exact postsOk_congr (s := s) rfl rfl rfl rfl hs

theorem ite_inRange {p : Prop} [Decidable p] {a b : Rec} (ha : p → a.inRange = true) (hb : ¬ p → b.inRange = true) :
    (if p then a else b).inRange = true := by
  split
  next h => exact ha h
  next h => exact hb h

theorem inRange_fillRecord (k : Nat) : (fillRecord k).inRange = true := by
  unfold fillRecord
  refine ite_inRange (fun _ => rfl) fun _ => ite_inRange (fun _ => rfl) fun _ => ite_inRange (fun _ => rfl) fun _ =>
    ite_inRange (fun _ => rfl) fun _ => ite_inRange (fun _ => rfl) fun _ => ite_inRange (fun _ => rfl) fun _ =>
    ite_inRange (fun _ => rfl) fun _ => ite_inRange (fun _ => rfl) fun _ => ite_inRange (fun _ => rfl) fun _ =>
    ite_inRange (fun _ => rfl) fun _ => ite_inRange (fun h => ?_) fun _ => ite_inRange (fun h => ?_) fun _ =>
    ite_inRange (fun h => ?_) fun _ => rfl
  · simp only [Rec.inRange, decide_eq_true_eq]; omega
  · simp only [Rec.inRange, decide_eq_true_eq]; omega
  · simp only [Rec.inRange, decide_eq_true_eq]; unfold lastFill at h; omega

/-- What a record of the start-up fill leaves of the queue and of what waits: its words in the posted span, its raise, and no
record of the fill (R169, R193). -/
theorem fillEntered_posts {it : Item} {rest : List Item} (hw : s.post.waiting = it :: rest) (hp : it.producer = .fill)
    {k : Nat} (hk : s.setup.phase = .fill k) (hs : s.postsOk = true) :
    (∀ e ∈ (s.fillEntered it rest).path.postQueue, e.inSpan)
      ∧ (∀ x ∈ (s.fillEntered it rest).post.waiting, x.record.inRange = true)
      ∧ (s.fillEntered it rest).post.backlog = s.post.backlog ∧ fillsOf (s.fillEntered it rest).post.waiting = [] := by
  obtain ⟨h1, h2, h3, h4, h5⟩ := (State.postsOk_iff s).1 hs
  rw [hk] at h5
  rw [hw] at h2 h5
  obtain ⟨hlen, hrec⟩ := h5
  have hrest : fillsOf rest = [] := by
    have : fillsOf (it :: rest) = it :: fillsOf rest := by simp [fillsOf, hp]
    rw [this] at hlen
    exact List.length_eq_zero_iff.1 (by simpa using hlen)
  unfold State.fillEntered
  obtain ⟨b, hb⟩ := readyForLast_eq (s.setWaiting rest) .fill
  rw [hb, handRaise_eq]
  refine ⟨fun e he => ?_, raised_forall _ rfl (fun _ _ _ _ => rfl) fun x hx => h2 x (List.mem_cons_of_mem _ hx), rfl, ?_⟩
  · rcases List.mem_append.1 he with he | he
    · exact h1 e he
    · exact enqueued_inSpan (h2 it List.mem_cons_self) he
  · exact (raised_fills (l := rest) it.raises fun x hx => by rw [hrest] at hx; cases hx).trans hrest

theorem SetupAct.postsOk (h : SetupAct s t) (hs : s.postsOk = true) : t.postsOk = true := by
  have noFills : s.reloading = true → fillsOf s.post.waiting = [] := fun hr => by
    obtain ⟨-, -, -, -, h5⟩ := (State.postsOk_iff s).1 hs
    unfold State.reloading at hr
    cases hp : s.setup.phase with
    | reload k => rw [hp] at h5; exact h5
    | fill k => rw [hp] at hr; cases hr
    | running => rw [hp] at hr; cases hr
  cases h with
  | values u h => exact postsOk_congr (s := s) rfl rfl rfl h.2.2.1 hs
  | reloads k h =>
    obtain ⟨h1, h2, h3, h4, -⟩ := (State.postsOk_iff s).1 hs
    exact (State.postsOk_iff _).2 ⟨h1, h2, h3, h4, noFills h⟩
  | fills h =>
    obtain ⟨h1, h2, h3, h4, -⟩ := (State.postsOk_iff s).1 hs
    refine (State.postsOk_iff _).2 ⟨h1, fun x hx => ?_, h3, h4, ?_⟩
    · rcases List.mem_append.1 hx with hx | hx
      · exact h2 x hx
      · rw [List.mem_singleton.1 hx]; exact inRange_fillRecord 0
    · show StartPhase.admits (.fill 0) (fillsOf (s.post.waiting ++ [_]))
      rw [fillsOf_append, noFills h]
      exact ⟨Nat.le_refl 1, fun x hx => by rw [List.mem_singleton.1 hx]⟩
  | fillNext k it rest hw hp hk hf =>
    obtain ⟨-, -, h3, h4, -⟩ := (State.postsOk_iff s).1 hs
    obtain ⟨e1, e2, e3, e4⟩ := fillEntered_posts hw hp hk hs
    refine (State.postsOk_iff _).2 ⟨e1, fun x hx => ?_, fun x hx => h3 x (e3 ▸ hx), fun x hx => h4 x (e3 ▸ hx), ?_⟩
    · rcases List.mem_append.1 hx with hx | hx
      · exact e2 x hx
      · rw [List.mem_singleton.1 hx]; exact inRange_fillRecord (k + 1)
    · show StartPhase.admits (.fill (k + 1)) (fillsOf ((s.fillEntered it rest).post.waiting ++ [_]))
      rw [fillsOf_append, e4]
      exact ⟨Nat.le_refl 1, fun x hx => by rw [List.mem_singleton.1 hx]⟩
  | fillLast k it rest hw hp hk hf =>
    obtain ⟨-, -, h3, h4, -⟩ := (State.postsOk_iff s).1 hs
    obtain ⟨e1, e2, e3, e4⟩ := fillEntered_posts hw hp hk hs
    exact (State.postsOk_iff _).2 ⟨e1, e2, fun x hx => h3 x (e3 ▸ hx), fun x hx => h4 x (e3 ▸ hx), e4⟩
  | minute c d h => rw [startOver_frame]; exact postsOk_congr (s := s) rfl rfl rfl rfl hs
  | applies c h => rw [applied_frame]; exact postsOk_congr (s := s) rfl rfl rfl rfl hs
  | _ => exact postsOk_congr (s := s) rfl rfl rfl rfl hs

theorem StartAct.postsOk (h : StartAct s t) (hs : s.postsOk = true) : t.postsOk = true := by
  cases h with
  | pins p h => exact postsOk_congr (s := s) rfl rfl rfl rfl hs
  | straps p b hg ha hp hh => exact postsOk_congr (s := s) rfl rfl rfl rfl hs
  | starts p b m => exact postsOk_congr (s := State.reset) rfl rfl rfl rfl (by decide)
  | _ => rfl

theorem Act.postsOk (h : Act P s t) (hP : P) (hs : s.postsOk = true) : t.postsOk = true := by
  cases h with
  | path h => exact h.postsOk hs
  | sign h => exact postsOk_congr (by rw [h.path]) (by rw [h.post]) (by rw [h.post]) (by rw [h.setup]) hs
  | cache h => exact postsOk_congr h.postQueue (by rw [h.post]) (by rw [h.post]) (by rw [h.setup]) hs
  | lane h => exact postsOk_congr (by rw [h.path]) (by rw [h.post]) (by rw [h.post]) (by rw [h.setup]) hs
  | setup h => exact h.postsOk hs
  | start h => exact h.postsOk hs
  | hands h => exact h.posts hP hs

/-! ## The lines a face covers -/

/-- The lines a handle covers lie in the pool. -/
def coversPool (h : Handle) : Prop := ∀ l ∈ linesOf h, l < 1536

theorem inPool_of_required {h : Handle} (hr : requiredOk h = true) : coversPool h := fun l hl => by
  simp only [requiredOk, Bool.and_eq_true] at hr
  have hend : h.line + coveredLines h.len ≤ 1536 := of_decide_eq_true hr.2
  rw [linesOf, List.mem_range'_1] at hl
  exact Nat.lt_of_lt_of_le hl.2 hend

theorem inPool_of_empty {h : Handle} (hl : h.len = 0) : coversPool h := fun l hm => by
  simp [linesOf, hl, coveredLines] at hm

theorem inPool_of_optional {h : Handle} (ho : optionalOk h = true) : coversPool h := by
  simp only [optionalOk, Bool.or_eq_true, decide_eq_true_eq] at ho
  exact ho.elim inPool_of_empty inPool_of_required

/-- Every handle a selection reads lies in the pool. -/
structure Selection.inPool (v : Selection) : Prop where
  titles : ∀ x ∈ v.sessions, coversPool x.2.title
  presenters : ∀ x ∈ v.sessions, coversPool x.2.presenter
  names : ∀ r ∈ v.rooms, coversPool r.2.name

theorem selection_inPool (hs : s.storeOk = true) : s.selection.inPool := by
  obtain ⟨h1, h2, -⟩ := (State.storeOk_iff s).1 hs
  have hses := (sessionsOk_iff.1 h1).2.2
  have hroom := (roomsOk_iff.1 h2).2
  refine ⟨fun x hx => ?_, fun x hx => ?_, fun r hr => ?_⟩
  · have := hses x hx
    simp only [sessionOk, Bool.and_eq_true] at this
    obtain ⟨⟨⟨⟨⟨-, ht⟩, -⟩, -⟩, -⟩, -⟩ := this
    exact inPool_of_required ht
  · have := hses x hx
    simp only [sessionOk, Bool.and_eq_true] at this
    obtain ⟨⟨⟨⟨-, hp⟩, -⟩, -⟩, -⟩ := this
    exact inPool_of_optional hp
  · have := hroom r hr
    simp only [roomOk, Bool.and_eq_true] at this
    obtain ⟨⟨⟨-, hn⟩, -⟩, -⟩ := this
    exact inPool_of_required hn

/-- A face all of whose handles lie in the pool. -/
structure Face.inPool (f : Face) : Prop where
  header : coversPool f.header
  lines : ∀ l ∈ f.lines, coversPool l.title ∧ coversPool l.extra

theorem noText_inPool : coversPool noText := inPool_of_empty rfl

theorem nameOf_inPool {v : Selection} (hv : v.inPool) (i : Nat) : coversPool (nameOf v.rooms i) := by
  unfold nameOf
  cases h : Tab.get v.rooms i with
  | none => exact noText_inPool
  | some r => exact hv.names (i, r) (Tab.mem_of_get h)

theorem doorLine_inPool {v : Selection} (hv : v.inPool) (room : Nat) {x : Nat × Session} (hx : x ∈ v.sessions) :
    coversPool (doorLine v room x).title ∧ coversPool (doorLine v room x).extra := by
  refine ⟨hv.titles x hx, ?_⟩
  show coversPool (doorExtra v x.2 _)
  unfold doorExtra
  split
  · exact nameOf_inPool hv _
  · exact noText_inPool
  · split
    · exact hv.presenters x hx
    · exact noText_inPool

theorem boardLine_inPool {v : Selection} (hv : v.inPool) {x : Nat × Session} (hx : x ∈ v.sessions) :
    coversPool (boardLine v x).title ∧ coversPool (boardLine v x).extra := ⟨hv.titles x hx, nameOf_inPool hv _⟩

theorem composeFace_inPool {v : Selection} (hv : v.inPool) (d : SignDef) : (composeFace v d).inPool := by
  unfold composeFace
  split
  next room _ =>
    unfold doorFace
    split
    next => exact ⟨noText_inPool, fun l hl => by cases hl⟩
    next r hr =>
      refine ⟨hv.names (room, r) (Tab.mem_of_get hr), fun l hl => ?_⟩
      dsimp only at hl
      split at hl
      · cases hl
      · obtain ⟨x, hx, rfl⟩ := List.mem_map.1 hl
        exact doorLine_inPool hv room (List.mem_of_mem_filter (mem_sortBy.1 (List.mem_of_mem_take hx)))
  next rooms _ =>
    refine ⟨noText_inPool, fun l hl => ?_⟩
    obtain ⟨x, hx, rfl⟩ := List.mem_map.1 hl
    obtain ⟨i, -, hi⟩ := List.mem_filterMap.1 (List.mem_of_mem_take hx)
    split at hi
    · exact boardLine_inPool hv (mem_chainOf.1 (List.mem_of_find?_eq_some hi)).1
    · cases hi
  next mask _ =>
    refine ⟨noText_inPool, fun l hl => ?_⟩
    obtain ⟨x, hx, rfl⟩ := List.mem_map.1 hl
    exact boardLine_inPool hv (List.mem_of_mem_filter (mem_sortBy.1 (List.mem_of_mem_take hx)))

theorem mem_distinct {l : List Nat} {x : Nat} : x ∈ distinct l ↔ x ∈ l := by
  induction l with
  | nil => rfl
  | cons y l ih =>
    rw [distinct, List.mem_cons, List.mem_cons, List.mem_filter, ih]
    by_cases h : x = y <;> simp [h]

theorem textLinesOf_lt {f : Face} (hf : f.inPool) {l : Nat} (hl : l ∈ textLinesOf f) : l < 1536 := by
  rw [textLinesOf, mem_distinct, List.mem_append, List.mem_flatMap] at hl
  rcases hl with hl | ⟨x, hx, hl⟩
  · exact hf.header l hl
  · obtain ⟨h1, h2⟩ := hf.lines x hx
    exact (List.mem_append.1 hl).elim (h1 l) (h2 l)

/-! ## The copies -/

/-- Word `k` of a lane as memory holds it. -/
def State.entryWord (s : State) (n : Fin 4) (k : Nat) : Word := readWord s.mem (s.regionAddress (laneOffset n k))

/-- Byte `i` of a pool line as memory holds it. -/
def State.poolByte (s : State) (l i : Nat) : Byte := readByte s.mem (s.regionAddress (poolOffset l + i))

/-- A captured word is the entry word memory holds, or carries a partial mark in an OPEN lane (R26 to R28). -/
def State.holdsEntry (s : State) (n : Fin 4) (e : Nat × Slot) : Prop :=
  e.1 < 127 ∧ ((s.laneAt n).state = .opened ∧ e.2.partMark = true ∨ e.2.value = s.entryWord n e.1)

/-- A cached line holds the bytes of its pool line (R68). -/
def State.holdsLine (s : State) (e : CacheLine) : Prop :=
  e.line < 1536 ∧ e.data = (List.range 32).map fun i => s.poolByte e.line i

/-- Word `i` of a pool line as memory holds it. -/
def State.poolWordAt (s : State) (l i : Nat) : Word := joinBytes (s.poolByte l (2 * i + 1)) (s.poolByte l (2 * i))

/-- A fill, if it is not spoiled, has read the words of its pool line (R71, R72, R76). -/
def State.holdsFill (s : State) (f : Fill) : Prop :=
  f.line < 1536 ∧ (if f.state = .holding then f.data.length = 16 else f.data.length < 16)
    ∧ (f.spoiled = true ∨ f.data = (List.range f.data.length).map fun i => s.poolWordAt f.line i)

/-- The part keeps no copy. -/
def State.copyless (s : State) : Prop := (∀ n, (s.laneAt n).shadow = []) ∧ s.cache.lines = [] ∧ s.cache.fills = []

structure State.mirrored (s : State) : Prop where
  lanes : ∀ n, ∀ e ∈ (s.laneAt n).shadow, s.holdsEntry n e
  lines : ∀ e ∈ s.cache.lines, s.holdsLine e
  fills : ∀ f ∈ s.cache.fills, s.holdsFill f
  wants : ∀ c, s.comp.composition = some c → ∀ l ∈ c.wanted, l < 1536
  held : s.pins.pgood = true → s.active = false → s.copyless

theorem State.mirrorsOk_iff (s : State) : s.mirrorsOk = true ↔ s.mirrored := by
  have h1 : allFour.all s.laneMirrors = true ↔ ∀ n, ∀ e ∈ (s.laneAt n).shadow, s.holdsEntry n e := by
    rw [allFour_all]
    simp only [State.laneMirrors, List.all_eq_true, Bool.and_eq_true, Bool.or_eq_true, decide_eq_true_eq,
      State.holdsEntry, State.entryWord, laneOffset]
  have h2 : s.cache.lines.all s.lineMirrors = true ↔ ∀ e ∈ s.cache.lines, s.holdsLine e := by
    simp only [State.lineMirrors, List.all_eq_true, Bool.and_eq_true, decide_eq_true_eq, State.holdsLine, State.poolByte,
      poolOffset]
  have h3 : s.cache.fills.all s.fillMirrors = true ↔ ∀ f ∈ s.cache.fills, s.holdsFill f := by
    have hw : ∀ f : Fill, ((List.range f.data.length).map fun i =>
        readWord s.mem (s.regionAddress (0x4000 + 0x20 * f.line + 2 * i)))
          = (List.range f.data.length).map fun i => s.poolWordAt f.line i := fun f =>
      List.map_congr_left fun i _ => by
        unfold readWord State.poolWordAt State.poolByte State.regionAddress poolOffset
        simp only [Nat.add_assoc]
    simp only [State.fillMirrors, List.all_eq_true, Bool.and_eq_true, Bool.or_eq_true, decide_eq_true_eq, State.holdsFill,
      hw, and_assoc]
    refine forall_congr' fun f => imp_congr_right fun _ => and_congr_right fun _ => and_congr_left fun _ => ?_
    split <;> simp
  have h4 : (s.comp.composition.all fun c => c.wanted.all fun l => l < 1536) = true
      ↔ ∀ c, s.comp.composition = some c → ∀ l ∈ c.wanted, l < 1536 := by
    simp only [Option.all_eq_true, List.all_eq_true, decide_eq_true_eq]
  have h5 : (!s.pins.pgood || s.active
      || ((allFour.all fun n => (s.laneAt n).shadow.isEmpty) && s.cache.lines.isEmpty && s.cache.fills.isEmpty)) = true
      ↔ (s.pins.pgood = true → s.active = false → s.copyless) := by
    simp only [Bool.or_eq_true, Bool.and_eq_true, allFour_all, List.isEmpty_iff, State.copyless, and_assoc]
    cases s.pins.pgood <;> cases s.active <;> simp
  unfold State.mirrorsOk
  rw [Bool.and_eq_true, Bool.and_eq_true, Bool.and_eq_true, Bool.and_eq_true, h1, h2, h3, h4, h5]
  exact ⟨fun ⟨⟨⟨⟨a, b⟩, c⟩, d⟩, e⟩ => ⟨a, b, c, d, e⟩, fun ⟨a, b, c, d, e⟩ => ⟨⟨⟨⟨a, b⟩, c⟩, d⟩, e⟩⟩

/-! ### Writes and the copies -/

/-- The bytes the part keeps copies of read as before. -/
def State.bytesKept (s t : State) : Prop :=
  (∀ n k, k < 127 → t.entryWord n k = s.entryWord n k) ∧ ∀ l i, l < 1536 → i < 32 → t.poolByte l i = s.poolByte l i

theorem bytesKept_refl (h1 : t.mem = s.mem) (h2 : t.path.base = s.path.base) : s.bytesKept t := by
  unfold State.bytesKept State.entryWord State.poolByte State.regionAddress
  rw [h1, h2]
  exact ⟨fun _ _ _ => rfl, fun _ _ _ _ => rfl⟩

/-- A word that no copy is taken from is apart from the bytes of every copy. -/
theorem outside_entry {a : Nat} (h : s.outside a) (n : Fin 4) {k : Nat} (hk : k < 127) {j : Nat} (hj : j ≤ 1) :
    s.regionAddress (laneOffset n k) + j ≠ a ∧ s.regionAddress (laneOffset n k) + j ≠ a + 1 := by
  obtain ⟨he, hl, -⟩ := h
  have := hl n k hk
  unfold State.regionAddress laneOffset at *
  omega

theorem outside_pool {a : Nat} (h : s.outside a) {l i : Nat} (hl : l < 1536) (hi : i < 32) :
    s.regionAddress (poolOffset l + i) ≠ a ∧ s.regionAddress (poolOffset l + i) ≠ a + 1 := by
  obtain ⟨he, -, hp⟩ := h
  have := hp l (i / 2) hl (by omega)
  unfold State.regionAddress poolOffset at *
  omega

/-- Memory changed in a word outside the copies. -/
theorem bytesKept_outside {a : Nat} (h : s.outside a) (hb : t.path.base = s.path.base)
    (hm : ∀ b, b ≠ a → b ≠ a + 1 → readByte t.mem b = readByte s.mem b) : s.bytesKept t := by
  have hr : ∀ o, t.regionAddress o = s.regionAddress o := fun o => by unfold State.regionAddress; rw [hb]
  refine ⟨fun n k hk => ?_, fun l i hl hi => ?_⟩
  · unfold State.entryWord readWord
    rw [hr]
    obtain ⟨a1, a2⟩ := outside_entry h n hk (Nat.le_refl 1)
    obtain ⟨b1, b2⟩ := outside_entry h n hk (Nat.zero_le 1)
    rw [Nat.add_zero] at b1 b2
    rw [hm _ a1 a2, hm _ b1 b2]
  · unfold State.poolByte
    rw [hr]
    obtain ⟨a1, a2⟩ := outside_pool h hl hi
    exact hm _ a1 a2

theorem holdsEntry_kept {n : Fin 4} {e : Nat × Slot} (hk : s.bytesKept t) (hl : (t.laneAt n).state = (s.laneAt n).state)
    (h : s.holdsEntry n e) : t.holdsEntry n e :=
  ⟨h.1, by rw [hl, hk.1 n e.1 h.1]; exact h.2⟩

theorem holdsLine_kept {e : CacheLine} (hk : ∀ i, i < 32 → t.poolByte e.line i = s.poolByte e.line i) (h : s.holdsLine e) :
    t.holdsLine e :=
  ⟨h.1, h.2.trans (List.map_congr_left fun i hi => (hk i (List.mem_range.1 hi)).symm)⟩

theorem poolWordAt_kept {l i : Nat} (hk : ∀ i, i < 32 → t.poolByte l i = s.poolByte l i) (hi : i < 16) :
    t.poolWordAt l i = s.poolWordAt l i := by
  unfold State.poolWordAt
  rw [hk _ (by omega), hk _ (by omega)]

theorem holdsFill_kept {f : Fill} (hk : ∀ i, i < 32 → t.poolByte f.line i = s.poolByte f.line i) (h : s.holdsFill f) :
    t.holdsFill f := by
  obtain ⟨h1, h2, h3⟩ := h
  have hlen : f.data.length ≤ 16 := by split at h2 <;> omega
  refine ⟨h1, h2, h3.imp_right fun h => h.trans (List.map_congr_left fun i hi => ?_)⟩
  exact (poolWordAt_kept hk (by have := List.mem_range.1 hi; omega)).symm

theorem copyless_congr (h1 : ∀ n, (t.laneAt n).shadow = (s.laneAt n).shadow) (h2 : t.cache = s.cache) (h : s.copyless) :
    t.copyless := by
  obtain ⟨a, b, c⟩ := h
  exact ⟨fun n => (h1 n).trans (a n), by rw [h2]; exact b, by rw [h2]; exact c⟩

theorem not_mem_of_copyless {n : Fin 4} {e : Nat × Slot} (h : s.copyless) (he : e ∈ (s.laneAt n).shadow) {Q : Prop} : Q := by
  rw [h.1 n] at he; cases he

/-- All but memory outside the copies as before. -/
theorem mirrored_kept (hk : s.bytesKept t) (h1 : t.lane = s.lane) (h2 : t.cache = s.cache)
    (h3 : t.comp.composition = s.comp.composition) (h4 : t.pins.pgood = true → t.active = false →
      s.pins.pgood = true ∧ s.active = false) (hs : s.mirrored) : t.mirrored where
  lanes n e he := by
    rw [laneAt_congr h1] at he
    exact holdsEntry_kept hk (by rw [laneAt_congr h1]) (hs.lanes n e he)
  lines e he := by
    rw [h2] at he
    have h := hs.lines e he
    exact holdsLine_kept (fun i hi => hk.2 _ i h.1 hi) h
  fills f hf := by
    rw [h2] at hf
    have h := hs.fills f hf
    exact holdsFill_kept (fun i hi => hk.2 _ i h.1 hi) h
  wants c hc := hs.wants c (h3 ▸ hc)
  held hg ha := by
    obtain ⟨hg', ha'⟩ := h4 hg ha
    exact copyless_congr (fun n => by rw [laneAt_congr h1]) h2 (hs.held hg' ha')

/-- A part that keeps no copy, with power good. -/
theorem mirrored_copyless (h1 : t.copyless) (h2 : ∀ c, t.comp.composition = some c → ∀ l ∈ c.wanted, l < 1536) :
    t.mirrored where
  lanes n e he := not_mem_of_copyless h1 he
  lines e he := by rw [h1.2.1] at he; cases he
  fills f hf := by rw [h1.2.2] at hf; cases hf
  wants := h2
  held _ _ := h1

theorem outside_post (h : s.postsOk = true) {e : PostEntry} (he : e ∈ s.path.postQueue) :
    s.outside (s.regionAddress e.offset) := by
  obtain ⟨h1, h2, h3⟩ := ((State.postsOk_iff s).1 h).1 e he
  exact outside_region h3 (fun n k hk h => by unfold laneOffset at h; omega) (.inl (by omega))

theorem PathAct.mirrored (h : PathAct s t) (hp : s.postsOk = true) (hs : s.mirrored) : t.mirrored := by
  have pins : t.pins.pgood = true → t.active = false → s.pins.pgood = true ∧ s.active = false := fun hg ha => by
    rw [h.pins] at hg
    rw [active_congr h.pins] at ha
    exact ⟨hg, ha⟩
  have kept : s.bytesKept t → t.mirrored := fun hk => mirrored_kept hk h.lane h.cache (by rw [h.comp]) pins hs
  cases h with
  | turns p h => exact kept (bytesKept_refl rfl h.1)
  | drains e q hq =>
    refine kept (bytesKept_outside (outside_post hp (by rw [hq]; exact List.mem_cons_self)) rfl fun b h1 h2 => ?_)
    exact readByte_writeDrive_of_ne s.mem _ b (.both e.value) h1 h2
  | cuts e he i hi v =>
    refine kept (bytesKept_outside (outside_post hp he) rfl fun b h1 h2 => ?_)
    refine readByte_writeByte_of_ne _ _ fun hb => ?_
    rcases Nat.le_one_iff_eq_zero_or_eq_one.1 hi with rfl | rfl
    · exact h1 (by rw [hb, Nat.add_zero])
    · exact h2 hb
  | forwards a d h => exact kept (bytesKept_outside h rfl fun b h1 h2 => readByte_writeDrive_of_ne _ _ _ _ h1 h2)
  | passes a d hg ha =>
    have hc : (s.forward a d).copyless := copyless_congr (s := s) (fun _ => rfl) rfl (hs.held hg ha)
    exact mirrored_copyless hc hs.wants
  | _ => exact kept (bytesKept_refl rfl rfl)

theorem StartAct.mirrored (h : StartAct s t) (hs : s.mirrored) : t.mirrored := by
  have empty : ∀ {u : State}, u.lane.lanes = .all .empty → u.cache = { lines := [], fills := [] } →
      u.comp.composition = none → u.mirrored := fun h1 h2 h3 =>
    mirrored_copyless ⟨fun n => by unfold State.laneAt; rw [h1, Quad.get_all]; rfl, by rw [h2], by rw [h2]⟩
      fun c hc => by rw [h3] at hc; cases hc
  cases h with
  | blocks p => exact empty rfl rfl rfl
  | starts p b m => exact empty rfl rfl rfl
  | restarts => exact empty rfl rfl rfl
  | pins p h =>
    refine mirrored_kept (s := s) (bytesKept_refl rfl rfl) rfl rfl rfl (fun hg ha => ?_) hs
    rcases h with h | ⟨h1, h2, h3⟩
    · rw [show p.pgood = true from hg] at h; cases h
    · refine ⟨h1 ▸ hg, ?_⟩
      have ha : (p.pgood && p.powerOnEnded && !p.resetLow) = false := ha
      unfold State.active
      rw [← h1, ← h2, ← h3]
      exact ha
  | straps p b hg ha hp hh =>
    have hc : State.copyless { s with pins := p, path := { s.path with base := b } } :=
      copyless_congr (s := s) (fun _ => rfl) rfl (hs.held hg ha)
    exact mirrored_copyless hc hs.wants

/-! ### Captures -/

theorem holdsEntry_forward_lane {n m : Fin 4} {k : Nat} (d : Drive) {e : Nat × Slot} (hne : m ≠ n ∨ e.1 ≠ k) (hk : k < 127)
    (h : s.holdsEntry m e) {t : State} (hm : t.mem = writeDrive s.mem (s.regionAddress (laneOffset n k)) d)
    (hb : t.path.base = s.path.base) (hl : (t.laneAt m).state = (s.laneAt m).state) : t.holdsEntry m e := by
  obtain ⟨h1, h2⟩ := h
  have he : t.entryWord m e.1 = s.entryWord m e.1 := by
    unfold State.entryWord readWord
    rw [hm, show t.regionAddress (laneOffset m e.1) = s.regionAddress (laneOffset m e.1) by
      unfold State.regionAddress; rw [hb]]
    have hmn : m ≠ n → m.val ≠ n.val := fun h h' => h (Fin.ext h')
    have h4 := m.isLt
    have h5 := n.isLt
    rw [readByte_writeDrive_of_ne, readByte_writeDrive_of_ne]
    all_goals
      unfold State.regionAddress laneOffset
      rcases hne with hne | hne
      · have := hmn hne; omega
      · omega
  exact ⟨h1, by rw [hl, he]; exact h2⟩

theorem poolByte_forward_lane {n : Fin 4} {k : Nat} (d : Drive) (hk : k < 127) {t : State}
    (hm : t.mem = writeDrive s.mem (s.regionAddress (laneOffset n k)) d) (hb : t.path.base = s.path.base) (l i : Nat) :
    t.poolByte l i = s.poolByte l i := by
  have h5 := n.isLt
  unfold State.poolByte
  rw [hm, show t.regionAddress (poolOffset l + i) = s.regionAddress (poolOffset l + i) by
    unfold State.regionAddress; rw [hb]]
  refine readByte_writeDrive_of_ne _ _ _ _ ?_ ?_ <;>
  · unfold State.regionAddress laneOffset poolOffset
    omega

/-- A write to an entry word of an OPEN lane, captured in its slot. -/
theorem mirrored_capture {n : Fin 4} {k : Nat} {d : Drive} {x : Slot} {l : Lane} (hk : k < 127)
    (hopen : (s.laneAt n).state = .opened) (ho : Tab.sorted (s.laneAt n).shadow = true)
    (hx : x.partMark = true ∨ d = .both x.value) (ha : s.active = true) (hs : s.mirrored)
    (hl : l.state = (s.laneAt n).state) (hsh : l.shadow = Tab.set (s.laneAt n).shadow k x) :
    ((s.forward (s.regionAddress (laneOffset n k)) d).setLane n l).mirrored := by
  have hst : ∀ m, ((s.lane.lanes.set n l).get m).state = (s.laneAt m).state := state_setLane hl
  have byte : ∀ i j, ((s.forward (s.regionAddress (laneOffset n k)) d).setLane n l).poolByte i j = s.poolByte i j :=
    poolByte_forward_lane (s := s) d hk rfl rfl
  refine ⟨fun m e he => ?_, fun e he => ?_, fun f hf => ?_, hs.wants, fun hg hn => ?_⟩
  · have hmem : e ∈ ((s.lane.lanes.set n l).get m).shadow := he
    rw [Quad.get_set] at hmem
    split at hmem
    next hm =>
      subst hm
      rw [hsh] at hmem
      by_cases hek : e.1 = k
      · have hv := Tab.get_of_mem (Tab.sorted_set k x ho) hmem
        rw [hek, Tab.get_set_self] at hv
        refine ⟨hek ▸ hk, ?_⟩
        rcases hx with hx | hx
        · exact .inl ⟨(hst m).trans hopen, by rw [← Option.some.inj hv]; exact hx⟩
        · refine .inr ?_
          rw [← Option.some.inj hv, hek]
          show x.value = readWord (writeDrive s.mem (s.regionAddress (laneOffset m k)) d) (s.regionAddress (laneOffset m k))
          rw [hx]
          exact (readWord_writeWord_self _ _ _).symm
      · have hold : e ∈ (s.laneAt m).shadow := (Tab.mem_set hmem).resolve_left fun h => hek (by rw [h])
        exact holdsEntry_forward_lane d (.inr hek) hk (hs.lanes m e hold) rfl rfl (hst m)
    next hm => exact holdsEntry_forward_lane d (.inl hm) hk (hs.lanes m e hmem) rfl rfl (hst m)
  · exact holdsLine_kept (s := s) (fun i _ => byte _ i) (hs.lines e he)
  · exact holdsFill_kept (s := s) (fun i _ => byte _ i) (hs.fills f hf)
  · rw [show s.active = false from hn] at ha; cases ha

/-- Only the lanes change: each captured word is still its lane's entry word, or a partial one of a lane that is still OPEN. -/
theorem mirrored_lanes (h1 : t.mem = s.mem) (h2 : t.path = s.path) (h3 : t.cache = s.cache) (h4 : t.comp = s.comp)
    (h5 : t.pins = s.pins)
    (hl : ∀ n, ∀ e ∈ (t.laneAt n).shadow, e ∈ (s.laneAt n).shadow
      ∧ ((t.laneAt n).state = (s.laneAt n).state ∨ ((s.laneAt n).state = .opened → e.2.partMark = false)))
    (hs : s.mirrored) : t.mirrored := by
  have hk := bytesKept_refl (s := s) h1 (by rw [h2])
  refine ⟨fun n e he => ?_, fun e he => ?_, fun f hf => ?_, by rw [h4]; exact hs.wants, fun hg ha => ?_⟩
  · obtain ⟨hm, hst⟩ := hl n e he
    obtain ⟨a, b⟩ := hs.lanes n e hm
    refine ⟨a, ?_⟩
    rcases b with ⟨b1, b2⟩ | b
    · rcases hst with hst | hst
      · exact .inl ⟨hst.trans b1, b2⟩
      · rw [hst b1] at b2; cases b2
    · exact .inr (b.trans (hk.1 n e.1 a).symm)
  · rw [h3] at he
    have h := hs.lines e he
    exact holdsLine_kept (fun i hi => hk.2 _ i h.1 hi) h
  · rw [h3] at hf
    have h := hs.fills f hf
    exact holdsFill_kept (fun i hi => hk.2 _ i h.1 hi) h
  · obtain ⟨a, b, c⟩ := hs.held (h5 ▸ hg) (by rw [← active_congr h5]; exact ha)
    refine ⟨fun n => ?_, by rw [h3]; exact b, by rw [h3]; exact c⟩
    refine List.eq_nil_iff_forall_not_mem.2 fun e he => ?_
    have := (hl n e he).1
    rw [a n] at this
    cases this

theorem shadow_setLane {n : Fin 4} {l : Lane} (h : ∀ e ∈ l.shadow, e ∈ (s.laneAt n).shadow
      ∧ (l.state = (s.laneAt n).state ∨ ((s.laneAt n).state = .opened → e.2.partMark = false))) (m : Fin 4)
    (e : Nat × Slot) (he : e ∈ ((s.lane.lanes.set n l).get m).shadow) : e ∈ (s.laneAt m).shadow
      ∧ (((s.lane.lanes.set n l).get m).state = (s.laneAt m).state
        ∨ ((s.laneAt m).state = .opened → e.2.partMark = false)) := by
  rw [Quad.get_set] at he ⊢
  split at he
  next hm => rw [if_pos hm]; subst hm; exact h e he
  next hm => rw [if_neg hm]; exact ⟨he, .inl rfl⟩

/-- An accepted post word leaves no partial word in its lane (R29 to R31). -/
theorem unmarked_of_accepted {l : Lane} {q : Byte} {o : Nat} (h : judgePost l q o = .accepted) {e : Nat × Slot}
    (he : e ∈ l.shadow) : e.2.partMark = false := by
  unfold judgePost at h
  split at h
  · cases h
  next h1 =>
    split at h
    · cases h
    split at h
    · cases h
    split at h
    · cases h
    next h2 =>
      have hle := List.find?_eq_none.1 h2 e he
      have hmark := List.find?_eq_none.1 h1 e he
      simp only [decide_eq_true_eq, not_lt] at hle
      simpa [hle] using hmark

theorem LaneAct.mirrored (h : LaneAct s t) (ha : s.active = true) (ho : s.orderOk = true) (hs : s.mirrored) : t.mirrored := by
  have hsort := ((State.orderOk_iff s).1 ho).1
  cases h with
  | captures n k v hk hopen => 
    exact mirrored_capture (x := { value := v, partMark := false }) hk hopen (hsort n) (.inr rfl) ha hs rfl rfl
  | capturesByte n k i d hk hopen =>
    exact mirrored_capture (x := { value := driveOnto d (slotWord (s.laneAt n) k i), partMark := true }) hk hopen (hsort n)
      (.inl rfl) ha hs rfl rfl
  | clears n hopen =>
    exact mirrored_lanes (s := s) rfl rfl rfl rfl rfl
      (shadow_setLane (l := clearedLane (s.laneAt n)) fun e he => by cases he) hs
  | holds n r =>
    exact mirrored_lanes (s := s) rfl rfl rfl rfl rfl
      (shadow_setLane (l := { s.laneAt n with heldResult := r }) fun e he => ⟨he, .inl rfl⟩) hs
  | accepts n q e hopen hj =>
    exact mirrored_lanes (s := s) rfl rfl rfl rfl rfl
      (shadow_setLane (l := acceptedLane (s.laneAt n) q e) fun x hx => ⟨hx, .inr fun _ => unmarked_of_accepted hj hx⟩) hs
  | promotes n rest hc hr hq =>
    exact mirrored_lanes (s := s) rfl rfl rfl rfl rfl
      (shadow_setLane (l := { s.laneAt n with state := .applying }) fun x hx =>
        ⟨hx, .inr fun h => by rw [hq] at h; cases h⟩) hs
  | releases n =>
    exact mirrored_lanes (s := s) rfl rfl rfl rfl rfl
      (shadow_setLane (l := { s.laneAt n with state := .opened, shadow := [], accepted := none }) fun e he => by cases he) hs
  | _ => exact mirrored_lanes (s := s) rfl rfl rfl rfl rfl (fun n e he => ⟨he, .inl rfl⟩) hs

/-! ### The text cache -/

theorem lines_moveFront_subset {c : TextCache} {l : Nat} {e : CacheLine} (h : e ∈ (c.moveFront l).lines) : e ∈ c.lines := by
  unfold TextCache.moveFront at h
  split at h
  next x hx =>
    rcases List.mem_cons.1 h with rfl | h
    · exact (mem_of_entry hx).1
    · exact List.mem_of_mem_filter h
  next => exact h

theorem lines_touchList_subset {c : TextCache} {ls : List Nat} {e : CacheLine} (h : e ∈ (c.touchList ls).lines) :
    e ∈ c.lines := by
  induction ls with
  | nil => exact h
  | cons l ls ih => exact ih (lines_moveFront_subset h)

theorem take_subset {c c' : TextCache} {l : Nat} {d : List Byte} (h : c.take l = some (d, c')) :
    c'.lines ⊆ c.lines ∧ c'.fills ⊆ c.fills := by
  unfold TextCache.take at h
  split at h
  next => cases h; exact ⟨fun _ => lines_moveFront_subset, by rw [moveFront_fills]; exact List.Subset.refl _⟩
  next =>
    split at h
    next => cases h; exact ⟨List.Subset.refl _, fun _ hf => List.mem_of_mem_filter hf⟩
    next => cases h

theorem takeLines_subset (ls : List Nat) (c : TextCache) (got : Tab (List Byte)) :
    (takeLines ls c got).2.1.lines ⊆ c.lines ∧ (takeLines ls c got).2.1.fills ⊆ c.fills := by
  induction ls generalizing c got with
  | nil => exact ⟨List.Subset.refl _, List.Subset.refl _⟩
  | cons l ls ih =>
    unfold takeLines
    split
    next d c' h =>
      obtain ⟨a, b⟩ := take_subset h
      obtain ⟨a', b'⟩ := ih c' (Tab.set got l d)
      exact ⟨List.Subset.trans a' a, List.Subset.trans b' b⟩
    next => exact ⟨List.Subset.refl _, List.Subset.refl _⟩

theorem yieldPlace_subset (ls : List Nat) (c : TextCache) :
    (yieldPlace ls c).lines = c.lines ∧ (yieldPlace ls c).fills ⊆ c.fills := by
  rcases yieldPlace_cases ls c with h | ⟨m, d, -, h⟩ <;> rw [h]
  · exact ⟨rfl, List.Subset.refl _⟩
  · exact ⟨rfl, fun _ hf => List.mem_of_mem_filter hf⟩

theorem issueFills_subset (ls : List Nat) (c : TextCache) (q : List Nat) : (issueFills ls c q).1.lines = c.lines
    ∧ ∀ f ∈ (issueFills ls c q).1.fills, f ∈ c.fills ∨ ∃ l ∈ ls, f = newFill l := by
  induction ls generalizing c q with
  | nil => exact ⟨rfl, fun f hf => .inl hf⟩
  | cons l ls ih =>
    have later : ∀ {f : Fill} {Q : Prop}, (Q ∨ ∃ m ∈ ls, f = newFill m) → Q ∨ ∃ m ∈ l :: ls, f = newFill m :=
      fun h => h.imp_right fun ⟨m, hm, he⟩ => ⟨m, List.mem_cons_of_mem _ hm, he⟩
    unfold issueFills
    split
    next => exact ⟨(ih c q).1, fun f hf => later ((ih c q).2 f hf)⟩
    next =>
      split
      next =>
        obtain ⟨a, b⟩ := ih { c with fills := c.fills ++ [newFill l] } (q ++ [l])
        refine ⟨a, fun f hf => ?_⟩
        rcases b f hf with h | h
        · rcases List.mem_append.1 h with h | h
          · exact .inl h
          · exact .inr ⟨l, List.mem_cons_self, List.mem_singleton.1 h⟩
        · exact later (Q := f ∈ c.fills) (.inr h)
      next => exact ⟨rfl, fun f hf => .inl hf⟩

theorem holdsFill_new {l : Nat} (h : l < 1536) : s.holdsFill (newFill l) := ⟨h, by show 0 < 16; omega, .inr rfl⟩

/-- The cache and the composition change, with nothing cached or read but what was, and fills newly issued. -/
theorem mirrored_cache (h1 : t.mem = s.mem) (h2 : t.path.base = s.path.base) (h3 : t.lane = s.lane) (h4 : t.pins = s.pins)
    (hl : ∀ e ∈ t.cache.lines, s.holdsLine e) (hf : ∀ f ∈ t.cache.fills, s.holdsFill f)
    (hw : ∀ c, t.comp.composition = some c → ∀ l ∈ c.wanted, l < 1536) (ha : s.active = true) (hs : s.mirrored) :
    t.mirrored := by
  have hk := bytesKept_refl (s := s) h1 h2
  refine ⟨fun n e he => ?_, fun e he => ?_, fun f hfm => ?_, hw, fun hg hn => ?_⟩
  · rw [laneAt_congr h3] at he
    exact holdsEntry_kept hk (by rw [laneAt_congr h3]) (hs.lanes n e he)
  · have h := hl e he
    exact holdsLine_kept (fun i hi => hk.2 _ i h.1 hi) h
  · have h := hf f hfm
    exact holdsFill_kept (fun i hi => hk.2 _ i h.1 hi) h
  · rw [active_congr h4, ha] at hn; cases hn

/-- The next word of a pool line is read. -/
theorem wordRead_eq {l : Nat} (f : Fill) : s.wordRead l f = s.poolWordAt l f.data.length := by
  unfold State.wordRead State.poolWordAt State.poolByte State.regionAddress poolOffset readWord
  simp only [Nat.add_assoc]

theorem data_read {l : Nat} {f : Fill} (h : f.data = (List.range f.data.length).map fun i => s.poolWordAt l i) :
    f.data ++ [s.wordRead l f] = (List.range (f.data.length + 1)).map fun i => s.poolWordAt l i := by
  rw [List.range_succ, List.map_append, ← h, wordRead_eq]
  rfl

theorem fillBytes_words (l n : Nat) : fillBytes ((List.range n).map fun i => s.poolWordAt l i)
    = (List.range (2 * n)).map fun i => s.poolByte l i := by
  induction n with
  | zero => rfl
  | succ n ih =>
    rw [List.range_succ, List.map_append, show 2 * (n + 1) = 2 * n + 1 + 1 by omega, List.range_succ, List.range_succ,
      List.append_assoc, List.map_append, ← ih]
    unfold fillBytes
    rw [List.flatMap_append]
    simp [State.poolWordAt]

/-- A fill at the head of the queue that reads a word short of its last. -/
theorem holdsFill_read {l : Nat} {f x : Fill} (hc : FillsFit s.cache.fills s.path.fillQueue) (hfl : s.cache.fill l = some f)
    (hlt : f.data.length < 15) (hs : s.mirrored) (hx : x ∈ (s.cache.readWord l (s.wordRead l f)).fills) : s.holdsFill x := by
  obtain ⟨y, hy, rfl⟩ := List.mem_map.1 hx
  obtain ⟨h1, h2, h3⟩ := hs.fills y hy
  split
  next hyl =>
    have : y = f := Option.some.inj (((fill_eq_some hc.once).2 ⟨hy, hyl⟩).symm.trans hfl)
    subst this
    subst hyl
    refine ⟨h1, ?_, h3.imp_right fun h => ?_⟩
    · rw [if_neg FillState.noConfusion, List.length_append]
      show y.data.length + 1 < 16
      omega
    · have := data_read h
      dsimp only
      rw [List.length_append]
      exact this
  next => exact ⟨h1, h2, h3⟩

theorem mem_reissue {c : TextCache} {l : Nat} {x : Fill} (h : x ∈ (c.reissue l).fills) :
    x = newFill l ∨ x ∈ c.fills ∧ x.line ≠ l := by
  obtain ⟨y, hy, rfl⟩ := List.mem_map.1 h
  split
  next => exact .inl rfl
  next hne => exact .inr ⟨hy, hne⟩

theorem mem_readWord_ne {c : TextCache} {l : Nat} {w : Word} {x : Fill} (h : x ∈ (c.readWord l w).fills) (hne : x.line ≠ l) :
    x ∈ c.fills := by
  obtain ⟨y, hy, rfl⟩ := List.mem_map.1 h
  split at hne
  next he => exact absurd he hne
  next he => rw [if_neg he]; exact hy

/-- A fill whose sixteenth word is read arrives, and what it leaves is in memory (R72, R73, R76). -/
theorem mirrored_arrive {f : Fill} (hc : FillsFit s.cache.fills s.path.fillQueue) (hm : f ∈ s.cache.fills)
    (hq : f.line ∈ s.path.fillQueue) (hlt : ¬ f.data.length < 15) (ha : s.active = true) (hs : s.mirrored) :
    (State.arrive { s with cache := s.cache.readWord f.line (s.wordRead f.line f) }
      { f with data := f.data ++ [s.wordRead f.line f] }).mirrored := by
  obtain ⟨h1, h2, h3⟩ := hs.fills f hm
  rw [if_neg ((hc.waits f hm).1 hq)] at h2
  have hlen : f.data.length = 15 := by omega
  have keep : ∀ {x : Fill}, x ∈ (s.cache.readWord f.line (s.wordRead f.line f)).fills → x.line ≠ f.line → s.holdsFill x :=
    fun hx hne => hs.fills _ (mem_readWord_ne hx hne)
  unfold State.arrive
  dsimp only
  split
  next =>
    refine mirrored_cache (s := s) rfl rfl rfl rfl hs.lines (fun x hx => ?_) hs.wants ha hs
    rcases mem_reissue hx with rfl | ⟨hx, hne⟩
    · exact holdsFill_new h1
    · exact keep hx hne
  next hsp =>
    have hdata := h3.resolve_left hsp
    have hread := data_read hdata
    split
    next =>
      refine mirrored_cache (s := s) rfl rfl rfl rfl hs.lines (fun x hx => ?_) hs.wants ha hs
      obtain ⟨y, hy, rfl⟩ := List.mem_map.1 hx
      split
      next he =>
        obtain ⟨z, hz, rfl⟩ := List.mem_map.1 hy
        have hzl : z.line = f.line := by
          split at he
          · assumption
          · exact he
        have : z = f := Option.some.inj (((fill_eq_some hc.once).2 ⟨hz, hzl⟩).symm.trans ((fill_eq_some hc.once).2 ⟨hm, rfl⟩))
        subst this
        rw [if_pos rfl]
        refine ⟨h1, ?_, .inr ?_⟩
        · rw [if_pos rfl, List.length_append, hlen]; rfl
        · dsimp only
          rw [List.length_append]
          exact hread
      next he => exact keep hy he
    next =>
      refine mirrored_cache (s := s) rfl rfl rfl rfl (fun e he => ?_) (fun x hx => ?_) hs.wants ha hs
      · rcases List.mem_cons.1 he with rfl | he
        · refine ⟨h1, ?_⟩
          show fillBytes (f.data ++ [s.wordRead f.line f]) = _
          rw [hread, fillBytes_words, hlen]
        · exact hs.lines e (List.mem_of_mem_filter (List.mem_of_mem_take he))
      · obtain ⟨hx, hne⟩ := List.mem_filter.1 hx
        exact keep hx (by simpa using hne)

/-- A host write to a pool word: what is kept of the other lines is as it was, and what is kept of its line holds. -/
theorem mirrored_poolWrite {l w : Nat} {d : Drive} (hl : l < 1536) (hw : w < 16)
    (h1 : t.mem = writeDrive s.mem (s.regionAddress (poolOffset l + 2 * w)) d) (h2 : t.path.base = s.path.base)
    (h3 : t.lane = s.lane) (h4 : t.comp = s.comp) (h5 : t.pins = s.pins) (h6 : t.cache.lines = (s.cache.without l).lines)
    (h7 : ∀ f ∈ t.cache.fills, f ∈ s.cache.fills ∧ f.line ≠ l ∨ t.holdsFill f) (ha : s.active = true) (hs : s.mirrored) :
    t.mirrored := by
  have hr : ∀ o, t.regionAddress o = s.regionAddress o := fun o => by unfold State.regionAddress; rw [h2]
  have byte : ∀ {m : Nat}, m ≠ l → ∀ i, i < 32 → t.poolByte m i = s.poolByte m i := fun {m} hne i hi => by
    unfold State.poolByte
    rw [h1, hr]
    refine readByte_writeDrive_of_ne _ _ _ _ ?_ ?_ <;>
    · unfold State.regionAddress poolOffset
      omega
  refine ⟨fun n e he => ?_, fun e he => ?_, fun f hf => ?_, by rw [h4]; exact hs.wants, fun hg hn => ?_⟩
  · rw [laneAt_congr h3] at he
    obtain ⟨a, b⟩ := hs.lanes n e he
    have hn := n.isLt
    have hword : t.entryWord n e.1 = s.entryWord n e.1 := by
      unfold State.entryWord readWord
      rw [h1, hr, readByte_writeDrive_of_ne, readByte_writeDrive_of_ne] <;>
      · unfold State.regionAddress laneOffset poolOffset
        omega
    exact ⟨a, by rw [laneAt_congr h3, hword]; exact b⟩
  · rw [h6] at he
    obtain ⟨he, hne⟩ := List.mem_filter.1 he
    exact holdsLine_kept (byte (by simpa using hne)) (hs.lines e he)
  · rcases h7 f hf with ⟨hf, hne⟩ | h
    · exact holdsFill_kept (byte hne) (hs.fills f hf)
    · exact h
  · rw [active_congr h5, ha] at hn; cases hn

/-- The line of a pool word written leaves the cache; its fill is spoiled or issued again (R75, R76). -/
theorem mirrored_snoop {l w : Nat} {d : Drive} (hl : l < 1536) (hw : w < 16) (ha : s.active = true) (hs : s.mirrored) :
    (State.spoil { s.forwardAt (poolOffset l + 2 * w) d with
      cache := (s.forwardAt (poolOffset l + 2 * w) d).cache.without l } l).mirrored := by
  unfold State.spoil
  split
  next hnone =>
    refine mirrored_poolWrite (s := s) hl hw rfl rfl rfl rfl rfl rfl (fun f hf => .inl ⟨hf, fun he => ?_⟩) ha hs
    refine fill_eq_none.1 hnone ?_
    rw [← he]
    exact List.mem_map_of_mem (f := Fill.line) (a := f) hf
  next f hf =>
    split
    next =>
      refine mirrored_poolWrite (s := s) hl hw rfl rfl rfl rfl rfl rfl (fun x hx => ?_) ha hs
      rcases mem_reissue hx with rfl | hx
      · exact .inr (holdsFill_new hl)
      · exact .inl hx
    next =>
      refine mirrored_poolWrite (s := s) hl hw rfl rfl rfl rfl rfl rfl (fun x hx => ?_) ha hs
      obtain ⟨y, hy, rfl⟩ := List.mem_map.1 hx
      split
      next =>
        obtain ⟨a, b, -⟩ := hs.fills y hy
        exact .inr ⟨a, b, .inl rfl⟩
      next hne => exact .inl ⟨hy, hne⟩

theorem CacheAct.mirrored (h : CacheAct s t) (ha : s.active = true) (hc : s.cacheOk = true) (hs : s.mirrored) :
    t.mirrored := by
  obtain ⟨-, hfit⟩ := (State.cacheOk_iff s).1 hc
  cases h with
  | courses c hcomp =>
    obtain ⟨a, b⟩ := takeLines_subset c.wanted s.cache c.taken
    obtain ⟨a', b'⟩ := yieldPlace_subset (takeLines c.wanted s.cache c.taken).1 (takeLines c.wanted s.cache c.taken).2.1
    obtain ⟨a'', b''⟩ := issueFills_subset (takeLines c.wanted s.cache c.taken).1
      (yieldPlace (takeLines c.wanted s.cache c.taken).1 (takeLines c.wanted s.cache c.taken).2.1) s.path.fillQueue
    have hwant : ∀ l ∈ (takeLines c.wanted s.cache c.taken).1, l < 1536 := fun l hl =>
      hs.wants c hcomp l ((takeLines_suffix _ _ _).subset hl)
    refine mirrored_cache (s := s) rfl rfl rfl rfl (fun e he => ?_) (fun f hf => ?_) (fun k hk => ?_) ha hs
    · exact hs.lines e (a (a' ▸ a'' ▸ he))
    · rcases b'' f hf with h | ⟨l, hl, rfl⟩
      · exact hs.fills f (b (b' h))
      · exact holdsFill_new (hwant l hl)
    · cases hk; exact hwant
  | touches ls =>
    refine mirrored_cache (s := s) rfl rfl rfl rfl (fun e he => hs.lines e (lines_touchList_subset he)) (fun f hf => ?_)
      hs.wants ha hs
    exact hs.fills f (by rw [← touchList_fills s.cache ls]; exact hf)
  | empties => exact mirrored_cache (s := s) rfl rfl rfl rfl (fun e he => by cases he) hs.fills hs.wants ha hs
  | skips l q hq hn => exact mirrored_cache (s := s) rfl rfl rfl rfl hs.lines hs.fills hs.wants ha hs
  | reads l q f hq hfl hlt =>
    exact mirrored_cache (s := s) rfl rfl rfl rfl hs.lines (fun x hx => holdsFill_read hfit hfl hlt hs hx) hs.wants ha hs
  | arrives l q f hq hfl hlt =>
    obtain ⟨hm, rfl⟩ := mem_of_fill hfl
    exact mirrored_arrive hfit hm (by rw [hq]; exact List.mem_cons_self) hlt ha hs
  | snoops l w d hl hw => exact mirrored_snoop hl hw ha hs

/-! ### The other acts -/

theorem SetupAct.base (h : SetupAct s t) : t.path.base = s.path.base := by
  cases h with
  | fillNext k it rest hw hp hk hs =>
    obtain ⟨b, q, st, he⟩ := fillEntered_eq s it rest
    rw [he]; rfl
  | fillLast k it rest hw hp hk hs =>
    obtain ⟨b, q, st, he⟩ := fillEntered_eq s it rest
    rw [he]
  | minute c d h => rw [startOver_frame]
  | applies c h => rw [applied_frame]; rfl
  | _ => rfl

theorem applied_composition (s : State) (w : Work) : (s.applied w).comp.composition = s.comp.composition := by
  have fold : ∀ (l : List Nat) (u : State),
      (l.foldl (fun t i => t.changeSlot w.signs w.dropped i) u).comp.composition = u.comp.composition := fun l => by
    induction l with
    | nil => exact fun _ => rfl
    | cons i l ih => exact fun u => (ih _).trans (changeSlot_composition _ _ _ _)
  rw [applied_eq]
  obtain ⟨d, hd⟩ := markedApplied_eq ((s.storeApplied w).changeSigns w) s w
  rw [hd]
  exact fold w.named (s.storeApplied w)

theorem SetupAct.composition (h : SetupAct s t) : t.comp.composition = s.comp.composition := by
  cases h with
  | fillNext k it rest hw hp hk hs =>
    obtain ⟨b, q, st, he⟩ := fillEntered_eq s it rest
    rw [he]; rfl
  | fillLast k it rest hw hp hk hs =>
    obtain ⟨b, q, st, he⟩ := fillEntered_eq s it rest
    rw [he]
  | minute c d h => rw [startOver_frame]
  | applies c h => exact applied_composition s c.work
  | _ => rfl

theorem SetupAct.mirrored (h : SetupAct s t) (hs : s.mirrored) : t.mirrored := by
  have hk := bytesKept_refl (s := s) h.mem h.base
  have hlane : ∀ n, t.laneAt n = s.laneAt n := fun n => by unfold State.laneAt; rw [h.lanes.1]
  refine ⟨fun n e he => ?_, fun e he => ?_, fun f hf => ?_, by rw [h.composition]; exact hs.wants, fun hg ha => ?_⟩
  · rw [hlane] at he
    exact holdsEntry_kept hk (by rw [hlane]) (hs.lanes n e he)
  · rw [h.cache] at he
    have hh := hs.lines e he
    exact holdsLine_kept (fun i hi => hk.2 _ i hh.1 hi) hh
  · rw [h.cache] at hf
    have hh := hs.fills f hf
    exact holdsFill_kept (fun i hi => hk.2 _ i hh.1 hi) hh
  · exact copyless_congr (fun n => by rw [hlane]) h.cache (hs.held (h.pins ▸ hg) (by rw [← active_congr h.pins]; exact ha))

theorem SignAct.mirrored (h : SignAct s t) (ho : s.storeOk = true) (hs : s.mirrored) : t.mirrored := by
  have hk := bytesKept_refl (s := s) h.mem (by rw [h.path])
  have wants : ∀ c, t.comp.composition = some c → ∀ l ∈ c.wanted, l < 1536 := by
    cases h with
    | ends k hcomp => intro c hc; rw [endComposition_comp] at hc; cases hc
    | orphans k hcomp => intro c hc; cases hc; exact hs.wants k hcomp
    | begins i g n hg hn =>
      intro c hc
      cases hc
      exact fun l => textLinesOf_lt (composeFace_inPool (selection_inPool ho) g.defn)
    | _ => exact hs.wants
  refine ⟨fun n e he => ?_, fun e he => ?_, fun f hf => ?_, wants, fun hg ha => ?_⟩
  · rw [laneAt_congr h.lane] at he
    exact holdsEntry_kept hk (by rw [laneAt_congr h.lane]) (hs.lanes n e he)
  · rw [h.cache] at he
    have hh := hs.lines e he
    exact holdsLine_kept (fun i hi => hk.2 _ i hh.1 hi) hh
  · rw [h.cache] at hf
    have hh := hs.fills f hf
    exact holdsFill_kept (fun i hi => hk.2 _ i hh.1 hi) hh
  · exact copyless_congr (fun n => by rw [laneAt_congr h.lane]) h.cache
      (hs.held (h.pins ▸ hg) (by rw [← active_congr h.pins]; exact ha))

theorem Hands.mirrored (h : Hands P s t) (hs : s.mirrored) : t.mirrored :=
  mirrored_kept (bytesKept_refl h.mem h.base) h.lane h.cache (by rw [h.comp])
    (fun hg ha => ⟨h.pins ▸ hg, by rw [← active_congr h.pins]; exact ha⟩) hs

theorem Act.mirrored (h : Act True s t) (ho : s.storeOk = true) (hord : s.orderOk = true) (hc : s.cacheOk = true)
    (hp : s.postsOk = true) (hs : s.mirrored) : t.mirrored := by
  cases h with
  | path h => exact h.mirrored hp hs
  | sign h => exact h.mirrored ho hs
  | cache h ha => exact h.mirrored (ha trivial) hc hs
  | lane h ha => exact h.mirrored (ha trivial) hord hs
  | setup h => exact h.mirrored hs
  | start h => exact h.mirrored hs
  | hands h => exact h.mirrored hs

end Sys2Proof.Machine
end

section
/-! While the part is held a command does nothing but let a host access cross, or start the part (R164, R192). -/

namespace Sys2Proof.Machine

variable {s t u : State}

/-- What can become of a part that is held: an act of its path, or a start. -/
def HeldAct (s t : State) : Prop := PathAct s t ∨ StartAct s t

abbrev HeldActs : State → State → Prop := Relation.ReflTransGen HeldAct

/-- A command answers a next state, which such acts reach. -/
def State.holds (s : State) (o : Host.Outcome State Fault Refusal) : Prop := ∃ t, o = .next t ∧ HeldActs s t

theorem holds_next (h : HeldActs s t) : s.holds (.next t) := ⟨t, rfl, h⟩
theorem holds_same : s.holds (.next s) := holds_next .refl
theorem holds_start (h : StartAct s t) : s.holds (.next t) := holds_next (.single (.inr h))

theorem holds_ite {c : Prop} [Decidable c] (h : ¬ c) : s.holds (.next (if c then t else s)) := by
  rw [if_neg h]; exact holds_same

section Held

variable (ha : s.active = false)
include ha

theorem holds_active {c : Prop} [Decidable c] (h : c → s.active = true) : s.holds (.next (if c then t else s)) :=
  holds_ite fun hc => by rw [h hc] at ha; cases ha

theorem holds_working {f : State → State} : s.holds (.next (s.working f)) := holds_active ha id

theorem holds_ownChoice (w : OwnAccess) : s.holds (.next (if s.ownChoice = some w then t else s)) :=
  holds_ite fun h => by
    unfold State.ownChoice State.ownReady at h
    rw [ha] at h
    split at h <;> cases h

theorem holds_access {passed served : State → State} (h : s.pins.pgood = true → PathAct s (passed s)) :
    s.holds (.next (s.hostAccess passed served)) := by
  unfold State.hostAccess
  split
  · exact holds_same
  next hg =>
    rw [if_pos (by rw [ha]; rfl)]
    exact holds_next (.single (.inl (h (by simpa using hg))))

theorem holds_write {served : State → State} (a : Nat) (d : Drive) : s.holds (.next (s.hostWriteWith a d served)) :=
  holds_access ha fun hg => .passes a d hg ha

theorem holds_resetAssert (b : Bool) : s.holds (execResetAssert b s) := by
  unfold execResetAssert
  dsimp only
  have hc : (b && decide (s.ownChoice = some .postWrite)) = false := by
    unfold State.ownChoice State.ownReady
    rw [ha]
    simp
  rw [hc]
  exact holds_start (.blocks _)

theorem holds_powerOnEnd (straps : Fin 16) (m : Bool) : s.holds (execPowerOnEnd straps m s) := by
  unfold execPowerOnEnd
  split
  next h =>
    simp only [State.poweringOn, Bool.and_eq_true, Bool.not_eq_true'] at h
    dsimp only
    split
    next hr => exact holds_start (.straps _ straps h.1 ha h.1 (.inr hr))
    next => exact holds_start (.starts { s.pins with powerOnEnded := true } straps m)
  next => exact holds_same

theorem holds_resetRelease (straps : Fin 16) (m : Bool) : s.holds (execResetRelease straps m s) := by
  unfold execResetRelease
  split
  next h =>
    simp only [Bool.and_eq_true] at h
    dsimp only
    split
    next => exact holds_start (.starts { s.pins with resetLow := false } straps m)
    next hp => exact holds_start (.straps _ straps h.1 ha h.1 (.inl (by simpa using hp)))
  next h =>
    refine holds_start (.pins _ ?_)
    cases hg : s.pins.pgood with
    | false => exact .inl rfl
    | true =>
      refine .inr ⟨rfl, rfl, ?_⟩
      simp only [hg, Bool.true_and] at h
      simp [h]

/-- Every command a held part takes (R164, R192). -/
theorem exec_holds (c : Instr) : s.holds (exec c s) := by
  cases c with
  | powerOn => exact holds_start (.blocks { s.pins with pgood := true, powerOnEnded := false })
  | powerOnEnd straps m => exact holds_powerOnEnd ha straps m
  | resetAssert b => exact holds_resetAssert ha b
  | resetRelease straps m => exact holds_resetRelease ha straps m
  | pgoodFall => exact holds_start (.pins _ (.inl rfl))
  | setupRead => exact holds_ownChoice ha _
  | fillRead => exact holds_ownChoice ha _
  | postWrite => exact holds_ownChoice ha _
  | restart => exact holds_write ha _ _
  | entryWordWrite n k v => exact holds_write ha _ _
  | entryByteWrite n k h v => exact holds_write ha _ _
  | postWord n q e => exact holds_write ha _ _
  | discard n q e => exact holds_write ha _ _
  | snoop l w d => exact holds_write ha _ _
  | ackMerge d => exact holds_write ha _ _
  | readCountWrite d => exact holds_write ha _ _
  | guardedWrite w d => exact holds_write ha _ _
  | segSet n => exact holds_write ha _ _
  | segClear n => exact holds_write ha _ _
  | clockRun on => exact holds_write ha _ _
  | minuteSrc on => exact holds_write ha _ _
  | quiet on => exact holds_write ha _ _
  | cacheOff on => exact holds_write ha _ _
  | enable v => exact holds_write ha _ _
  | matrix v => exact holds_write ha _ _
  | style st v => exact holds_write ha _ _
  | kind k v => exact holds_write ha _ _
  | setupWordWrite w v => exact holds_write ha _ _
  | hostWrite a d => exact holds_write ha _ _
  | hostRead a b c => exact holds_access ha fun _ => .turns _ ⟨rfl, rfl, rfl, id⟩
  | batchDecode => exact holds_working ha
  | putSession | dropSession | cancelSession | moveSession | shiftSession | putRoom | roomState | setClock | putSign
    | dropSign => exact holds_working ha
  | checkEnd => exact holds_working ha
  | apply => exact holds_working ha
  | laneResult => exact holds_working ha
  | recordEnqueue => exact holds_working ha
  | flagRaise => exact holds_working ha
  | minuteEdge => exact holds_active ha fun h => by simp_all
  | minuteFall => exact holds_active ha id
  | timebaseExpiry => exact holds_active ha id
  | minuteSignal => exact holds_active ha fun h => by simp_all
  | refill => exact holds_active ha fun h => by simp_all
  | dirtyComposition => exact holds_active ha fun h => by simp_all
  | engineChoose n => exact holds_active ha fun h => by simp_all
  | sweepTimerExpiry n => exact holds_active ha fun h => by simp_all
  | loneBreakEnd n => exact holds_active ha fun h => by simp_all
  | frameSent n => exact holds_active ha fun h => by simp_all
  | reply n r => exact holds_active ha id
  | answerTimeout n => exact holds_active ha id
  | replyGap n => exact holds_active ha id
  | quietTimeEnd n => exact holds_active ha fun h => by simp_all
  | insistStall => exact holds_active ha fun h => by simp_all
  | sendTimeComposition =>
    unfold exec execSendTimeComposition
    dsimp only
    split
    · exact holds_active ha fun h => by simp_all
    · exact holds_same
  | slotsEnd n marks =>
    unfold exec execSlotsEnd
    dsimp only
    split
    · exact holds_active ha fun h => by simp_all
    · exact holds_same
  | callPress n =>
    unfold exec execCallPress
    dsimp only
    split
    · exact holds_active ha fun h => by simp_all
    · exact holds_same
  | refreshTimerExpiry i =>
    unfold exec execRefreshTimerExpiry
    dsimp only
    split
    · exact holds_active ha fun h => by simp_all
    · exact holds_same

end Held

/-! ## The copies are kept -/

/-- Settles O12: of an active part by every act, with the store, the signs, the order of the tables and the cache in form; of
one that is held by what its path and its starts do. -/
theorem stepKeepsMemoryMirrors : Obligations.StepKeepsMemoryMirrors := by
  unfold Obligations.StepKeepsMemoryMirrors
  intro s t hstore hsigns hcache horder hring hposts hmirrors h
  rw [State.mirrorsOk_iff] at hmirrors ⊢
  unfold step at h
  split at h
  · cases h; exact ⟨hposts, hmirrors⟩
  rename_i c rest hp
  cases ha : s.active with
  | false =>
    obtain ⟨u, hu, hacts⟩ := exec_holds (s := s.withPending rest) ha c
    rw [hu] at h
    cases h
    have keep : ∀ {a b}, HeldActs a b → a.postsOk = true ∧ a.mirrored → b.postsOk = true ∧ b.mirrored := fun hab h0 => by
      induction hab with
      | refl => exact h0
      | tail _ hbc ih =>
        rcases hbc with hbc | hbc
        · exact ⟨hbc.postsOk ih.1, hbc.mirrored ih.1 ih.2⟩
        · exact ⟨hbc.postsOk ih.1, hbc.mirrored ih.2⟩
    exact keep hacts ⟨hposts, ⟨hmirrors.1, hmirrors.2, hmirrors.3, hmirrors.4, hmirrors.5⟩⟩
  | true =>
    have known : (s.withPending rest).known := ⟨hstore, hsigns, hring, ha⟩
    obtain ⟨u, v, hv, hacts, hend⟩ := exec_runs (P := True) (s := s.withPending rest) c fun _ => known
    rw [hv] at h
    cases h
    obtain ⟨-, -, -, hu1, hu2⟩ := hacts.keeps (Q := fun a => a.storeOk = true ∧ a.orderOk = true ∧ a.cacheOk = true
        ∧ a.postsOk = true ∧ a.mirrored)
      (fun a b h ⟨h1, h2, h3, h4, h5⟩ =>
        ⟨h.storeOk h1, h.orderOk h2, h.cacheOk h3, h.postsOk trivial h4, h.mirrored h1 h2 h3 h4 h5⟩)
      ⟨hstore, horder, hcache, hposts, ⟨hmirrors.1, hmirrors.2, hmirrors.3, hmirrors.4, hmirrors.5⟩⟩
    rcases hend with rfl | hstart
    · exact ⟨hu1, hu2⟩
    · exact ⟨hstart.postsOk hu1, hstart.mirrored hu2⟩

end Sys2Proof.Machine
end

section
/-! Power, the reset pin and the host accesses of a held part (R163, R164, R176, R190, R192). -/

namespace Sys2Proof.Machine

variable {s t : State}

/-- Settles O1. -/
theorem stepRunsFrontCommand : Obligations.StepRunsFrontCommand := by
  unfold Obligations.StepRunsFrontCommand
  intro c rest s h
  unfold step
  rw [h]
  rfl

/-- Settles O4: part by part, on the one state reset gives. -/
theorem resetMeetsTheInvariants : Obligations.ResetMeetsTheInvariants :=
  ⟨Memory.wf_reset, rfl, rfl, rfl, rfl, rfl, rfl, rfl, Nat.zero_le _, rfl,
    strictOk_empty rfl rfl fun n => by simp [State.laneAt, State.reset, Lane.empty], rfl, rfl, by decide, by decide⟩

/-! ## The starting state -/

theorem port_all_stopped (n : Fin 4) : (Quad.all Port.stopped).get n = Port.stopped := Quad.get_all _ _

/-- A reset of the blocks leaves each in its starting state. -/
theorem blocksAtStart_blocksReset (s : State) : s.blocksReset.blocksAtStart :=
  ⟨rfl, rfl, rfl, rfl, rfl, rfl, rfl, rfl, rfl, rfl, rfl, rfl, rfl, rfl, rfl, rfl, rfl, rfl,
    fun n => by simp [State.port, State.blocksReset, Port.stopped], rfl⟩

theorem blocksReset_cut (s : State) (n : Fin 4) : (s.blocksReset.port n).cut = [] := by
  simp [State.port, State.blocksReset, Port.stopped]

/-- What the blocks are at says nothing of the pins. -/
theorem blocksAtStart_pins (p : Pins) (h : s.blocksAtStart) : State.blocksAtStart { s with pins := p } := h

theorem attn_of_no_flags (h : t.post.flags = 0) : t.attn = false := by simp [State.attn, h]

/-- A start puts every block at its start, with the defaults, and makes the part active once both pins let it go. -/
theorem startedFrom_start {straps : Fin 16} {minute : Bool} (h1 : s.pins.pgood = true) (h2 : s.pins.powerOnEnded = true)
    (h3 : s.pins.resetLow = false) : State.startedFrom s (s.start straps minute) straps minute :=
  ⟨by simp [State.active, State.start, State.blocksReset, h1, h2, h3],
    ⟨rfl, rfl, rfl, rfl, rfl, rfl, rfl, rfl, rfl, rfl, rfl, rfl, rfl, rfl, rfl, rfl, rfl, rfl,
      fun n => by simp [State.port, State.start, State.blocksReset, Port.stopped], rfl⟩,
    rfl, rfl, rfl, rfl, rfl, rfl, attn_of_no_flags rfl,
    fun n => by simp [State.port, State.start, State.blocksReset, Port.stopped]⟩

/-! ## A post write cut short -/

theorem readByte_ite_writeByte (c : Prop) [Decidable c] (m : List Host.Cell) (a b : Nat) (v : Byte) :
    readByte (if c then writeByte m a v else m) b = if c ∧ b = a then v else readByte m b := by
  by_cases hc : c <;> simp [hc, readByte_writeByte]

/-- Each byte of the word of a post write cut short is old or new (log entry 2). -/
theorem readByte_cutPostWrite {e : PostEntry} {q : List PostEntry} (h : s.path.postQueue = e :: q) (b : Nat) :
    readByte s.cutPostWrite.mem b =
      if Config.cutHigh s.freeIndex = true ∧ b = s.regionAddress e.offset + 1 then hiByte e.value
      else if Config.cutLow s.freeIndex = true ∧ b = s.regionAddress e.offset then loByte e.value
      else readByte s.mem b := by
  unfold State.cutPostWrite
  rw [h]
  simp only [State.useFree, readByte_ite_writeByte]

/-- What the taken reset pin leaves of memory: all of it, but for the word of a post write it cuts short. -/
def State.resetTaken (s : State) (own : Bool) : State := if own && s.ownChoice = some .postWrite then s.cutPostWrite else s

theorem cutPostWrite_frame (s : State) :
    s.cutPostWrite = { s with mem := s.cutPostWrite.mem, freeIndex := s.cutPostWrite.freeIndex } := by
  unfold State.cutPostWrite; split <;> rfl

theorem resetTaken_frame (s : State) (own : Bool) :
    s.resetTaken own = { s with mem := (s.resetTaken own).mem, freeIndex := (s.resetTaken own).freeIndex } := by
  unfold State.resetTaken; split
  · exact cutPostWrite_frame s
  · rfl

theorem readByte_resetTaken {e : PostEntry} {q : List PostEntry} (h : s.path.postQueue = e :: q) (own : Bool) (b : Nat) :
    readByte (s.resetTaken own).mem b = readByte s.mem b
      ∨ (b = s.regionAddress e.offset + 1 ∧ readByte (s.resetTaken own).mem b = hiByte e.value)
      ∨ (b = s.regionAddress e.offset ∧ readByte (s.resetTaken own).mem b = loByte e.value) := by
  unfold State.resetTaken
  split
  · rw [readByte_cutPostWrite h]
    split
    · next hc => exact .inr (.inl ⟨hc.2, rfl⟩)
    · split
      · next hc => exact .inr (.inr ⟨hc.2, rfl⟩)
      · exact .inl rfl
  · exact .inl rfl

theorem exec_resetAssert (own : Bool) (s : State) : exec (.resetAssert own) s = .next
    { (s.resetTaken own).blocksReset with pins := { s.pins with resetLow := true } } := by
  show execResetAssert own s = _
  unfold execResetAssert
  have hp : (s.resetTaken own).pins = s.pins := by rw [resetTaken_frame]
  rw [← hp]
  rfl

/-- Settles O13. -/
theorem powerAndResetHoldEveryBlock : Obligations.PowerAndResetHoldEveryBlock := by
  unfold Obligations.PowerAndResetHoldEveryBlock
  intro s
  refine ⟨⟨_, rfl, rfl, blocksAtStart_pins _ (blocksAtStart_blocksReset s), rfl, attn_of_no_flags rfl, ?_, rfl, rfl,
    blocksReset_cut s⟩, ⟨_, rfl, rfl, ?_⟩, fun own => ⟨_, exec_resetAssert own s, rfl,
      blocksAtStart_pins _ (blocksAtStart_blocksReset (s.resetTaken own)), rfl, attn_of_no_flags rfl, ?_, ?_,
      blocksReset_cut (s.resetTaken own), ?_, ?_⟩⟩
  · simp [State.active, State.blocksReset]
  · simp [State.attn, State.active]
  · show (s.resetTaken own).path.base = _
    rw [resetTaken_frame]
  · show (s.resetTaken own).setup.matrix = _
    rw [resetTaken_frame]
  · intro h
    show (s.resetTaken own).mem = _
    rw [State.resetTaken, if_neg]
    rcases h with h | h <;> simp [h]
  · intro e q hq
    have h := readByte_resetTaken hq own
    refine ⟨fun a h0 h1 => ?_, ?_, ?_⟩
    · rcases h a with h | ⟨h, -⟩ | ⟨h, -⟩
      · exact h
      · exact absurd h h1
      · exact absurd h h0
    · rcases h (s.regionAddress e.offset) with h | ⟨h, -⟩ | ⟨-, h⟩
      · exact .inl h
      · omega
      · exact .inr h
    · rcases h (s.regionAddress e.offset + 1) with h | ⟨-, h⟩ | ⟨h, -⟩
      · exact .inl h
      · exact .inr h
      · omega

/-- Settles O14. -/
theorem startTakesDefaults : Obligations.StartTakesDefaults := by
  unfold Obligations.StartTakesDefaults
  intro straps minute s hg
  refine ⟨fun h1 h2 => ⟨_, ?_, startedFrom_start (s := { s with
      pins := { s.pins with powerOnEnded := true }, path := { s.path with base := straps } }) hg rfl h2⟩,
    fun h1 h2 => ⟨_, ?_, startedFrom_start (s := { s with
      pins := { s.pins with resetLow := false }, path := { s.path with base := straps } }) hg h1 rfl⟩, fun h1 h2 => ⟨?_, ?_⟩⟩
  · show execPowerOnEnd straps minute s = _
    simp [execPowerOnEnd, State.poweringOn, hg, h1, h2]
  · show execResetRelease straps minute s = _
    simp [execResetRelease, hg, h1, h2]
  · show execPowerOnEnd straps minute s = _
    simp [execPowerOnEnd, State.poweringOn, hg, h1, h2]
  · show execResetRelease straps minute s = _
    simp [execResetRelease, hg, h1, h2]

/-! ## Host accesses of a held part -/

theorem hostAccess_held (hg : s.pins.pgood = true) (ha : s.active = false) (p f : State → State) : s.hostAccess p f = p s := by
  simp [State.hostAccess, hg, ha]

theorem hostWrite_held (hg : s.pins.pgood = true) (ha : s.active = false) (a : Nat) (d : Drive) (f : State → State) :
    s.hostWriteWith a d f = { s with mem := writeDrive s.mem a d } := hostAccess_held hg ha _ f

/-- An answer that is a host write of `d` to `a`, whatever its owner makes of it. -/
def State.writes (s : State) (o : Host.Outcome State Fault Refusal) (a : Nat) (d : Drive) : Prop :=
  ∃ f, o = .next (s.hostWriteWith a d f)

theorem writes_at {f : State → State} {o p : Nat} {d e : Drive} (ho : o = p) (hd : d = e) :
    s.writes (.next (s.hostWriteWith (s.regionAddress o) d f)) (s.regionAddress p) e := by subst ho hd; exact ⟨f, rfl⟩

/-- The word that sets or clears one flag, as the statements write it. -/
theorem setClearWord_eq (k : Nat) (on : Bool) : setClearWord k on = wordOf ((if on then 0x8000 else 0) + 2 ^ k) := by
  cases on <;> simp [setClearWord, place, bitOf]

theorem writes_setup {o p : Nat} {v w : Word} (ho : o = p) (hv : v = w) :
    s.writes (.next (s.setupAccess o v)) (s.regionAddress p) (.both w) := writes_at ho (by rw [hv])

theorem writes_lane {n : Fin 4} {k o : Nat} {d e : Drive} (ho : laneOffset n k = o) (hd : d = e) :
    s.writes (.next (s.laneAccess n k d)) (s.regionAddress o) e := writes_at ho hd

theorem laneOffset_post (n : Fin 4) : laneOffset n 127 = 0x1FE + n.val * 0x100 := by unfold laneOffset; omega

/-- A host write command is a write of its data to its address, with what its owner makes of it. -/
theorem exec_busWrite {c : Instr} {a : Nat} {d : Drive} (h : s.busWrite c = some (a, d)) : s.writes (exec c s) a d := by
  cases c
  case entryWordWrite => cases h; exact writes_lane rfl rfl
  case entryByteWrite => cases h; exact writes_lane rfl rfl
  case postWord n q e => cases h; exact writes_lane (laneOffset_post n) rfl
  case discard n q e => cases h; exact writes_lane (laneOffset_post n) rfl
  case snoop l w d => cases h; exact writes_at (o := poolWord l w) rfl rfl
  case ackMerge => cases h; exact writes_at (o := flagsOffset) rfl rfl
  case readCountWrite => cases h; exact writes_at (o := readCountOffset) rfl rfl
  case guardedWrite w d => cases h; exact writes_at (o := postedWord w) rfl rfl
  case segSet n => cases h; exact writes_setup (o := controlOffset) rfl (setClearWord_eq _ _)
  case segClear n => cases h; exact writes_setup (o := controlOffset) rfl ((setClearWord_eq _ _).trans (by simp))
  case clockRun on => cases h; exact writes_setup (o := controlOffset) rfl (setClearWord_eq _ _)
  case minuteSrc on => cases h; exact writes_setup (o := controlOffset) rfl (setClearWord_eq _ _)
  case quiet on => cases h; exact writes_setup (o := controlOffset) rfl (setClearWord_eq _ _)
  case cacheOff on => cases h; exact writes_setup (o := controlOffset) rfl (setClearWord_eq _ _)
  case enable => cases h; exact writes_setup (o := enableOffset) rfl rfl
  case restart => cases h; exact writes_at (o := restartOffset) rfl rfl
  case matrix => cases h; exact writes_setup (o := matrixOffset) rfl rfl
  case style => cases h; exact writes_setup rfl rfl
  case kind => cases h; exact writes_setup rfl rfl
  case setupWordWrite => cases h; exact writes_setup rfl rfl
  case hostWrite a d => cases h; exact ⟨_, rfl⟩
  all_goals cases h

/-- A part that is held reads memory, whatever its post queue holds. -/
theorem readValue_held (ha : s.active = false) (a : Nat) : s.readValue a = readWord s.mem a := by
  simp [State.readValue, ha]

/-- Settles O17. -/
theorem heldPartForwardsUnclassified : Obligations.HeldPartForwardsUnclassified := by
  unfold Obligations.HeldPartForwardsUnclassified
  intro s hg ha
  refine ⟨fun c hc => ?_, fun c a d h => ?_, fun a upper lower => ?_⟩
  · cases c <;> first | exact .inl rfl | exact .inr ⟨_, _, _, rfl⟩ | exact absurd hc Bool.false_ne_true
  · obtain ⟨f, hf⟩ := exec_busWrite h
    rw [hf, hostWrite_held hg ha]
  · show Host.Outcome.next (s.hostAccess _ _) = _
    rw [hostAccess_held hg ha]
    simp [State.returnData, readValue_held ha, readWord, byteAddress]

end Sys2Proof.Machine
end

section
/-! Setup words: what each takes of the word written to it (R180, R187), and the reload that reads them back (R191). -/

namespace Sys2Proof.Machine

variable {s t : State}

/-! ## Marks -/

theorem Tab.has_iff_mem {α : Type} {t : Tab α} {i : Nat} : Tab.has t i = true ↔ ∃ v, (i, v) ∈ t := by
  rw [Tab.has_iff]
  induction t with
  | nil => simp
  | cons e l ih =>
    obtain ⟨k, w⟩ := e
    simp only [Tab.get, List.mem_cons, Prod.mk.injEq]
    by_cases h : k = i
    · simp [h]
    · simp [ih, Ne.symm h]

theorem mem_markDirty {i j : Nat} : j ∈ (s.markDirty i).comp.dirty ↔ j ∈ s.comp.dirty ∨ (j = i ∧ Tab.has s.signs i = true) := by
  unfold State.markDirty
  split
  · next h => simp [mem_insertIndex, h, or_comm]
  · next h => simp [h]

theorem signs_setDirty (s : State) (d : List Nat) : (s.setDirty d).signs = s.signs := rfl

theorem mem_foldl_markDirty {j : Nat} (l : Tab Sign) (s : State) : j ∈ (l.foldl (fun t e => t.markDirty e.1) s).comp.dirty
    ↔ j ∈ s.comp.dirty ∨ ∃ g, (j, g) ∈ l ∧ Tab.has s.signs j = true := by
  induction l generalizing s with
  | nil => simp
  | cons e l ih =>
    obtain ⟨d, hd⟩ := markDirty_eq s e.1
    have hs : (s.markDirty e.1).signs = s.signs := by rw [hd]; rfl
    rw [List.foldl_cons, ih, mem_markDirty, hs]
    simp only [List.mem_cons]
    constructor
    · rintro ((h | ⟨rfl, h⟩) | ⟨g, hg, h⟩)
      · exact .inl h
      · exact .inr ⟨e.2, .inl rfl, h⟩
      · exact .inr ⟨g, .inr hg, h⟩
    · rintro (h | ⟨g, rfl | hg, h⟩)
      · exact .inl (.inl h)
      · exact .inl (.inr ⟨rfl, h⟩)
      · exact .inr ⟨g, hg, h⟩

/-- The signs that meet the condition join the dirty set, and no other (R95). -/
theorem mem_markWhere {p : Nat × Sign → Bool} {j : Nat} : j ∈ (s.markWhere p).comp.dirty
    ↔ j ∈ s.comp.dirty ∨ ∃ g, (j, g) ∈ s.signs ∧ p (j, g) = true := by
  unfold State.markWhere
  rw [mem_foldl_markDirty]
  simp only [List.mem_filter]
  refine or_congr_right (exists_congr fun g => ⟨fun h => h.1, fun h => ⟨h, Tab.has_iff_mem.2 ⟨g, h.1⟩⟩⟩)

theorem mem_markAll {j : Nat} : j ∈ s.markAll.comp.dirty ↔ j ∈ s.comp.dirty ∨ (s.sign j).isSome = true := by
  unfold State.markAll
  rw [mem_markWhere]
  simp only [and_true]
  rw [← Tab.has_iff_mem]
  rfl

theorem markWhere_dirty (s : State) (p : Nat × Sign → Bool) :
    s.markWhere p = { s with comp := { s.comp with dirty := (s.markWhere p).comp.dirty } } := by
  obtain ⟨d, hd⟩ := markWhere_eq s p
  rw [hd]; rfl

/-! ## Words taken -/

theorem postsOnly_takeEnable (s : State) (v : Word) :
    State.postsOnly { s with setup := { s.setup with enable := setClear s.setup.enable v } } (s.takeEnable v) := by
  unfold State.takeEnable
  dsimp only
  split
  · next h => rw [h]; exact .refl s
  · exact postsOnly_hand _ rfl

theorem postsOnly_takeMatrix (s : State) (v : Word) :
    State.postsOnly { s with setup := { s.setup with pendingMatrix := matrixOf v ≠ s.setup.matrix } } (s.takeMatrix v) :=
  postsOnly_syncEcho _ s 0

/-- The state with a style taken, before its echo. -/
def State.styled (s : State) (st : RoomState) (v : Word) : State :=
  let t := { s with setup := { s.setup with styles := s.setup.styles.set st (styleOf v) } }
  if styleOf v ≠ s.setup.styles.get st then t.markAll else t

theorem styled_eq (s : State) (st : RoomState) (v : Word) : s.styled st v = { s with
    setup := { s.setup with styles := s.setup.styles.set st (styleOf v) }
    comp := { s.comp with dirty := (s.styled st v).comp.dirty } } := by
  unfold State.styled
  dsimp only
  split
  · exact markWhere_dirty { s with setup := { s.setup with styles := s.setup.styles.set st (styleOf v) } } _
  · rfl

theorem mem_styled {st : RoomState} {v : Word} {i : Nat} : i ∈ (s.styled st v).comp.dirty
    ↔ i ∈ s.comp.dirty ∨ (s.setup.styles.get st ≠ styleOf v ∧ (s.sign i).isSome = true) := by
  unfold State.styled
  dsimp only
  split
  · next h => rw [mem_markAll]; simp [Ne.symm h, State.sign]
  · next h => simp only [ne_eq, Decidable.not_not] at h; simp [h]

theorem postsOnly_takeStyle (s : State) (st : RoomState) (v : Word) : State.postsOnly (s.styled st v) (s.takeStyle st v) :=
  postsOnly_syncEcho _ s 0

/-- The state with a kind's values taken, before its records. -/
def State.kinded (s : State) (k : SignKind) (v : Word) : State := { s with
  setup := { s.setup with kinds := s.setup.kinds.set k (kindOf v) }
  signs := capCredits k (kindOf v).cap s.signs }

theorem postsOnly_takeKind (s : State) (k : SignKind) (v : Word) : State.postsOnly (s.kinded k v) (s.takeKind k v) :=
  (postsOnly_syncHealth (s.kinded k v) s (p := .credit) rfl [] []).trans (postsOnly_syncEcho _ s 0)

theorem sign_kinded (s : State) (k : SignKind) (v : Word) (i : Nat) : (s.kinded k v).sign i = (s.sign i).map fun g =>
    if g.defn.kind = k then { g with credits := min g.credits (kindOf v).cap } else g := by
  refine (Tab.get_map (fun _ g => if g.defn.kind = k && (kindOf v).cap < g.credits then
    { g with credits := (kindOf v).cap } else g) s.signs i).trans ?_
  refine congrArg (Option.map · _) (funext fun g => ?_)
  by_cases h : g.defn.kind = k
  · by_cases hc : (kindOf v).cap < g.credits
    · simp [h, hc, Nat.min_eq_right (Nat.le_of_lt hc)]
    · simp [h, hc, Nat.min_eq_left (Nat.le_of_not_lt hc)]
  · simp [h]

theorem postsOnly_takePlain (s : State) (p : PlainSetup) (v : Word) :
    State.postsOnly { s with setup := s.setup.takePlain p v } (s.takePlain p v) := postsOnly_syncEcho _ s 0

/-! ## Fields of a word -/

theorem clamp_eq {lo hi : Nat} (h : lo ≤ hi) (n : Nat) : clamp lo hi n = max lo (min hi n) := by
  unfold clamp; split <;> (try split) <;> omega

theorem getLsbD_eq_decide (v : Word) (i : Nat) : v.getLsbD i = decide (v.toNat / 2 ^ i % 2 = 1) := by
  rw [← BitVec.testBit_toNat, Nat.testBit_eq_decide_div_mod_eq]

theorem field_bit (v : Word) (i : Nat) : field v i 1 = 1 ↔ v.getLsbD i = true := by
  rw [getLsbD_eq_decide, decide_eq_true_iff]; rfl

theorem setClear_eq {n : Nat} (old : BitVec n) (v : Word) :
    setClear old v = if v.getLsbD 15 then old ||| v.setWidth n else old &&& ~~~(v.setWidth n) := by
  unfold setClear
  simp only [field_bit]

theorem inkOf_eq (n : Nat) : inkOf n = if n = 0 then .black else if n = 1 then .red else .yellow := by
  unfold inkOf; split <;> simp_all

theorem bannerOf_eq (n : Nat) : bannerOf n = if n = 0 then .none else if n = 1 then .stripe else .full := by
  unfold bannerOf; split <;> simp_all

theorem styleOf_eq (v : Word) : styleOf v =
    { ink := if v.toNat % 4 = 0 then .black else if v.toNat % 4 = 1 then .red else .yellow
      banner := if v.toNat / 4 % 4 = 0 then .none else if v.toNat / 4 % 4 = 1 then .stripe else .full
      invert := v.toNat / 16 % 2 = 1 } := by
  simp [styleOf, inkOf_eq, bannerOf_eq, field]

theorem kindOf_eq (v : Word) : kindOf v =
    { refresh := max 1 (min 60 (v.toNat % 64)), cap := max 1 (min 15 (v.toNat / 64 % 16))
      period := max 1 (min 60 (v.toNat / 1024)) } := by
  have h : v.toNat / 1024 % 64 = v.toNat / 1024 := Nat.mod_eq_of_lt (by have := v.isLt; omega)
  simp [kindOf, clamp_eq, field, h]

theorem lineOf_eq (v : Word) : lineOf v = { rate := min 2 (v.toNat % 4), timeout := max 1 (min 50 (v.toNat / 4 % 64)) } := by
  simp [lineOf, clamp_eq, field]

theorem signFlagsOf_low (m : Nat) : signFlagsOf (m % 2 ^ 4) =
    { btn := m % 2 = 1, pwr := m / 2 % 2 = 1, lowb := m / 4 % 2 = 1, jam := m / 8 % 2 = 1 } := by
  unfold signFlagsOf
  refine SignFlags.mk.injEq .. ▸ ⟨?_, ?_, ?_, ?_⟩ <;> exact decide_eq_decide.2 (by omega)

theorem signFlagsOf_field (v : Word) (i : Nat) : signFlagsOf (field v i 4) =
    { btn := v.getLsbD i, pwr := v.getLsbD (i + 1), lowb := v.getLsbD (i + 2), jam := v.getLsbD (i + 3) } := by
  have h1 : v.toNat / 2 ^ (i + 1) = v.toNat / 2 ^ i / 2 := by rw [Nat.pow_succ, Nat.div_div_eq_div_mul]
  have h2 : v.toNat / 2 ^ (i + 2) = v.toNat / 2 ^ i / 4 := by rw [Nat.pow_add, Nat.div_div_eq_div_mul]
  have h3 : v.toNat / 2 ^ (i + 3) = v.toNat / 2 ^ i / 8 := by rw [Nat.pow_add, Nat.div_div_eq_div_mul]
  rw [field, signFlagsOf_low]
  simp only [getLsbD_eq_decide, h1, h2, h3]

/-! ## The word's access -/

/-- The state with a word written. -/
def State.written (s : State) (o : Nat) (v : Word) : State := { s with mem := writeWord s.mem (s.regionAddress o) v }

theorem beginHost_regionAddress (s : State) (o : Nat) : s.beginHost.regionAddress o = s.regionAddress o := by
  simp [State.regionAddress]

/-- A write of a setup word in service is forwarded, and its owner takes it. -/
theorem setupAccess_takes (ha : s.active = true) {o : Nat} {w : SetupWord} (hw : setupWordAt o = some w) (v : Word) :
    State.countsOnly ((s.beginHost.written o v).takeWord w v) (s.setupAccess o v) := by
  unfold State.setupAccess State.hostWriteWith
  rw [hostAccess_active ha]
  have h : s.beginHost.setupWrite o (.both v) = (s.beginHost.written o v).takeWord w v := by
    unfold State.setupWrite
    rw [hw]
    rfl
  rw [← h]
  exact countsOnly_servedAccess s _

/-- A word taken: what the command answers differs from what its owner makes by what is posted alone. -/
theorem setupAccess_posts (ha : s.active = true) {o : Nat} {w : SetupWord} (hw : setupWordAt o = some w) {v : Word} {u : State}
    (h : State.postsOnly u ((s.beginHost.written o v).takeWord w v)) : State.postsOnly u (s.setupAccess o v) :=
  h.trans (setupAccess_takes ha hw v).postsOnly

theorem setupWordAt_style (st : RoomState) : setupWordAt (styleOffset st) = some (.style st) := by cases st <;> rfl
theorem setupWordAt_kind (k : SignKind) : setupWordAt (kindOffset k) = some (.kind k) := by cases k <;> rfl

theorem setupWordAt_line (m : Fin 4) : setupWordAt (0x18 + 2 * m.val) = some (.plain (.line m)) := by
  match m with
  | 0 => rfl
  | 1 => rfl
  | 2 => rfl
  | 3 => rfl

theorem setupWordAt_plain (p : PlainSetup) : setupWordAt (plainOffset p) = some (.plain p) := by
  cases p with
  | line m => exact setupWordAt_line m
  | _ => rfl

/-- A LINE, SWEEP, RETAIN or INSIST word taken. -/
theorem plain_taken (ha : s.active = true) (p : PlainSetup) (v : Word) {u : SetupLogic}
    (h : s.beginHost.setup.takePlain p v = u) : ∃ t, exec (.setupWordWrite p v) s = .next t ∧ State.postsOnly
      { s.beginHost with mem := writeWord s.beginHost.mem (s.regionAddress (plainOffset p)) v, setup := u } t := by
  refine ⟨_, rfl, setupAccess_posts ha (setupWordAt_plain p) ?_⟩
  rw [← h, ← beginHost_regionAddress]
  exact postsOnly_takePlain _ p v

/-- Settles O60: one clause a word, each field the clamp of its bits. -/
theorem setupWordsAreTakenClamped : Obligations.SetupWordsAreTakenClamped := by
  unfold Obligations.SetupWordsAreTakenClamped
  intro v s ha
  dsimp only
  refine ⟨⟨_, rfl, setupAccess_posts ha (w := .enable) rfl ?_⟩, ⟨_, rfl, setupAccess_posts ha (w := .matrix) rfl ?_⟩,
    fun st => ⟨_, rfl, ?_⟩, fun k => ⟨_, rfl, ?_⟩, fun m => plain_taken ha (.line m) v ?_, plain_taken ha .sweepTiming v ?_,
    plain_taken ha .sweepSelect v ?_, plain_taken ha .retain v ?_, plain_taken ha .insist v ?_⟩
  · rw [← setClear_eq, ← beginHost_regionAddress]
    exact postsOnly_takeEnable _ v
  · rw [← beginHost_regionAddress]
    exact postsOnly_takeMatrix _ v
  · rw [← styleOf_eq]
    have h := setupAccess_posts ha (setupWordAt_style st) (postsOnly_takeStyle (s.beginHost.written (styleOffset st) v) st v)
    have hc := h.read State.comp fun _ => rfl
    rw [hc, ← beginHost_regionAddress]
    rw [styled_eq] at h
    exact ⟨fun i => mem_styled, h⟩
  · rw [← kindOf_eq]
    have h := setupAccess_posts ha (setupWordAt_kind k) (postsOnly_takeKind (s.beginHost.written (kindOffset k) v) k v)
    have hg := h.read State.signs fun _ => rfl
    have hcap : (kindOf v).cap = max 1 (min 15 (v.toNat / 64 % 16)) := by rw [kindOf_eq]
    refine ⟨fun i => ?_, ?_⟩
    · unfold State.sign
      rw [hg, ← hcap]
      exact sign_kinded (s.beginHost.written (kindOffset k) v) k v i
    · rw [hg, ← beginHost_regionAddress]
      exact h
  · rw [← lineOf_eq]; rfl
  · simp [SetupLogic.takePlain, clamp_eq, field]
  · simp only [SetupLogic.takePlain, signFlagsOf_field, field_bit, Bool.decide_eq_true]
  · simp [SetupLogic.takePlain, clamp_eq, field]
  · simp [SetupLogic.takePlain, field]

/-! ## The reload -/

theorem insist_syncEcho (s old : State) : (s.syncEcho old).path.insist = s.path.insist :=
  (Hands.syncEcho (P := False) old 0).insist

theorem insist_reloadWord (w : SetupWord) (v : Word) : (s.reloadWord w v).path.insist = s.path.insist := by
  cases w with
  | matrix => unfold State.reloadWord State.reloadMatrix; dsimp only; rw [insist_syncEcho]
  | style st =>
    have h : s.reloadWord (.style st) v = (s.styled st v).syncEcho s := rfl
    rw [h, insist_syncEcho, styled_eq]
  | kind k =>
    have h : s.reloadWord (.kind k) v = ((s.kinded k v).syncHealth s .credit).syncEcho s := rfl
    have hh : Hands False (s.kinded k v) ((s.kinded k v).syncHealth s .credit) :=
      Hands.health (p := .credit) nofun False.elim False.elim nofun [] _
    rw [h, insist_syncEcho, hh.insist]
    rfl
  | plain p => unfold State.reloadWord State.takePlain; dsimp only; rw [insist_syncEcho]
  | _ => rfl

/-- The setup values with a word of the reload taken. -/
def SetupLogic.reloaded (u : SetupLogic) (v : Word) : SetupWord → SetupLogic
  | .matrix => { u with matrix := matrixOf v, pendingMatrix := false }
  | .style st => { u with styles := u.styles.set st (styleOf v) }
  | .kind k => { u with kinds := u.kinds.set k (kindOf v) }
  | .plain p => u.takePlain p v
  | _ => u

/-- A word read back changes no more than the values it gives, the signs, and what is posted. -/
theorem reloadWord_fields (w : SetupWord) (v : Word) :
    (s.reloadWord w v).mem = s.mem ∧ (s.reloadWord w v).setup = s.setup.reloaded v w := by
  have of_posts : ∀ {u t : State}, State.postsOnly u t → u.mem = s.mem → u.setup = s.setup.reloaded v w →
      t.mem = s.mem ∧ t.setup = s.setup.reloaded v w := fun h hm hu => ⟨h.works.mem.trans hm, h.works.setup.trans hu⟩
  cases w with
  | matrix => exact of_posts (postsOnly_syncEcho
      { s with setup := { s.setup with matrix := matrixOf v, pendingMatrix := false } } s 0) rfl rfl
  | style st => exact of_posts (postsOnly_takeStyle s st v) (by rw [styled_eq]) (by rw [styled_eq]; rfl)
  | kind k => exact of_posts (postsOnly_takeKind s k v) rfl rfl
  | plain p => exact of_posts (postsOnly_takePlain s p v) rfl rfl
  | _ => exact ⟨rfl, rfl⟩

theorem advanceReload_fields (s : State) (k : Nat) : (s.advanceReload k).mem = s.mem
    ∧ (s.advanceReload k).path = s.path
    ∧ (s.advanceReload k).setup = { s.setup with phase := if k < 16 then .reload (k + 1) else .fill 0 } := by
  unfold State.advanceReload State.handFill
  split <;> exact ⟨rfl, rfl, rfl⟩

/-- Every offset the reload goes through names a word. -/
theorem setupWordAt_reload {k : Nat} (hk : k ≤ 16) : ∃ w, setupWordAt (reloadOffset k) = some w := by
  interval_cases k <;> exact ⟨_, rfl⟩

/-- The styles, the kinds and the matrix are read back before the last word. -/
theorem lt_of_not_plain {k : Nat} (hk : k ≤ 16) {w : SetupWord} (h : setupWordAt (reloadOffset k) = some w)
    (hw : ∀ p, w ≠ .plain p) : k < 16 := by
  rcases Nat.lt_or_ge k 16 with h' | h'
  · exact h'
  · obtain rfl : k = 16 := by omega
    cases h
    exact absurd rfl (hw _)

theorem exec_setupRead {k : Nat} (ha : s.active = true) (hp : s.setup.phase = .reload k) (hh : s.path.hold ≠ .granted) :
    exec .setupRead s = .next (s.ownAccessMade.reloadStep k) := by
  have hc : s.ownChoice = some .setupRead := by
    rw [State.ownChoice_ready hh]
    simp [State.ownReady, ha, State.reloading, hp]
  show Host.Outcome.next _ = _
  rw [if_pos hc, State.makeSetupRead, hp]

/-- Settles O16. -/
theorem reloadTakesTheWordInMemory : Obligations.ReloadTakesTheWordInMemory := by
  unfold Obligations.ReloadTakesTheWordInMemory
  intro k s ha hp hk hh
  obtain ⟨w, hw⟩ := setupWordAt_reload hk
  refine ⟨_, exec_setupRead ha hp hh, ?_⟩
  unfold State.reloadStep
  simp only [hw]
  obtain ⟨hm, hpath, hset⟩ := advanceReload_fields
    (s.ownAccessMade.reloadWord w (readWord s.ownAccessMade.mem (s.ownAccessMade.regionAddress (reloadOffset k)))) k
  have hset' : _ = { s.setup.reloaded (readWord s.mem (s.regionAddress (reloadOffset k))) w with
      phase := if k < 16 then .reload (k + 1) else .fill 0 } :=
    hset.trans (congrArg (fun u : SetupLogic => { u with phase := if k < 16 then .reload (k + 1) else .fill 0 })
      (reloadWord_fields w _).2)
  have word : ∀ w', setupWordAt (6 + 2 * k) = some w' → w = w' := fun w' h => Option.some.inj (hw.symm.trans h)
  refine ⟨hm.trans ((reloadWord_fields w _).1), ?_, ?_, fun st h => ?_, fun kd h => ?_, fun p h => ?_⟩
  · rw [hpath]; exact insist_reloadWord w _
  · rintro rfl
    obtain rfl := word .matrix rfl
    exact hset'
  · obtain rfl := word _ h
    rw [hset', if_pos (lt_of_not_plain hk hw nofun)]
    rfl
  · obtain rfl := word _ h
    rw [hset', if_pos (lt_of_not_plain hk hw nofun)]
    rfl
  · obtain rfl := word _ h
    exact hset'

/-! ## The restart -/

/-- An access that requests a restart ends with it, and is not counted (log entry 23). -/
theorem servedAccess_restart {f : State → State}
    (h : (f s.beginHost).setup.restartCount ≠ s.beginHost.setup.restartCount) : s.servedAccess f = f s.beginHost := by
  unfold State.servedAccess
  exact if_pos h

theorem restartCount_ne (n : Nat) : (n + 1) % 65536 ≠ n := by omega

theorem exec_restart (ha : s.active = true) : exec .restart s = .next (s.beginHost.written 4 1).restart := by
  show Host.Outcome.next (s.hostAccess _ _) = _
  rw [hostAccess_active ha, servedAccess_restart]
  · rfl
  · exact restartCount_ne _

theorem port_restart (s : State) (n : Fin 4) : s.restart.port n = s.restartedPort n := by
  match n with
  | 0 => rfl
  | 1 => rfl
  | 2 => rfl
  | 3 => rfl

/-- Settles O15. -/
theorem restartBeginsTheReload : Obligations.RestartBeginsTheReload := by
  unfold Obligations.RestartBeginsTheReload
  intro s ha
  refine ⟨_, exec_restart ha, ⟨rfl, rfl, rfl, rfl, rfl, rfl, rfl, rfl, rfl, rfl, rfl, rfl, rfl, rfl, rfl, rfl, rfl, rfl,
    fun n => ?_, rfl⟩, rfl, attn_of_no_flags rfl, rfl, beginHost_base s, beginHost_pins s, rfl, ?_, fun n => ?_⟩
  · rw [port_restart]; rfl
  · rw [← beginHost_regionAddress]; rfl
  · rw [port_restart]; exact cutOff_cutsTo (s.beginHost.port n) _

end Sys2Proof.Machine
end

section
/-! CONTROL: one flag set or cleared by a write, and the effect of each (R49, R78, R113, R136, R146, R180, R189). -/

namespace Sys2Proof.Machine

variable {s t u : State}

theorem Hands.postsOnly {P : Prop} (h : Hands P s t) : State.postsOnly s t := by
  rw [h.frame]; rfl

/-! ## One flag -/

/-- CONTROL with one flag set or cleared. -/
def withFlag (c : BitVec 8) (k : Nat) (on : Bool) : BitVec 8 := if on then c ||| (1#8 <<< k) else c &&& ~~~(1#8 <<< k)

/-- The state with one flag of CONTROL set or cleared, before any block takes the change. -/
def State.flagged (s : State) (k : Nat) (on : Bool) : State :=
  { s with setup := { s.setup with control := withFlag s.setup.control k on } }

theorem setClear_flag (c : BitVec 8) {k : Nat} (hk : k < 8) (on : Bool) :
    setClear c (setClearWord k on) = withFlag c k on := by
  unfold setClear withFlag
  interval_cases k <;> cases on <;> rfl

theorem getLsbD_withFlag (c : BitVec 8) {j k : Nat} (hj : j < 8) (on : Bool) :
    (withFlag c k on).getLsbD j = if j = k then on else c.getLsbD j := by
  have bit : (1#8 <<< k).getLsbD j = decide (j = k) := by
    rw [BitVec.getLsbD_shiftLeft, BitVec.getLsbD_one]
    simp only [hj, decide_true, Bool.true_and]
    by_cases h : j = k
    · simp [h]
    · by_cases h1 : j < k
      · simp [h1, h]
      · simp [h, show j - k ≠ 0 by omega]
  unfold withFlag
  cases on
  · rw [if_neg Bool.false_ne_true, BitVec.getLsbD_and, BitVec.getLsbD_not, bit]
    by_cases h : j = k <;> simp only [hj, h, decide_true, decide_false, if_true, if_false, Bool.not_true, Bool.not_false,
      Bool.and_false, Bool.and_true]
  · rw [if_pos rfl, BitVec.getLsbD_or, bit]
    by_cases h : j = k <;> simp [h]

/-! ## Blocks that take no change -/

theorem lineChange_same {old : State} {n : Fin 4} (h : s.setup.seg n = old.setup.seg n) : old.lineChange s n = s := by
  unfold State.lineChange
  rw [h]
  cases old.setup.seg n <;> simp

theorem lineChange_setup (old s : State) (n : Fin 4) : (old.lineChange s n).setup = s.setup := by
  unfold State.lineChange
  split
  · exact (worksOnly_startLine s n).setup
  · split
    · exact (worksOnly_stopLine s n).setup
    · rfl

/-- The only line that takes a change is the one whose flag has changed. -/
theorem lineChanges_one {old : State} (n : Fin 4) (h : ∀ m, m ≠ n → s.setup.seg m = old.setup.seg m) :
    allFour.foldl (fun t m => old.lineChange t m) s = old.lineChange s n := by
  have before : ∀ m, m ≠ n → old.lineChange s m = s := fun m hm => lineChange_same (h m hm)
  have behind : ∀ m, m ≠ n → old.lineChange (old.lineChange s n) m = old.lineChange s n := fun m hm =>
    lineChange_same (by rw [lineChange_setup]; exact h m hm)
  unfold allFour
  match n with
  | 0 => simp [behind]
  | 1 => simp [before, behind]
  | 2 => simp [before, behind]
  | 3 => simp [before]

/-- The state with the blocks but the lines told of the change of CONTROL, before its echo. -/
def State.changed (old s : State) : State := old.cacheChange (old.quietChange (old.sourceChange s))

theorem sourceChange_same {old : State} (h : s.setup.minuteSrc = old.setup.minuteSrc) : old.sourceChange s = s := by
  unfold State.sourceChange; rw [h]; cases old.setup.minuteSrc <;> simp

theorem quietChange_same {old : State} (h : s.setup.quiet = old.setup.quiet) : old.quietChange s = s := by
  unfold State.quietChange; rw [h]; cases old.setup.quiet <;> simp

theorem cacheChange_same {old : State} (h : s.setup.cacheOff = old.setup.cacheOff) : old.cacheChange s = s := by
  unfold State.cacheChange; rw [h]; simp

theorem sourceChange_setup (old s : State) : (old.sourceChange s).setup = s.setup := by
  unfold State.sourceChange; split <;> rfl

theorem quietChange_setup (old s : State) : (old.quietChange s).setup = s.setup := by
  unfold State.quietChange; split
  · rw [markWhere_dirty]
  · rfl

theorem takeControl_eq (s : State) {k : Nat} (hk : k < 8) (on : Bool) : s.takeControl (setClearWord k on)
    = (s.changed (allFour.foldl (fun t m => s.lineChange t m) (s.flagged k on))).syncEcho s := by
  unfold State.takeControl State.flagged
  rw [setClear_flag _ hk]
  rfl

theorem flag_flagged (s : State) {j k : Nat} (hj : j < 8) (on : Bool) :
    (s.flagged k on).setup.control.getLsbD j = if j = k then on else s.setup.control.getLsbD j := getLsbD_withFlag _ hj on

theorem flag_flagged_of_ne (s : State) {j k : Nat} (hj : j < 8) (hne : j ≠ k) (on : Bool) :
    (s.flagged k on).setup.control.getLsbD j = s.setup.control.getLsbD j := by rw [flag_flagged s hj, if_neg hne]

/-- A flag that is no line's leaves every line as it is. -/
theorem lineChanges_none (s : State) {k : Nat} (hk : 4 ≤ k) (on : Bool) :
    allFour.foldl (fun t m => s.lineChange t m) (s.flagged k on) = s.flagged k on := by
  have same : ∀ m : Fin 4, (s.flagged k on).setup.seg m = s.setup.seg m := fun m =>
    flag_flagged_of_ne s (by omega) (by omega) on
  rw [lineChanges_one 0 fun m _ => same m, lineChange_same (same 0)]

/-- A line's flag tells no other block. -/
theorem changed_line {n : Fin 4} {on : Bool} (h : t.setup = (s.flagged n.val on).setup) : s.changed t = t := by
  have same : ∀ j, 4 ≤ j → j < 8 → t.setup.control.getLsbD j = s.setup.control.getLsbD j := fun j h4 h8 => by
    rw [h]; exact flag_flagged_of_ne s h8 (by omega) on
  unfold State.changed
  rw [sourceChange_same (same 5 (by omega) (by omega)), quietChange_same (same 6 (by omega) (by omega)),
    cacheChange_same (same 7 (by omega) (by omega))]

/-! ## The access -/

/-- The state with the word that sets or clears one flag written to CONTROL, before it is taken. -/
def State.controlWritten (s : State) (k : Nat) (on : Bool) : State :=
  { s.beginHost with
    mem := writeWord s.beginHost.mem (s.regionAddress 0) (wordOf ((if on then 0x8000 else 0) + 2 ^ k)) }

/-- A write that sets or clears one flag: what the blocks make of it, but for what is posted. -/
theorem control_posts (ha : s.active = true) {k : Nat} (hk : k < 8) (on : Bool)
    (h : State.postsOnly u ((s.controlWritten k on).changed
      (allFour.foldl (fun t n => (s.controlWritten k on).lineChange t n) ((s.controlWritten k on).flagged k on)))) :
    State.postsOnly u (s.setupAccess controlOffset (setClearWord k on)) := by
  refine setupAccess_posts ha (o := controlOffset) (w := .control) rfl ?_
  have hw : s.beginHost.written controlOffset (setClearWord k on) = s.controlWritten k on := by
    unfold State.controlWritten
    rw [setClearWord_eq, ← beginHost_regionAddress]; rfl
  rw [hw]
  show State.postsOnly u (State.takeControl _ _)
  rw [takeControl_eq _ hk]
  exact h.trans (postsOnly_syncEcho _ _ 0)

/-- The same of a flag that is no line's. -/
theorem flag_posts (ha : s.active = true) {k : Nat} (h4 : 4 ≤ k) (hk : k < 8) (on : Bool)
    (h : State.postsOnly u ((s.controlWritten k on).changed ((s.controlWritten k on).flagged k on))) :
    State.postsOnly u (s.setupAccess controlOffset (setClearWord k on)) :=
  control_posts ha hk on (by rw [lineChanges_none _ h4]; exact h)

theorem changed_clockRun (s : State) (on : Bool) : s.changed (s.flagged 4 on) = s.flagged 4 on := by
  have same : ∀ j, j ≠ 4 → j < 8 → (s.flagged 4 on).setup.control.getLsbD j = s.setup.control.getLsbD j := fun j h h8 =>
    flag_flagged_of_ne s h8 h on
  unfold State.changed
  rw [sourceChange_same (same 5 (by decide) (by decide)), quietChange_same (same 6 (by decide) (by decide)),
    cacheChange_same (same 7 (by decide) (by decide))]

theorem changed_minuteSrc (s : State) (on : Bool) : s.changed (s.flagged 5 on) = if s.setup.minuteSrc && !on then
    { s.flagged 5 on with clock := { s.clock with timebase := s.clock.timebase + 1 } } else s.flagged 5 on := by
  have same : ∀ j, j ≠ 5 → j < 8 → (s.sourceChange (s.flagged 5 on)).setup.control.getLsbD j = s.setup.control.getLsbD j :=
    fun j h h8 => by rw [sourceChange_setup]; exact flag_flagged_of_ne s h8 h on
  have flag : (s.flagged 5 on).setup.minuteSrc = on := (flag_flagged s (by decide) on).trans (if_pos rfl)
  unfold State.changed
  rw [quietChange_same (same 6 (by decide) (by decide)), cacheChange_same (same 7 (by decide) (by decide)),
    State.sourceChange, flag]
  rfl

theorem changed_quiet (s : State) (on : Bool) : s.changed (s.flagged 6 on) = if s.setup.quiet && !on then
    (s.flagged 6 on).markWhere (fun e => e.2.deferred) else s.flagged 6 on := by
  have flag : (s.flagged 6 on).setup.quiet = on := (flag_flagged s (by decide) on).trans (if_pos rfl)
  unfold State.changed
  rw [sourceChange_same (flag_flagged_of_ne s (by decide) (by decide) on), cacheChange_same, State.quietChange, flag]
  rw [quietChange_setup]
  exact flag_flagged_of_ne s (by decide) (by decide) on

theorem changed_quiet_frame (s : State) (on : Bool) : s.changed (s.flagged 6 on) =
    { s.flagged 6 on with comp := { s.comp with dirty := (s.changed (s.flagged 6 on)).comp.dirty } } := by
  rw [changed_quiet]
  split
  · exact markWhere_dirty (s.flagged 6 on) _
  · rfl

theorem mem_changed_quiet {on : Bool} {i : Nat} : i ∈ (s.changed (s.flagged 6 on)).comp.dirty
    ↔ i ∈ s.comp.dirty ∨ (s.setup.quiet = true ∧ on = false ∧ ∃ g, (i, g) ∈ s.signs ∧ g.deferred = true) := by
  rw [changed_quiet]
  split
  · next h =>
    simp only [Bool.and_eq_true, Bool.not_eq_eq_eq_not, Bool.not_true] at h
    rw [mem_markWhere]
    simp only [h, true_and]
    rfl
  · next h =>
    have hn : ¬ (s.setup.quiet = true ∧ on = false) := by simpa using h
    exact ⟨.inl, fun h => h.resolve_right fun ⟨h1, h2, _⟩ => hn ⟨h1, h2⟩⟩

theorem changed_cacheOff (s : State) (on : Bool) : s.changed (s.flagged 7 on) = if s.setup.cacheOff = on then s.flagged 7 on
    else State.advance { s.flagged 7 on with cache := { s.cache with lines := [] } } := by
  have flag : (s.flagged 7 on).setup.cacheOff = on := (flag_flagged s (by decide) on).trans (if_pos rfl)
  unfold State.changed
  rw [sourceChange_same (flag_flagged_of_ne s (by decide) (by decide) on),
    quietChange_same (flag_flagged_of_ne s (by decide) (by decide) on), State.cacheChange, flag]
  by_cases h : s.setup.cacheOff = on
  · simp [h]
  · simp only [bne_iff_ne, ne_eq, h, not_false_iff, if_true, if_false]
    rfl

/-- Settles O59. -/
theorem controlFlagsTakeEffect : Obligations.ControlFlagsTakeEffect := by
  unfold Obligations.ControlFlagsTakeEffect
  intro on s ha
  dsimp only
  refine ⟨⟨_, rfl, flag_posts ha (k := 4) (by decide) (by decide) on ?_⟩,
    ⟨_, rfl, flag_posts ha (k := 5) (by decide) (by decide) on ?_⟩, ?_,
    ⟨_, rfl, flag_posts ha (k := 7) (by decide) (by decide) on ?_⟩⟩
  · rw [changed_clockRun]; exact .refl _
  · rw [changed_minuteSrc]; exact .refl _
  · have h := flag_posts ha (k := 6) (by decide) (by decide) on (.refl _)
    have hc := h.read State.comp fun _ => rfl
    rw [changed_quiet_frame] at h
    refine ⟨_, rfl, by rw [hc]; exact h, fun i => ?_⟩
    rw [hc]
    exact mem_changed_quiet
  · rw [changed_cacheOff]; exact .refl _

/-! ## Lines -/

theorem startLine_off {n : Fin 4} (h : (s.engine n).state = .off) : s.startLine n = (s.setEngine n
      { s.engine n with
        state := .idle, sweepTimer := some s.setup.sweepPeriod, due := true, presence := true, routine := 0 }).setPort n
        { s.port n with state := .sending, rate := (s.setup.lines.get n).rate, frame := [], cut := [] } := if_pos h

theorem abandonWork_off {n : Fin 4} (h : (∀ i, (s.engine n).state ≠ .requesting i)
    ∧ (∀ i a q r x b, (s.engine n).state ≠ .ready (.face i a q r x b))
    ∧ ∀ i a q r x b, (s.engine n).state ≠ .running (.face i a q r x b) false) : s.abandonWork n = s := by
  obtain ⟨h1, h2, h3⟩ := h
  unfold State.abandonWork
  split
  · next i hi => exact absurd hi (h1 i)
  · next i a q r x b hi => exact absurd hi (h2 i a q r x b)
  · next i a q r x b hi => exact absurd hi (h3 i a q r x b)
  · rfl

/-- What a stop leaves of line `n`, the work abandoned as `u` has it: engine and port OFF, and of a frame being sent what the
place of the cut gives (R136, R146). -/
def State.stopsTo (s u t : State) (n : Fin 4) : Prop :=
  (s.port n).cutsTo (t.port n).cut
    ∧ State.postsOnly { ((u.setEngine n { s.engine n with state := .off, owed := [], sweepTimer := none, due := false }).setPort n
        { s.port n with state := .off, frame := [], cut := (t.port n).cut }) with freeIndex := t.freeIndex } t

theorem State.stopsTo.then {n : Fin 4} {v : State} (h : s.stopsTo u t n) (hv : State.postsOnly t v) : s.stopsTo u v n := by
  obtain ⟨h1, h2⟩ := h
  have hp : v.port n = t.port n := hv.read (·.port n) fun _ => rfl
  have hf : v.freeIndex = t.freeIndex := hv.read State.freeIndex fun _ => rfl
  unfold State.stopsTo
  rw [hp, hf]
  exact ⟨h1, h2.trans hv⟩

theorem stopLine_stops {n : Fin 4} (hu : s.abandonWork n = u) (he : u.engines = s.engines) (hp : u.ports = s.ports) :
    s.stopsTo u (s.stopLine n) n := by
  have hen : u.engine n = s.engine n := engine_congr he n
  have hpo : u.port n = s.port n := by unfold State.port; rw [hp]
  let cut := (s.port n).cutOff ((s.port n).cutTime u.freeIndex)
  let v := ((u.setEngine n { s.engine n with state := .off, owed := [], sweepTimer := none, due := false }).setPort n cut).useFree
  have hv : s.stopLine n = v.syncHealth s (.engine n) := by
    unfold State.stopLine State.updateEngine
    rw [hu, hen]
    dsimp only [State.setEngine_freeIndex]
    have h : ∀ e : Engine, (u.setEngine n e).port n = s.port n := fun _ => hpo
    simp only [h]
    rfl
  rw [hv]
  have off : (v.engine n).state ≠ .finishing := by simp [v, State.engine, State.useFree, State.setEngine, State.setPort]
  have h : Hands False v (v.syncHealth s (.engine n)) :=
    Hands.health (p := .engine n) nofun False.elim False.elim (fun m hm => by cases hm; exact off) [] _
  refine State.stopsTo.then (t := v) ?_ h.postsOnly
  have hc : v.port n = cut := by simp [v, State.port, State.useFree, State.setPort]
  unfold State.stopsTo
  rw [hc]
  exact ⟨cutOff_cutsTo _ _, .refl _⟩

theorem returnFace_eq {i : Nat} {g : Sign} (hg : s.sign i = some g) (r : Rank) (w : Option (Byte × FaceRecord)) :
    s.returnFace i r w = (s.setSign i { g with state := .pending, unconfirmed := w }).returnToHead g.defn.line i r := by
  unfold State.returnFace; rw [hg]

theorem orphanComposition_own {n : Fin 4} {k : Composition} (hk : s.comp.composition = some k) (hn : k.engine = some n) :
    s.orphanComposition n = s.setComposition (some { k with orphan := true }) := by
  unfold State.orphanComposition; rw [hk]; exact if_pos hn

theorem orphanComposition_other {n : Fin 4} (h : ∀ k, s.comp.composition = some k → k.engine ≠ some n) :
    s.orphanComposition n = s := by
  unfold State.orphanComposition
  split
  · next k hk => exact if_neg (h k hk)
  · rfl

/-- A line's flag set or cleared by a write: what the line makes of it, but for what is posted. -/
theorem line_posts (ha : s.active = true) (n : Fin 4) (on : Bool) :
    State.postsOnly ((s.controlWritten n.val on).lineChange ((s.controlWritten n.val on).flagged n.val on) n)
      (s.setupAccess controlOffset (setClearWord n.val on)) := by
  refine control_posts ha (by omega) on ?_
  rw [lineChanges_one n fun m hm => flag_flagged_of_ne _ (by omega) (fun h => hm (Fin.ext h)) on,
    changed_line (lineChange_setup _ _ n)]
  exact .refl _

theorem lineChange_flagged (s : State) (n : Fin 4) (on : Bool) : s.lineChange (s.flagged n.val on) n =
    if s.setup.seg n = on then s.flagged n.val on
    else if on then (s.flagged n.val on).startLine n else (s.flagged n.val on).stopLine n := by
  have flag : (s.flagged n.val on).setup.seg n = on := (flag_flagged s (by omega) on).trans (if_pos rfl)
  unfold State.lineChange
  rw [flag]
  cases on <;> cases s.setup.seg n <;> simp

theorem withFlag_same {c : BitVec 8} {k : Nat} {on : Bool} (h : c.getLsbD k = on) : withFlag c k on = c := by
  refine BitVec.eq_of_getLsbD_eq fun j hj => ?_
  rw [getLsbD_withFlag c hj]
  split
  · next e => rw [e, h]
  · rfl

theorem flagged_same {k : Nat} {on : Bool} (h : s.setup.control.getLsbD k = on) : s.flagged k on = s := by
  unfold State.flagged
  rw [withFlag_same h]

/-- Settles O58. -/
theorem linesStartAndStop : Obligations.LinesStartAndStop := by
  unfold Obligations.LinesStartAndStop
  intro n s ha
  dsimp only
  have same : ∀ on, s.beginHost.setup.seg n = on →
      State.postsOnly (s.controlWritten n.val on) (s.setupAccess controlOffset (setClearWord n.val on)) := fun on h => by
    have h1 := line_posts ha n on
    have hs : (s.controlWritten n.val on).setup.seg n = on := h
    rw [lineChange_flagged, if_pos hs, flagged_same hs] at h1
    exact h1
  refine ⟨fun h => ⟨_, rfl, same true h⟩, fun h he => ⟨_, rfl, ?_⟩, fun h => ⟨_, rfl, same false h⟩, fun h => ?_⟩
  · have h1 := line_posts ha n true
    rw [lineChange_flagged, if_neg (by rw [show (s.controlWritten n.val true).setup.seg n = false from h]; decide), if_pos rfl] at h1
    refine State.postsOnly.trans ?_ h1
    rw [startLine_off (s := (s.controlWritten n.val true).flagged n.val true) he]
    exact .refl _
  · let c := (s.controlWritten n.val false).flagged n.val false
    have h1 : State.postsOnly (c.stopLine n) (s.setupAccess controlOffset (setClearWord n.val false)) := by
      have h1 := line_posts ha n false
      rw [lineChange_flagged, if_neg (by rw [show (s.controlWritten n.val false).setup.seg n = true from h]; decide),
        if_neg Bool.false_ne_true] at h1
      exact h1
    have stops : ∀ {u : State}, c.abandonWork n = u → u.engines = c.engines → u.ports = c.ports →
        c.stopsTo u (s.setupAccess controlOffset (setClearWord n.val false)) n := fun hu he hp =>
      (stopLine_stops hu he hp).then h1
    have engine : c.engine n = s.beginHost.engine n := rfl
    refine ⟨fun i k hi hk hn => ⟨_, rfl, stops ?_ rfl rfl⟩, fun i a q r x b g hi hg => ⟨_, rfl, stops ?_ rfl rfl⟩,
      fun i a q r x b g hi hg => ⟨fun hp => ⟨_, rfl, stops ?_ rfl rfl⟩, fun hp => ⟨_, rfl, stops ?_ rfl rfl⟩⟩,
      fun i hi hk => ⟨_, rfl, stops ?_ rfl rfl⟩, fun h1 h2 => ⟨_, rfl, stops ?_ rfl rfl⟩⟩
    · rw [State.abandonWork, engine, hi]
      exact orphanComposition_own (s := c) hk hn
    · have hg' : c.sign i = some g := hg
      rw [State.abandonWork, engine, hi]
      dsimp only
      rw [hg']
      exact returnFace_eq hg' r _
    · rw [State.abandonWork, engine, hi]
      exact (if_pos hp).trans (returnFace_eq (s := c) hg r _)
    · have hg' : c.sign i = some g := hg
      rw [State.abandonWork, engine, hi]
      refine (if_neg hp).trans ?_
      rw [hg']
      exact returnFace_eq hg' r _
    · rw [State.abandonWork, engine, hi]
      exact orphanComposition_other (s := c) hk
    · exact abandonWork_off (s := c) ⟨h1, fun i a q r x b => (h2 i a q r x b).1, fun i a q r x b => (h2 i a q r x b).2⟩

end Sys2Proof.Machine
end

section
/-! Host writes to the edit lanes: captured, dropped, judged or accepted (R24 to R35), and writes dropped (R166). -/

namespace Sys2Proof.Machine

variable {s t u v : State}

/-! ## Frames of a counted access -/

/-- What does not depend on the insist count reads as before. -/
theorem State.countsOnly.read {β : Sort _} (h : State.countsOnly s t) (f : State → β) (hf : ∀ u : State, f u.uncounted = f u) :
    f t = f s := by
  rw [← hf t, ← hf s]; exact congrArg f h

theorem State.countsOnly.refl (s : State) : State.countsOnly s s := rfl

theorem State.countsOnly.trans (h1 : State.countsOnly s t) (h2 : State.countsOnly t u) : State.countsOnly s u := Eq.trans h2 h1

/-- A write in service: what its owner makes of it, and the count. -/
theorem hostWrite_counts (ha : s.active = true) (a : Nat) (d : Drive) (f : State → State) :
    State.countsOnly (f s.beginHost) (s.hostWriteWith a d f) := by
  unfold State.hostWriteWith
  rw [hostAccess_active ha]
  exact countsOnly_servedAccess s f

theorem laneAccess_counts (ha : s.active = true) (n : Fin 4) (k : Nat) (d : Drive) :
    State.countsOnly (s.beginHost.laneWrite n k d) (s.laneAccess n k d) := hostWrite_counts ha _ d _

/-! ## Records that enter -/

theorem path_handNext (s : State) (p : Producer) : (s.handNext p).path = s.path := by
  unfold State.handNext; split <;> rfl

theorem path_settleEngine (s : State) (n : Fin 4) : (s.settleEngine n).path = s.path := by
  rw [settleEngine_eq]; rfl

/-- A record that enters takes its places at the tail of the queue; what follows leaves the queue alone. -/
theorem path_enter {it : Item} (hp : it.producer ≠ .fill) : (s.enter it).path = (s.enqueue it.record).path := by
  rw [enter_eq s hp]
  split
  · rw [path_settleEngine, path_handNext, handRaise_eq]; rfl
  · rw [path_handNext, handRaise_eq]; rfl

/-! ## Dropped writes -/

theorem getLsbD_mask (e f : Event) : f.mask.getLsbD e.bit = true ↔ e = f := by
  rw [← mask_le_iff]
  constructor
  · intro h
    have hb : e.bit = f.bit := by
      by_contra hne
      have hbit := congrArg (fun x : BitVec 13 => x.getLsbD e.bit) h
      have he : e.bit < 13 := by cases e <;> simp [Event.bit]; omega
      simp only [Event.mask, BitVec.getLsbD_and, BitVec.getLsbD_shiftLeft, BitVec.getLsbD_one, he] at hbit
      by_cases hlt : e.bit < f.bit
      · simp [hlt] at hbit
      · simp [show e.bit - f.bit ≠ 0 by omega] at hbit
    cases e <;> cases f <;> simp_all [Event.bit] <;> omega
  · rintro rfl; simp

/-- The last guarded address as a dropped write leaves it. -/
def State.guardedAddress (s : State) (addr : Nat) (byte : Bool) : State :=
  { s with post := { s.post with guardAddress := addr, guardByte := byte } }

/-- The record a dropped write hands. -/
def Item.guard : Item := { producer := .post, record := .guardAddress, raises := Event.guard.mask }

theorem dropGuarded_eq (s : State) (addr : Nat) (byte : Bool) : s.dropGuarded addr byte =
    if s.post.waiting.any Item.isGuard then s.guardedAddress addr byte else (s.guardedAddress addr byte).hand .guard := rfl

/-- A dropped write's record is in the queue with its address, or waits. -/
theorem guard_handed (addr : Nat) (byte : Bool) :
    let t := (s.guardedAddress addr byte).hand .guard
    ((t.path.postQueue.any fun e => e.offset = guardOffset && e.value = wordOf addr) || t.post.waiting.any Item.isGuard) = true := by
  dsimp only
  rcases hand_cases (s.guardedAddress addr byte) .guard with ⟨-, -, -, h⟩ | ⟨h, -, -⟩ | h
  · rw [h, path_enter (it := .guard) nofun]
    simp [State.enqueue, Item.guard, recordWords, recordLayout, entriesFrom, State.guardedAddress]
  · exact absurd rfl h
  · rw [h]
    simp [State.setWaiting, Item.guard, Item.isGuard]

/-- What a dropped write leaves (R166). -/
theorem droppedAt_dropGuarded (s : State) (addr : Nat) (byte : Bool) : State.droppedAt s (s.dropGuarded addr byte) addr byte := by
  refine ⟨postsOnly_dropGuarded s addr byte, ?_, ?_, ?_⟩
  · rw [dropGuarded_eq]
    split
    · next h => simp only [State.guardedAddress, h, Bool.or_true]
    · exact guard_handed addr byte
  · intro hc
    rw [dropGuarded_eq]
    split
    · next h =>
      obtain ⟨it, hit, hg⟩ := List.any_eq_true.1 h
      exact (raising_iff _ _).2 ⟨it, List.mem_append_left _ hit, hc it hit hg⟩
    · exact (raising_hand _ (it := .guard) nofun _).2 (.inr ((carries_iff _ _).2 (.inl ((getLsbD_mask _ _).2 rfl))))
  · intro e he
    rw [dropGuarded_eq]
    split
    · rfl
    · rw [raising_hand _ (it := .guard) nofun]
      refine ⟨fun h => h.resolve_right fun hc => ?_, .inl⟩
      rcases (carries_iff _ _).1 hc with h | ⟨g, hg, -⟩
      · exact he ((getLsbD_mask _ _).1 h)
      · cases hg

theorem State.droppedAt.counts {addr : Nat} {byte : Bool} (h : State.droppedAt s t addr byte) (hv : State.countsOnly t v) :
    State.droppedAt s v addr byte := by
  obtain ⟨h1, h2, h3, h4⟩ := h
  have hq : v.path.postQueue = t.path.postQueue := hv.read (·.path.postQueue) fun _ => rfl
  have hp : v.post = t.post := hv.read State.post fun _ => rfl
  have hr : ∀ f, v.raising f = t.raising f := fun f => by unfold State.raising; rw [hp]
  refine ⟨h1.trans hv.postsOnly, ?_, fun hc => ?_, fun e he => ?_⟩
  · rw [hq, hp]; exact h2
  · rw [hr]; exact h3 hc
  · rw [hr]; exact h4 e he

/-- A write to a lane that is not OPEN is dropped (R28). -/
theorem laneWrite_closed {n : Fin 4} (h : (s.laneAt n).state ≠ .opened) (k : Nat) (d : Drive) : s.laneWrite n k d =
    s.dropGuarded (guardedAt d (s.regionAddress (laneOffset n k))).1 (guardedAt d (s.regionAddress (laneOffset n k))).2 :=
  if_pos h

theorem laneAccess_closed (ha : s.active = true) {n : Fin 4} (h : (s.laneAt n).state ≠ .opened) (k : Nat) (d : Drive) :
    State.droppedAt s.beginHost (s.laneAccess n k d) (guardedAt d (s.regionAddress (laneOffset n k))).1
      (guardedAt d (s.regionAddress (laneOffset n k))).2 := by
  have hc := laneAccess_counts ha n k d
  rw [laneWrite_closed (by rw [beginHost_laneAt]; exact h), beginHost_regionAddress] at hc
  exact (droppedAt_dropGuarded _ _ _).counts hc

/-! ## A host write by its address -/

theorem areaOf_lane (n : Fin 4) {k : Nat} (hk : k < 128) : areaOf (laneOffset n k) = .laneWord n k := by
  unfold areaOf laneOffset
  rw [if_neg (by omega), if_pos (by omega)]
  have h1 : (0x100 + n.val * 0x100 + 2 * k - 0x100) / 0x100 = n.val := by omega
  have h2 : (0x100 + n.val * 0x100 + 2 * k) % 0x100 / 2 = k := by omega
  rw [h1, h2]
  congr 1
  exact Fin.ext (Nat.mod_eq_of_lt n.isLt)

/-- A write in the region is sorted by its offset. -/
theorem anyWrite_region {o : Nat} (ho : o < 0x10000) (d : Drive) : s.anyWrite (s.regionAddress o) d = s.sortedWrite o d := by
  unfold State.anyWrite State.regionAddress
  have h1 : (s.path.base.val * 0x10000 + o) / 0x10000 = s.path.base.val := by omega
  have h2 : (s.path.base.val * 0x10000 + o) % 0x10000 = o := by omega
  rw [h1, h2, if_pos rfl]

theorem anyWrite_lane {n : Fin 4} {k : Nat} (hk : k < 128) {d : Drive} (hd : d ≠ .neither) :
    s.anyWrite (s.regionAddress (laneOffset n k)) d = s.laneWrite n k d := by
  rw [anyWrite_region (by unfold laneOffset; omega), sortedWrite_eq _ _ hd, areaOf_lane n hk]
  rfl

theorem hostWrite_closed (ha : s.active = true) {n : Fin 4} (h : (s.laneAt n).state ≠ .opened) {w : BitVec 19}
    (hw : 2 * w.toNat = s.regionAddress (laneOffset n 127)) {d : Drive} (hd : d ≠ .neither) : ∃ t,
    exec (.hostWrite w d) s = .next t ∧ State.droppedAt s.beginHost t (guardedAt d (s.regionAddress (laneOffset n 127))).1
      (guardedAt d (s.regionAddress (laneOffset n 127))).2 := by
  refine ⟨_, rfl, ?_⟩
  have hb : byteAddress w = s.beginHost.regionAddress (laneOffset n 127) := by
    rw [beginHost_regionAddress]; exact hw
  have hc := hostWrite_counts ha (byteAddress w) d fun t => t.anyWrite (byteAddress w) d
  rw [hb, anyWrite_lane (by decide) hd, laneWrite_closed (by rw [beginHost_laneAt]; exact h), beginHost_regionAddress] at hc
  have h2 := (droppedAt_dropGuarded _ _ _).counts hc
  rw [← hw] at h2 ⊢
  exact h2

/-- Settles O19. -/
theorem closedLaneWritesAreDropped : Obligations.ClosedLaneWritesAreDropped := by
  unfold Obligations.ClosedLaneWritesAreDropped
  intro n s ha h
  have low : ∀ v : Byte, Drive.low v ≠ .neither := nofun
  have high : ∀ v : Byte, Drive.high v ≠ .neither := nofun
  refine ⟨fun k v => ⟨_, rfl, laneAccess_closed ha h k _⟩, fun k hi v => ?_, fun q e => ⟨_, rfl, laneAccess_closed ha h 127 _⟩,
    fun q e => ⟨_, rfl, laneAccess_closed ha h 127 _⟩, fun w hw v =>
      ⟨hostWrite_closed ha h hw (low v), hostWrite_closed ha h hw (high v)⟩⟩
  cases hi with
  | false => exact ⟨_, rfl, laneAccess_closed ha h k (.low v)⟩
  | true => exact ⟨_, rfl, laneAccess_closed ha h k (.high v)⟩

end Sys2Proof.Machine
end

section
/-! The lane unit: capture, the post word's judgement, acceptance, and the decode of the head batch (R26 to R36). -/

namespace Sys2Proof.Machine

variable {s t u v : State}

/-! ## The post word -/

theorem toNat_postWordOf (q : Byte) (b : Bool) (e : BitVec 7) :
    (postWordOf q b e).toNat = q.toNat * 256 + bitOf b * 128 + e.toNat := by
  have hb : bitOf b ≤ 1 := by cases b <;> decide
  have := q.isLt
  have := e.isLt
  simp only [postWordOf, wordOf, place, BitVec.toNat_ofNat]
  omega

theorem hiByte_postWordOf (q : Byte) (b : Bool) (e : BitVec 7) : hiByte (postWordOf q b e) = q := by
  have hb : bitOf b ≤ 1 := by cases b <;> decide
  have := q.isLt
  have := e.isLt
  refine BitVec.eq_of_toNat_eq ?_
  rw [hiByte, BitVec.extractLsb'_toNat, toNat_postWordOf, Nat.shiftRight_eq_div_pow]
  omega

theorem end_postWordOf (q : Byte) (b : Bool) (e : BitVec 7) : field (postWordOf q b e) 0 7 = e.toNat := by
  have := e.isLt
  rw [field, toNat_postWordOf]
  omega

theorem discard_postWordOf (q : Byte) (b : Bool) (e : BitVec 7) : field (postWordOf q b e) 7 1 = bitOf b := by
  have hb : bitOf b ≤ 1 := by cases b <;> decide
  have := e.isLt
  rw [field, toNat_postWordOf]
  omega

/-! ## Writes to an OPEN lane -/

variable {n : Fin 4}

theorem laneWrite_word (h : (s.laneAt n).state = .opened) {k : Nat} (hk : k < 127) (w : Word) : s.laneWrite n k (.both w) =
    (s.forward (s.regionAddress (laneOffset n k)) (.both w)).setLane n (captureWord (s.laneAt n) k w) := by
  unfold State.laneWrite
  rw [if_neg (not_not.2 h)]
  exact if_pos hk

theorem laneWrite_byte (h : (s.laneAt n).state = .opened) {k : Nat} (hk : k < 127) {d : Drive} (high : Bool) {w : Byte}
    (hd : d = if high then .high w else .low w) : s.laneWrite n k d =
    (s.forward (s.regionAddress (laneOffset n k)) d).captureByteAt n k d := by
  unfold State.laneWrite
  rw [if_neg (not_not.2 h)]
  cases high <;> (subst hd; exact if_pos hk)

theorem laneWrite_discard (h : (s.laneAt n).state = .opened) (q : Byte) (e : BitVec 7) :
    s.laneWrite n 127 (.both (postWordOf q true e)) =
      (s.forward (s.regionAddress (laneOffset n 127)) (.both (postWordOf q true e))).setLane n (clearedLane (s.laneAt n)) := by
  unfold State.laneWrite
  rw [if_neg (not_not.2 h)]
  exact (if_neg (by decide)).trans (if_pos (discard_postWordOf q true e))

theorem laneWrite_post (h : (s.laneAt n).state = .opened) (q : Byte) (e : BitVec 7) :
    s.laneWrite n 127 (.both (postWordOf q false e)) =
      (s.forward (s.regionAddress (laneOffset n 127)) (.both (postWordOf q false e))).judgePostWord n q e.toNat := by
  unfold State.laneWrite
  rw [if_neg (not_not.2 h)]
  refine (if_neg (by decide)).trans ((if_neg (by rw [discard_postWordOf]; decide)).trans ?_)
  rw [hiByte_postWordOf, end_postWordOf]

theorem captureByteAt_eq (s : State) (n : Fin 4) (k : Nat) (d : Drive) : s.captureByteAt n k d =
    State.setLane { s with freeIndex := (s.captureByteAt n k d).freeIndex } n
      { s.laneAt n with
        shadow := Tab.set (s.laneAt n).shadow k
          { value := driveOnto d (slotWord (s.laneAt n) k s.freeIndex), partMark := true } } := by
  unfold State.captureByteAt
  dsimp only
  split <;> rfl

/-- The address of a lane's word, as the statements write it. -/
theorem regionAddress_post (s : State) (n : Fin 4) :
    s.regionAddress (laneOffset n 127) = s.regionAddress (0x1FE + n.val * 0x100) := by rw [laneOffset_post]

/-- The word a byte write leaves in a slot: the byte written, and the other byte of what the slot held. -/
theorem byte_driveOnto (high : Bool) (w : Byte) (x : Word) :
    (if high then hiByte (driveOnto (if high then .high w else .low w) x)
      else loByte (driveOnto (if high then .high w else .low w) x)) = w
    ∧ (if high then loByte (driveOnto (if high then .high w else .low w) x)
      else hiByte (driveOnto (if high then .high w else .low w) x)) = if high then loByte x else hiByte x := by
  cases high <;> simp [driveOnto]

/-- Settles O18. -/
theorem entryWritesAreCaptured : Obligations.EntryWritesAreCaptured := by
  unfold Obligations.EntryWritesAreCaptured
  intro n k s ha h
  have hb : (s.beginHost.laneAt n).state = .opened := by rw [beginHost_laneAt]; exact h
  dsimp only
  refine ⟨fun q e => ⟨_, rfl, ?_⟩, fun w => ⟨_, rfl, ?_⟩, fun high w => ?_⟩
  · have hc := laneAccess_counts ha n 127 (.both (postWordOf q true e))
    rw [laneWrite_discard hb, beginHost_laneAt, beginHost_regionAddress, regionAddress_post] at hc
    exact hc
  · have hc := laneAccess_counts ha n k.val (.both w)
    rw [laneWrite_word hb k.isLt, beginHost_laneAt, beginHost_regionAddress] at hc
    exact hc
  · have hc := laneAccess_counts ha n k.val (if high then .high w else .low w)
    rw [laneWrite_byte hb k.isLt high rfl, captureByteAt_eq, beginHost_regionAddress] at hc
    have hf := hc.read State.freeIndex fun _ => rfl
    obtain ⟨h1, h2⟩ := byte_driveOnto high w (slotWord (s.laneAt n) k.val s.freeIndex)
    refine ⟨_, driveOnto (if high then .high w else .low w) (slotWord (s.laneAt n) k.val s.freeIndex), rfl, ?_, h1,
      fun y hy => ?_⟩
    · rw [show State.freeIndex _ = _ from hf]
      have hl : ∀ d m, (State.forward s.beginHost m d).laneAt n = s.laneAt n := fun _ _ => beginHost_laneAt s n
      have hi : ∀ d m, (State.forward s.beginHost m d).freeIndex = s.freeIndex := fun _ _ => beginHost_freeIndex s
      rw [hl, hi] at hc
      cases high <;> exact hc
    · rw [h2, slotWord, hy]

/-! ## The judgement of a post word -/

/-- A result of a post is handed, or held (R33). -/
theorem postLaneResult_eq (s : State) (n : Fin 4) (r : LaneResult) : s.postLaneResult n r =
    if s.setup.phase = .running then
      s.setWaiting (s.post.waiting ++ [{ producer := .post, record := .laneResult n r false, raises := (Event.lane n).mask }])
    else s.setLane n { s.laneAt n with heldResult := some r } := by
  unfold State.postLaneResult
  split
  · rcases hand_cases s { producer := .post, record := .laneResult n r false, raises := (Event.lane n).mask } with
      ⟨-, h, -⟩ | ⟨h, -, -⟩ | h
    · cases h
    · exact absurd rfl h
    · exact h
  · rfl

theorem judgePost_partial {l : Lane} (hs : Tab.sorted l.shadow = true) {q : Byte} {o k : Nat} (hk : k ≤ o)
    (hp : ∃ x, Tab.get l.shadow k = some x ∧ x.partMark = true)
    (hl : ∀ j, j < k → ¬ ∃ x, Tab.get l.shadow j = some x ∧ x.partMark = true) :
    judgePost l q o = .refused .partialWord k := by
  obtain ⟨x, hx, hm⟩ := hp
  have hf : (l.shadow.find? fun e => decide (e.1 ≤ o) && e.2.partMark) = some (k, x) :=
    find?_eq_some_of_least ((Tab.sorted_iff _).1 hs) (Tab.mem_of_get hx) (by simp [hk, hm]) fun y hy hy' hlt => by
      simp only [Bool.and_eq_true] at hy'
      exact hl y.1 hlt ⟨y.2, Tab.get_of_mem hs hy, hy'.2⟩
  unfold judgePost
  rw [hf]

theorem partials_none {l : Lane} (hs : Tab.sorted l.shadow = true) {o : Nat}
    (h : ∀ k, k ≤ o → ¬ ∃ x, Tab.get l.shadow k = some x ∧ x.partMark = true) :
    (l.shadow.find? fun e => decide (e.1 ≤ o) && e.2.partMark) = none := by
  rw [List.find?_eq_none]
  intro e he hp
  simp only [Bool.and_eq_true, decide_eq_true_eq] at hp
  exact h e.1 hp.1 ⟨e.2, Tab.get_of_mem hs he, hp.2⟩

section Whole

/-! With no partial word in the span the sequence, the words of the span and those behind it decide (R30, R31). -/

variable {l : Lane} {q : Byte} {o : Nat} (h : (l.shadow.find? fun e => decide (e.1 ≤ o) && e.2.partMark) = none)
include h

theorem judgePost_sequence (hq : q ≠ l.expected ∨ o = 127) : judgePost l q o = .refused .mismatch 127 := by
  unfold judgePost
  simp only [h]
  exact if_pos (by simpa using hq)

variable (hq : q = l.expected) (ho : o ≠ 127)
include hq ho

theorem judgePost_unwritten {k : Nat} (hk : ((List.range (o + 1)).find? fun k => !Tab.has l.shadow k) = some k) :
    judgePost l q o = .refused .mismatch k := by
  unfold judgePost
  simp only [h, hk]
  exact if_neg (by simp [hq, ho])

variable (hw : ((List.range (o + 1)).find? fun k => !Tab.has l.shadow k) = none)
include hw

theorem judgePost_behind {e : Nat × Slot} (he : (l.shadow.find? fun e => o < e.1) = some e) :
    judgePost l q o = .refused .mismatch e.1 := by
  unfold judgePost
  simp only [h, hw, he]
  exact if_neg (by simp [hq, ho])

theorem judgePost_accepted (he : (l.shadow.find? fun e => o < e.1) = none) : judgePost l q o = .accepted := by
  unfold judgePost
  simp only [h, hw, he]
  exact if_neg (by simp [hq, ho])

end Whole

theorem find?_range_unwritten {l : Lane} {o k : Nat} (hk : k ≤ o) (hw : ¬ (Tab.get l.shadow k).isSome = true)
    (hl : ∀ j, j < k → (Tab.get l.shadow j).isSome = true) :
    ((List.range (o + 1)).find? fun k => !Tab.has l.shadow k) = some k :=
  find?_eq_some_of_least List.pairwise_lt_range (by simp; omega) (by simpa [Tab.has] using hw) fun j _ hj hlt => by
    have := hl j hlt
    simp [Tab.has, this] at hj

theorem find?_range_written {l : Lane} {o : Nat} (h : ∀ k, k ≤ o → (Tab.get l.shadow k).isSome = true) :
    ((List.range (o + 1)).find? fun k => !Tab.has l.shadow k) = none := by
  rw [List.find?_eq_none]
  intro k hk
  simp [Tab.has, h k (by simp at hk; omega)]

/-- A post word judged refused: its result is handed or held, and the lane is else as it was. -/
theorem post_refused (ha : s.active = true) (h : (s.laneAt n).state = .opened) {q : Byte} {e : BitVec 7} {code : Code} {k : Nat}
    (hj : judgePost (s.laneAt n) q e.toNat = .refused code k) {w : State}
    (hw : w = { s.beginHost with
      mem := writeWord s.beginHost.mem (s.regionAddress (0x1FE + n.val * 0x100)) (postWordOf q false e) }) :
    ∃ t, exec (.postWord n q e) s = .next t ∧ State.countsOnly
      (w.postLaneResult n (postResult (s.laneAt n) q e.toNat code k)) t := by
  have hb : (s.beginHost.laneAt n).state = .opened := by rw [beginHost_laneAt]; exact h
  have hc := laneAccess_counts ha n 127 (.both (postWordOf q false e))
  have hl : w.laneAt n = s.laneAt n := by rw [hw]; exact beginHost_laneAt s n
  have hf : s.beginHost.forward (s.regionAddress (laneOffset n 127)) (.both (postWordOf q false e)) = w := by
    rw [hw, regionAddress_post]; rfl
  rw [laneWrite_post hb, beginHost_regionAddress, hf, State.judgePostWord, hl, hj] at hc
  exact ⟨_, rfl, hc⟩

/-- Settles O20. -/
theorem badPostsAreRefused : Obligations.BadPostsAreRefused := by
  unfold Obligations.BadPostsAreRefused
  intro n q e s ha h hs
  dsimp only
  have refused : ∀ {code : Code} {k : Nat}, judgePost (s.laneAt n) q e.toNat = .refused code k → _ := fun hj =>
    post_refused ha h hj rfl
  simp only [postLaneResult_eq] at refused
  have hl : ∀ m : List Host.Cell, State.laneAt { s.beginHost with mem := m } n = s.laneAt n := fun _ => beginHost_laneAt s n
  simp only [hl] at refused
  refine ⟨fun k hk hp hlow => refused (judgePost_partial hs hk hp hlow), fun hn => ?_⟩
  have whole := partials_none hs hn
  refine ⟨fun hq => refused (judgePost_sequence whole hq), fun hq h127 => ?_⟩
  · refine ⟨fun k hk hw hlow => refused (judgePost_unwritten whole hq h127 (find?_range_unwritten hk hw hlow)),
      fun hw k hk hwk hlow => refused ?_⟩
    · obtain ⟨x, hx⟩ := Option.isSome_iff_exists.1 hwk
      have hf : ((s.laneAt n).shadow.find? fun y => e.toNat < y.1) = some (k, x) :=
        find?_eq_some_of_least ((Tab.sorted_iff _).1 hs) (Tab.mem_of_get hx) (by simpa using hk) fun y hy hy' hlt => by
          refine hlow y.1 (by simpa using hy') hlt ?_
          rw [Tab.get_of_mem hs hy]; rfl
      exact judgePost_behind whole hq h127 (find?_range_written hw) hf

end Sys2Proof.Machine
end

section
/-! Acceptance of a post word, the decode of the head batch, and the encoding of its entries (R31, R35, R36; section 12.4). -/

namespace Sys2Proof.Machine

variable {s t u v : State}

/-! ## An own access leaves RUNNING alone -/

theorem setup_noteChoice (s : State) (b : Bool) : (s.noteChoice b).setup = s.setup := by
  unfold State.noteChoice; split <;> rfl

theorem setup_makePostWrite (s : State) : s.makePostWrite.setup = s.setup := by
  unfold State.makePostWrite
  split
  · rfl
  · exact setup_noteChoice s true

theorem setup_makeFillRead (s : State) : s.makeFillRead.setup = s.setup := by
  unfold State.makeFillRead
  split
  · rfl
  · dsimp only
    split
    · exact setup_noteChoice s false
    · split
      · exact setup_noteChoice s false
      · exact ((worksOnly_arrive _ _).trans (worksOnly_advance _)).setup.trans (setup_noteChoice s false)

theorem phase_reloadStep (k : Nat) : (s.reloadStep k).setup.phase = if k < 16 then .reload (k + 1) else .fill 0 := by
  unfold State.reloadStep
  dsimp only
  split
  · rw [(advanceReload_fields _ k).2.2]
  · rw [(advanceReload_fields _ k).2.2]

theorem ownAccess_running : s.ownAccess.setup.phase = .running ↔ s.setup.phase = .running := by
  unfold State.ownAccess
  split
  · unfold State.makeSetupRead
    split
    · next k hk =>
      rw [phase_reloadStep, hk]
      split <;> simp
    · rfl
  · rw [setup_makePostWrite]
  · rw [setup_makeFillRead]
  · rfl

/-- A host access begins on a RUNNING part as one that is RUNNING. -/
theorem beginHost_running : s.beginHost.setup.phase = .running ↔ s.setup.phase = .running := by
  rcases beginHost_cases s with ⟨-, -, h⟩ | ⟨-, h⟩ | ⟨-, h⟩
  · rw [h]
  · rw [h]; exact ownAccess_running
  · rw [h]; rfl

/-! ## The head of the commit queue -/

variable {n : Fin 4}

theorem promoteHead_queued {rest : List (Fin 4)} (hp : s.setup.phase = .running) (hc : s.lane.commit = n :: rest)
    (h : (s.laneAt n).state = .queued) : s.promoteHead = s.setLane n { s.laneAt n with state := .applying } := by
  unfold State.promoteHead
  rw [hp, hc]
  exact if_pos h

theorem promoteHead_same (h : ∀ m ∈ s.lane.commit.head?, (s.laneAt m).state ≠ .queued ∨ s.setup.phase ≠ .running) :
    s.promoteHead = s := by
  unfold State.promoteHead
  split
  · next m rest hp hc =>
    have hm := h m (by rw [hc]; rfl)
    exact if_neg (hm.resolve_right (not_not.2 hp))
  · rfl

theorem laneAt_setLane (s : State) (n m : Fin 4) (l : Lane) : (s.setLane n l).laneAt m = if m = n then l else s.laneAt m :=
  Quad.get_set _ _ _ _

/-- A post word accepted (R31, R35). -/
theorem judgePostWord_accepted {q : Byte} {o : Nat} (hj : judgePost (s.laneAt n) q o = .accepted) : s.judgePostWord n q o =
    State.promoteHead { s with lane := { s.lane with
      commit := s.lane.commit ++ [n], lanes := s.lane.lanes.set n (acceptedLane (s.laneAt n) q o) } } := by
  unfold State.judgePostWord
  simp only [hj]
  rfl

/-- Settles O21. -/
theorem goodPostIsQueued : Obligations.GoodPostIsQueued := by
  unfold Obligations.GoodPostIsQueued
  intro n e s ha h h127 hhead hspan hshadow
  dsimp only
  have hb : (s.beginHost.laneAt n).state = .opened := by rw [beginHost_laneAt]; exact h
  have hpart : ((s.laneAt n).shadow.find? fun x => decide (x.1 ≤ e.toNat) && x.2.partMark) = none := by
    rw [List.find?_eq_none]
    intro x hx
    simp [(hshadow x hx).2]
  have hbehind : ((s.laneAt n).shadow.find? fun x => e.toNat < x.1) = none := by
    rw [List.find?_eq_none]
    intro x hx
    simpa using (hshadow x hx).1
  have hj : judgePost (s.laneAt n) (s.laneAt n).expected e.toNat = .accepted :=
    judgePost_accepted hpart rfl h127 (find?_range_written fun k hk => by
      obtain ⟨x, hx, -⟩ := hspan k hk
      rw [hx]; rfl) hbehind
  have hc := laneAccess_counts ha n 127 (.both (postWordOf (s.laneAt n).expected false e))
  let w : State := { s.beginHost with
    mem := writeWord s.beginHost.mem (s.regionAddress (0x1FE + n.val * 0x100)) (postWordOf (s.laneAt n).expected false e) }
  have hf : s.beginHost.forward (s.regionAddress (laneOffset n 127)) (.both (postWordOf (s.laneAt n).expected false e)) = w := by
    rw [regionAddress_post]; rfl
  have hl : ∀ m, w.laneAt m = s.laneAt m := fun m => beginHost_laneAt s m
  rw [laneWrite_post hb, beginHost_regionAddress, hf, judgePostWord_accepted (by rw [hl]; exact hj), hl] at hc
  refine ⟨_, rfl, ?_⟩
  let a : State := { w with lane := { w.lane with
    commit := w.lane.commit ++ [n]
    lanes := w.lane.lanes.set n (acceptedLane (s.laneAt n) (s.laneAt n).expected e.toNat) } }
  have hal : ∀ m, a.laneAt m = if m = n then acceptedLane (s.laneAt n) (s.laneAt n).expected e.toNat else s.laneAt m := fun m => by
    rw [← hl m]; exact Quad.get_set _ _ _ _
  have hcommit : w.lane.commit = s.lane.commit := congrArg LaneUnit.commit (beginHost_lane s)
  have ph : a.promoteHead = { w with lane := { w.lane with
      commit := w.lane.commit ++ [n]
      lanes := w.lane.lanes.set n { s.laneAt n with
        state := if s.lane.commit = [] ∧ s.beginHost.setup.phase = .running then .applying else .queued
        expected := (s.laneAt n).expected + 1
        accepted := some ((s.laneAt n).expected, e.toNat) } } } := by
    cases hq : s.lane.commit with
    | nil =>
      have hac : a.lane.commit = [n] := by show w.lane.commit ++ [n] = [n]; rw [hcommit, hq]; rfl
      by_cases hp : s.beginHost.setup.phase = .running
      · rw [promoteHead_queued (s := a) hp hac (by rw [hal, if_pos rfl]; rfl), hal, if_pos rfl]
        simp only [hp, and_self, if_true]
        exact congrArg (fun x => { w with lane := { w.lane with commit := w.lane.commit ++ [n], lanes := x } })
          (Quad.set_set _ _ _ _)
      · rw [promoteHead_same (s := a) fun m _ => .inr hp]
        simp only [hp, and_false, if_false]
        rfl
    | cons m rest =>
      have hm := hhead m (by rw [hq]; rfl)
      rw [promoteHead_same (s := a)]
      · simp only [reduceCtorEq, false_and, if_false]
        rfl
      · intro k hk
        have hac : a.lane.commit = m :: rest ++ [n] := by show w.lane.commit ++ [n] = _; rw [hcommit, hq]
        rw [hac] at hk
        obtain rfl : m = k := by simpa using hk
        rcases hm with hm | hm
        · have hmn : m ≠ n := fun hmn => by rw [hmn, h] at hm; cases hm
          left
          rw [hal, if_neg hmn, hm]
          nofun
        · exact .inr fun hp => hm (beginHost_running.1 hp)
  rw [show State.promoteHead _ = _ from ph] at hc
  exact hc

/-! ## The head batch -/

theorem setLane_same {l : Lane} (h : s.laneAt n = l) : s.setLane n l = s := by
  subst h
  unfold State.setLane State.laneAt
  rw [Quad.set_get_self]

/-- A lane that is not OPEN at the head of the queue of a RUNNING part is APPLYING, or is made so (R35). -/
theorem promoteHead_head {rest : List (Fin 4)} (hp : s.setup.phase = .running) (hc : s.lane.commit = n :: rest)
    (h : (s.laneAt n).state ≠ .opened) : s.promoteHead = s.setLane n { s.laneAt n with state := .applying } := by
  cases hs : (s.laneAt n).state with
  | opened => exact absurd hs h
  | queued => exact promoteHead_queued hp hc hs
  | applying =>
    rw [promoteHead_same (s := s), setLane_same]
    · rw [← hs]
    · intro m hm
      rw [hc] at hm
      obtain rfl : n = m := by simpa using hm
      rw [hs]
      exact .inl nofun

theorem endBatch_post (s : State) (n : Fin 4) (r : LaneResult) : s.endBatch n .post r = s.resultHanded .post n r := by
  unfold State.endBatch State.resultHanded
  rcases hand_cases (s.setBatch .resulting) { producer := .post, record := .laneResult n r true, raises := (Event.lane n).mask }
    with ⟨-, h, -⟩ | ⟨h, -, -⟩ | h
  · cases h
  · exact absurd rfl h
  · exact h

theorem decodeHead_entries {es : List (Nat × Entry)}
    (h : decodeBatch (batchWords (s.laneAt n) (s.laneAt n).posted.2) = .entries es) : s.decodeHead n = s.beginCheck es := by
  unfold State.decodeHead; simp only [h]

theorem decodeHead_format {k c : Nat}
    (h : decodeBatch (batchWords (s.laneAt n) (s.laneAt n).posted.2) = .format k c) :
    s.decodeHead n = s.endBatch n .post (batchResult (s.laneAt n) .format k c 0 0 0 0) := by
  unfold State.decodeHead; simp only [h]

theorem exec_batchDecode {rest : List (Fin 4)} (ha : s.active = true) (hp : s.setup.phase = .running)
    (hc : s.lane.commit = n :: rest) (h : (s.laneAt n).state ≠ .opened) (hb : s.lane.batch = .none) :
    exec .batchDecode s = .next ((s.setLane n { s.laneAt n with state := .applying }).decodeHead n) := by
  show Host.Outcome.next (s.working _) = _
  unfold State.working
  rw [if_pos ha]
  dsimp only
  rw [promoteHead_head hp hc h]
  have hl : (s.setLane n { s.laneAt n with state := .applying }).laneAt n = { s.laneAt n with state := .applying } := by
    rw [laneAt_setLane, if_pos rfl]
  have happ : (s.setLane n { s.laneAt n with state := .applying }).applyingLane = some n := by
    unfold State.applyingLane
    rw [show (s.setLane n { s.laneAt n with state := .applying }).lane.commit = n :: rest from hc]
    dsimp only
    rw [hl]
    rfl
  simp only [happ, State.setLane_lane, hb]

/-- Settles O22. -/
theorem headBatchIsDecoded : Obligations.HeadBatchIsDecoded := by
  unfold Obligations.HeadBatchIsDecoded
  intro n rest s ha hp hc h hb
  have he := exec_batchDecode ha hp hc h hb
  let u := s.setLane n { s.laneAt n with state := .applying }
  have hl : u.laneAt n = { s.laneAt n with state := .applying } := by rw [laneAt_setLane, if_pos rfl]
  have hw : batchWords (u.laneAt n) (u.laneAt n).posted.2 = batchWords (s.laneAt n) ((s.laneAt n).accepted.getD (0, 0)).2 := by
    rw [hl]; rfl
  refine ⟨fun es hes => ?_, fun k c hk => ?_⟩
  · rw [he, decodeHead_entries (s := u) (congrArg decodeBatch hw |>.trans hes)]
    rfl
  · rw [he, decodeHead_format (s := u) (congrArg decodeBatch hw |>.trans hk), endBatch_post, hl]
    rfl

end Sys2Proof.Machine
end

section
/-! The batch entries: their words decode to them (R36; section 12.4). -/

namespace Sys2Proof.Machine

/-! ## One entry -/

theorem field_wordOf {n : Nat} (h : n < 65536) (i k : Nat) : field (wordOf n) i k = n / 2 ^ i % 2 ^ k := by
  rw [field, wordOf, BitVec.toNat_ofNat, Nat.mod_eq_of_lt h]

theorem toNat_wordOf {n : Nat} (h : n < 65536) : (wordOf n).toNat = n := by
  rw [wordOf, BitVec.toNat_ofNat, Nat.mod_eq_of_lt h]

/-- A small number and another placed above it, as a word. -/
theorem field_low {a b i : Nat} (ha : a < 2 ^ i) (hb : a + b * 2 ^ i < 65536) : field (wordOf (a + place b i)) 0 i = a := by
  rw [place, field_wordOf hb, Nat.pow_zero, Nat.div_one, Nat.add_mul_mod_self_right, Nat.mod_eq_of_lt ha]

theorem field_high {a b i k : Nat} (ha : a < 2 ^ i) (hk : b < 2 ^ k) (hb : a + b * 2 ^ i < 65536) :
    field (wordOf (a + place b i)) i k = b := by
  rw [place, field_wordOf hb, Nat.add_mul_div_right _ _ (Nat.two_pow_pos i), Nat.div_eq_of_lt ha, Nat.zero_add,
    Nat.mod_eq_of_lt hk]

theorem field_byte {a : Nat} (ha : a < 256) : field (wordOf a) 0 8 = a := by
  rw [field_wordOf (by omega)]
  omega

/-- An entry of which the words are `w` and those of `l`, whatever words follow. -/
theorem decodeEntry_words {w : Word} {l : List Word} {e : Entry} (hn : entryLength w = some (l.length + 1)) (he : entryOf w l = e)
    (rest : List Word) : decodeEntry (w :: l ++ rest) = some (e, rest) := by
  simp [decodeEntry, hn, he]

theorem signedWord_ofInt {d : Int} (h1 : -32768 ≤ d) (h2 : d < 32768) : signedWord (BitVec.ofInt 16 d) = d := by
  rw [signedWord, BitVec.toInt_ofInt]
  exact Int.bmod_eq_of_le (by omega) (by omega)

theorem map_toNat_wordOf {l : List Nat} (h : ∀ x ∈ l, x < 65536) : (l.map wordOf).map (·.toNat) = l := by
  rw [List.map_map]
  exact (List.map_congr_left fun x hx => toNat_wordOf (h x hx)).trans (List.map_id l)

/-- The entry of a whole entry's words is the entry. -/
theorem decodeEntry_encodeEntry {e : Entry} (h : entryWf e = true) (rest : List Word) :
    decodeEntry (encodeEntry e ++ rest) = some (e, rest) := by
  cases e with
  | putSession cls id room start fin title presenter =>
    simp only [entryWf, Bool.and_eq_true, decide_eq_true_eq] at h
    obtain ⟨⟨⟨⟨⟨⟨⟨⟨hcls, hid⟩, hroom⟩, hstart⟩, hfin⟩, htl⟩, htn⟩, hpl⟩, hpn⟩ := h
    have hk : field (wordOf (1 + place cls 8)) 0 8 = 1 := field_low (by decide) (by omega)
    refine decodeEntry_words (by simp [entryLength, hk]) ?_ rest
    simp [entryOf, hk, toNat_wordOf, hid, hstart, hfin, htl, hpl, field_byte hpn,
      field_high (a := 1) (i := 8) (k := 4) (by decide) hcls (by omega),
      field_low (i := 8) hroom (show room + title.len * 2 ^ 8 < 65536 by omega),
      field_high (i := 8) (k := 8) hroom htn (show room + title.len * 2 ^ 8 < 65536 by omega)]
  | dropSession id =>
    have h : id < 65536 := by simpa [entryWf] using h
    exact decodeEntry_words (w := wordOf 2) (l := [wordOf id]) rfl (congrArg Entry.dropSession (toNat_wordOf h)) rest
  | cancelSession id =>
    have h : id < 65536 := by simpa [entryWf] using h
    exact decodeEntry_words (w := wordOf 3) (l := [wordOf id]) rfl (congrArg Entry.cancelSession (toNat_wordOf h)) rest
  | moveSession id room =>
    simp only [entryWf, Bool.and_eq_true, decide_eq_true_eq] at h
    exact decodeEntry_words (w := wordOf 4) (l := [wordOf id, wordOf room]) rfl
      (congrArg₂ Entry.moveSession (toNat_wordOf h.1) (field_byte h.2)) rest
  | shiftSession cascade id delta =>
    simp only [entryWf, Bool.and_eq_true, decide_eq_true_eq] at h
    obtain ⟨⟨hid, h1⟩, h2⟩ := h
    have hb : bitOf cascade < 2 ^ 1 := by cases cascade <;> decide
    have hk : field (wordOf (5 + place (bitOf cascade) 8)) 0 8 = 5 := field_low (by decide) (by omega)
    have hc : field (wordOf (5 + place (bitOf cascade) 8)) 8 1 = bitOf cascade :=
      field_high (by decide) hb (by omega)
    refine decodeEntry_words (by simp [entryLength, hk]) ?_ rest
    simp only [entryOf, hk, hc, List.getD_cons_zero, List.getD_cons_succ, toNat_wordOf hid, signedWord_ofInt h1 h2]
    cases cascade <;> rfl
  | putRoom policy room name zone changeover =>
    simp only [entryWf, Bool.and_eq_true, decide_eq_true_eq] at h
    obtain ⟨⟨⟨⟨⟨hp, hroom⟩, hl⟩, hn⟩, hz⟩, hc⟩ := h
    have hk : field (wordOf (6 + place policy 8)) 0 8 = 6 := field_low (by decide) (by omega)
    refine decodeEntry_words (by simp [entryLength, hk]) ?_ rest
    simp [entryOf, hk, toNat_wordOf, hl, field_byte hroom, field_byte hn,
      field_high (a := 6) (i := 8) (k := 2) (by decide) hp (by omega),
      field_low (i := 8) hz (show zone + changeover * 2 ^ 8 < 65536 by omega),
      field_high (i := 8) (k := 8) hz hc (show zone + changeover * 2 ^ 8 < 65536 by omega)]
  | roomState action room =>
    simp only [entryWf, Bool.and_eq_true, decide_eq_true_eq] at h
    have hk : field (wordOf (7 + place action 8)) 0 8 = 7 := field_low (by decide) (by omega)
    refine decodeEntry_words (by simp [entryLength, hk]) ?_ rest
    simp [entryOf, hk, field_byte h.2, field_high (a := 7) (i := 8) (k := 4) (by decide) h.1 (by omega)]
  | setClock minute origin =>
    simp only [entryWf, Bool.and_eq_true, decide_eq_true_eq] at h
    exact decodeEntry_words (w := wordOf 8) (l := [wordOf minute, wordOf origin]) rfl
      (congrArg₂ Entry.setClock (toNat_wordOf h.1) (toNat_wordOf h.2)) rest
  | putSign kind slot line lines address lookahead targets =>
    simp only [entryWf, Bool.and_eq_true, decide_eq_true_eq, List.all_eq_true] at h
    obtain ⟨⟨⟨⟨⟨⟨⟨hkind, hslot⟩, hline⟩, hlines⟩, haddr⟩, hlook⟩, hlen⟩, htargets⟩ := h
    have hw : 9 + place targets.length 8 + place kind 12 < 65536 := by simp only [place]; omega
    have hk : field (wordOf (9 + place targets.length 8 + place kind 12)) 0 8 = 9 := by
      rw [field_wordOf hw]; simp only [place]; omega
    have hcount : field (wordOf (9 + place targets.length 8 + place kind 12)) 8 4 = targets.length := by
      rw [field_wordOf hw]; simp only [place]; omega
    have hsort : field (wordOf (9 + place targets.length 8 + place kind 12)) 12 2 = kind := by
      rw [field_wordOf hw]; simp only [place]; omega
    have hv : line + place lines 4 + place address 8 < 65536 := by simp only [place]; omega
    have h1 : field (wordOf (line + place lines 4 + place address 8)) 0 4 = line := by
      rw [field_wordOf hv]; simp only [place]; omega
    have h2 : field (wordOf (line + place lines 4 + place address 8)) 4 4 = lines := by
      rw [field_wordOf hv]; simp only [place]; omega
    have h3 : field (wordOf (line + place lines 4 + place address 8)) 8 8 = address := by
      rw [field_wordOf hv]; simp only [place]; omega
    refine decodeEntry_words (l := wordOf slot :: wordOf (line + place lines 4 + place address 8) :: wordOf lookahead ::
      targets.map wordOf) (by simp [entryLength, hk, hcount]; omega) ?_ rest
    simp only [entryOf, hk, hsort, List.getD_cons_zero, List.getD_cons_succ, toNat_wordOf hslot, toNat_wordOf hlook, h1, h2, h3,
      List.drop_succ_cons, List.drop_zero, map_toNat_wordOf htargets]
  | dropSign slot =>
    have h : slot < 65536 := by simpa [entryWf] using h
    exact decodeEntry_words (w := wordOf 10) (l := [wordOf slot]) rfl (congrArg Entry.dropSign (toNat_wordOf h)) rest

/-! ## A batch -/

/-- The entries of a batch, each with the offset of its first word. -/
def laidOut : Nat → List Entry → List (Nat × Entry)
  | _, [] => []
  | off, e :: es => (off, e) :: laidOut (off + (encodeEntry e).length) es

theorem length_laidOut (off : Nat) (es : List Entry) : (laidOut off es).length = es.length := by
  induction es generalizing off with
  | nil => rfl
  | cons e es ih => simp [laidOut, ih]

theorem laidOut_eq (off : Nat) (es : List Entry) :
    laidOut off es = es.mapIdx fun i e => (off + ((es.take i).flatMap encodeEntry).length, e) := by
  induction es generalizing off with
  | nil => rfl
  | cons e es ih =>
    rw [laidOut, ih, List.mapIdx_cons]
    simp [Nat.add_assoc]

theorem decodeFrom_cons {w : Word} {ws rest : List Word} {e : Entry} (h : decodeEntry (w :: ws) = some (e, rest)) (fuel off : Nat)
    (acc : List (Nat × Entry)) : decodeFrom (fuel + 1) off acc (w :: ws) =
      decodeFrom fuel (off + ((w :: ws).length - rest.length)) ((off, e) :: acc) rest := by
  rw [decodeFrom, h]
  nofun

theorem encodeEntry_ne_nil (e : Entry) : ∃ w l, encodeEntry e = w :: l := by cases e <;> exact ⟨_, _, rfl⟩

/-- Whole entries are decoded one by one, and the decode goes on behind them. -/
theorem decodeFrom_whole (es : List Entry) (h : ∀ e ∈ es, entryWf e = true) (fuel off : Nat) (acc : List (Nat × Entry))
    (ws : List Word) : decodeFrom (fuel + es.length) off acc (es.flatMap encodeEntry ++ ws) =
      decodeFrom fuel (off + (es.flatMap encodeEntry).length) ((laidOut off es).reverse ++ acc) ws := by
  induction es generalizing off acc with
  | nil => rfl
  | cons e es ih =>
    obtain ⟨he, hes⟩ := List.forall_mem_cons.1 h
    have hd := decodeEntry_encodeEntry he (es.flatMap encodeEntry ++ ws)
    obtain ⟨w, l, hw⟩ := encodeEntry_ne_nil e
    rw [List.flatMap_cons, List.append_assoc]
    have hlen : (encodeEntry e ++ (es.flatMap encodeEntry ++ ws)).length - (es.flatMap encodeEntry ++ ws).length
        = (encodeEntry e).length := by rw [List.length_append]; omega
    have step : decodeFrom (fuel + (e :: es).length) off acc (encodeEntry e ++ (es.flatMap encodeEntry ++ ws)) =
        decodeFrom (fuel + es.length) (off + (encodeEntry e).length) ((off, e) :: acc) (es.flatMap encodeEntry ++ ws) := by
      rw [← hlen]
      rw [hw] at hd ⊢
      exact decodeFrom_cons hd _ _ _
    rw [step, ih hes, laidOut]
    simp [Nat.add_assoc]

theorem length_flatMap_encodeEntry (es : List Entry) : es.length ≤ (es.flatMap encodeEntry).length := by
  induction es with
  | nil => exact Nat.le_refl _
  | cons e es ih =>
    obtain ⟨w, l, hw⟩ := encodeEntry_ne_nil e
    rw [List.flatMap_cons, List.length_append, List.length_cons, hw, List.length_cons]
    omega

/-- A batch of whole entries and words behind them: the decode comes to those with fuel for each. -/
theorem decodeBatch_whole {es : List Entry} (h : ∀ e ∈ es, entryWf e = true) (ws : List Word) :
    ∃ fuel, decodeBatch (es.flatMap encodeEntry ++ ws) =
      decodeFrom fuel (es.flatMap encodeEntry).length (laidOut 0 es).reverse ws := by
  have hl := length_flatMap_encodeEntry es
  refine ⟨(es.flatMap encodeEntry ++ ws).length - es.length, ?_⟩
  have hw := decodeFrom_whole es h ((es.flatMap encodeEntry ++ ws).length - es.length) 0 [] ws
  rw [Nat.sub_add_cancel (by rw [List.length_append]; omega), Nat.zero_add, List.append_nil] at hw
  exact hw

theorem decodeEntry_none {w : Word} {tail : List Word} (h : ∀ n, entryLength w = some n → tail.length + 1 < n) :
    decodeEntry (w :: tail) = none := by
  unfold decodeEntry
  cases hn : entryLength w with
  | none => simp only [hn]
  | some n => simp only [hn]; exact if_pos (h n hn)

theorem decodeFrom_format {w : Word} {tail : List Word} (h : decodeEntry (w :: tail) = none) (fuel off : Nat)
    (acc : List (Nat × Entry)) : decodeFrom fuel off acc (w :: tail) = .format off acc.length := by
  cases fuel with
  | zero => rfl
  | succ fuel => rw [decodeFrom, h]; nofun

/-- Settles O3: each entry's words give it back, so the decode runs through whole entries and stops where the layout fails. -/
theorem entryDecodeInvertsEncode : Obligations.EntryDecodeInvertsEncode := by
  unfold Obligations.EntryDecodeInvertsEncode
  refine ⟨fun e rest h => decodeEntry_encodeEntry h rest, fun es h => ⟨?_, fun w tail hw => ?_⟩⟩
  · obtain ⟨fuel, hf⟩ := decodeBatch_whole h []
    rw [List.append_nil] at hf
    rw [hf, decodeFrom, List.reverse_reverse, laidOut_eq]
    simp only [Nat.zero_add]
  · obtain ⟨fuel, hf⟩ := decodeBatch_whole h (w :: tail)
    rw [hf, decodeFrom_format (decodeEntry_none hw), List.length_reverse, length_laidOut]

end Sys2Proof.Machine
end

section
/-! The entries of sessions, rooms, the clock and signs, tested and simulated (R14 to R18, R21, R53, R139). -/

namespace Sys2Proof.Machine

/-! ## Handles and codes -/

theorem requiredOk_iff (h : Handle) : requiredOk h = true ↔ handleValid h := by
  simp only [requiredOk, handleValid, Bool.and_eq_true, decide_eq_true_eq, and_assoc]
  rfl

theorem optionalOk_iff (h : Handle) : optionalOk h = true ↔ ¬ (h.len ≠ 0 ∧ ¬ handleValid h) := by
  rw [optionalOk, Bool.or_eq_true, requiredOk_iff, decide_eq_true_iff]
  tauto

theorem classOf_none {n : Nat} (h : 3 < n) : classOf n = none := by
  unfold classOf; split <;> first | omega | rfl

theorem classOf_some {n : Nat} (h : n ≤ 3) : ∃ k, classOf n = some k := by
  interval_cases n <;> exact ⟨_, rfl⟩

theorem policyOf_none {n : Nat} (h : 1 < n) : policyOf n = none := by
  unfold policyOf; split <;> first | omega | rfl

theorem policyOf_some {n : Nat} (h : n ≤ 1) : ∃ k, policyOf n = some k := by
  interval_cases n <;> exact ⟨_, rfl⟩

/-! ## The effect on sessions -/

/-- The working copy with its sessions as given, the rooms of the list touched by the entry at `off` (R11). -/
def Work.withSessions (w : Work) (off : Nat) (l : Tab Session) (rooms : List Nat) : Work :=
  { w with sessions := l }.touch off rooms

theorem Work.changesSessions_withSessions (w : Work) (off : Nat) (l : Tab Session) {rooms rooms' : List Nat}
    (h : ∀ r, r ∈ rooms' ↔ r ∈ rooms) : w.changesSessions (w.withSessions off l rooms) off rooms' := by
  refine ⟨rfl, fun r => ?_⟩
  by_cases hr : r ∈ rooms
  · rw [if_pos (List.contains_iff_mem.2 ((h r).2 hr))]
    exact Work.get_touched_touch_of_mem { w with sessions := l } off hr
  · rw [if_neg fun hc => hr ((h r).1 (List.contains_iff_mem.1 hc))]
    exact Work.get_touched_touch_of_not_mem { w with sessions := l } off hr

section Sessions

variable {off id : Nat} {w : Work} {e : Session}

/-! ## PUT SESSION, in R14's order -/

section Put

variable {retain cls room start fin : Nat} {title presenter : Handle}

/-- R14's RANGE. -/
def putRange (retain cls id start fin : Nat) (title presenter : Handle) (w : Work) : Prop :=
  id = 0 ∨ 3 < cls ∨ fin ≤ start ∨ ¬ handleValid title ∨ (presenter.len ≠ 0 ∧ ¬ handleValid presenter) ∨ fin + retain ≤ w.now

theorem simPutSession_range (h : putRange retain cls id start fin title presenter w) :
    simPutSession retain off cls id room start fin title presenter w = .refused .range 0 := by
  unfold simPutSession
  by_cases hc : 3 < cls
  · rw [classOf_none hc]
  · obtain ⟨k, hk⟩ := classOf_some (not_lt.1 hc)
    rw [hk]
    refine if_pos ?_
    simp only [Bool.or_eq_true, decide_eq_true_eq, Bool.not_eq_true', ← Bool.not_eq_true, requiredOk_iff, optionalOk_iff,
      not_not]
    unfold putRange at h
    tauto

theorem simPutSession_tests (h : ¬ putRange retain cls id start fin title presenter w) {k : SessionClass}
    (hk : classOf cls = some k) : simPutSession retain off cls id room start fin title presenter w =
      if !Tab.has w.rooms room then .refused .unknownRoom 0
      else if (Tab.get w.sessions id).isNone && Config.maxSessions ≤ w.sessions.length then .refused .full 0
      else if ((Tab.get w.sessions id).any fun o => w.held o.room) || w.held room then .refused .held 0
      else .passed (w.withSessions off
        (Tab.set w.sessions id
          { room := room, cls := k, start := start, fin := fin, title := title, presenter := presenter
            movedFrom := none, cancelled := false })
        (((Tab.get w.sessions id).map (·.room)).toList ++ [room] ++ ((Tab.get w.sessions id).bind (·.movedFrom)).toList)) := by
  unfold simPutSession
  rw [hk]
  refine if_neg fun hc => h ?_
  simp only [Bool.or_eq_true, decide_eq_true_eq, Bool.not_eq_true', ← Bool.not_eq_true, requiredOk_iff, optionalOk_iff,
    not_not] at hc
  unfold putRange
  tauto

theorem exec_putSession {c : Check} {s : State} (ha : s.active = true)
    (hn : s.nextEntry = some (c, off, .putSession cls id room start fin title presenter)) : exec .putSession s =
      .next (s.simulated c off (simPutSession s.setup.retain off cls id room start fin title presenter c.work)) := by
  show Host.Outcome.next (s.working _) = _
  rw [State.working_active ha, hn]

end Put

theorem mem_cons_append {α : Type} {a b : List α} {x r : α} : r ∈ x :: (a ++ b) ↔ r ∈ a ++ [x] ++ b := by
  simp only [List.mem_cons, List.mem_append, List.not_mem_nil, or_false]
  tauto

theorem held_any_iff {old : Option Session} :
    (old.any fun o => w.held o.room) = true ↔ ∃ o, old = some o ∧ w.roomHeld o.room := by
  cases old <;> simp [w.held_iff_roomHeld]

/-- Settles O23: the tests in R14's order; past them the record is put, and R11's rooms are touched. -/
theorem putSessionIsTestedAndPut : Obligations.PutSessionIsTestedAndPut := by
  unfold Obligations.PutSessionIsTestedAndPut
  intro c off cls id room start fin title presenter s ha hn w old range full held
  have hexec := exec_putSession ha hn
  have key : ¬ range → ∃ k, classOf cls = some k ∧ exec .putSession s = .next (s.simulated c off
      (if !Tab.has w.rooms room then .refused .unknownRoom 0
      else if old.isNone && Config.maxSessions ≤ w.sessions.length then .refused .full 0
      else if (old.any fun o => w.held o.room) || w.held room then .refused .held 0
      else .passed (w.withSessions off
        (Tab.set w.sessions id
          { room := room, cls := k, start := start, fin := fin, title := title, presenter := presenter
            movedFrom := none, cancelled := false })
        ((old.map (·.room)).toList ++ [room] ++ (old.bind (·.movedFrom)).toList)))) := fun hr => by
    obtain ⟨k, hk⟩ := classOf_some (n := cls) (by by_contra hc; exact hr (.inr (.inl (not_le.1 hc))))
    exact ⟨k, hk, by rw [hexec, simPutSession_tests hr hk]⟩
  have hroom : (!Tab.has w.rooms room) = true ↔ w.noRoom room := Tab.not_has_iff _ _
  have hfull : (old.isNone && decide (Config.maxSessions ≤ w.sessions.length)) = true ↔ full := by
    simp only [Bool.and_eq_true, Option.isNone_iff_eq_none, decide_eq_true_eq]
    rfl
  have hheld : ((old.any fun o => w.held o.room) || w.held room) = true ↔ held := by
    rw [Bool.or_eq_true, held_any_iff, w.held_iff_roomHeld]
  refine ⟨fun hr => ?_, fun hr h1 => ?_, fun hr h1 h2 => ?_, fun hr h1 h2 h3 => ?_, fun hr h1 h2 h3 => ?_⟩
  · rw [hexec, simPutSession_range hr, State.simulated_refused]
  all_goals obtain ⟨k, hk, he⟩ := key hr
  · rw [he, if_pos (hroom.2 h1), State.simulated_refused]
  · rw [he, if_neg (mt hroom.1 h1), if_pos (hfull.2 h2), State.simulated_refused]
  · rw [he, if_neg (mt hroom.1 h1), if_neg (mt hfull.1 h2), if_pos (hheld.2 h3), State.simulated_refused]
  · rw [if_neg (mt hroom.1 h1), if_neg (mt hfull.1 h2), if_neg (mt hheld.1 h3), State.simulated_passed] at he
    refine ⟨_, k, he, hk, w.changesSessions_withSessions off _ fun r => mem_cons_append, fun i => Tab.get_set _ _ _ _⟩

/-! ## DROP, CANCEL and MOVE SESSION -/

theorem exec_dropSession {c : Check} {s : State} (ha : s.active = true) (hn : s.nextEntry = some (c, off, .dropSession id)) :
    exec .dropSession s = .next (s.simulated c off (simDropSession off id c.work)) := by
  show Host.Outcome.next (s.working _) = _
  rw [State.working_active ha, hn]

theorem exec_cancelSession {c : Check} {s : State} (ha : s.active = true)
    (hn : s.nextEntry = some (c, off, .cancelSession id)) :
    exec .cancelSession s = .next (s.simulated c off (simCancelSession off id c.work)) := by
  show Host.Outcome.next (s.working _) = _
  rw [State.working_active ha, hn]

theorem exec_moveSession {c : Check} {s : State} {room : Nat} (ha : s.active = true)
    (hn : s.nextEntry = some (c, off, .moveSession id room)) :
    exec .moveSession s = .next (s.simulated c off (simMoveSession off id room c.work)) := by
  show Host.Outcome.next (s.working _) = _
  rw [State.working_active ha, hn]

theorem simDropSession_unknownId (h : Tab.get w.sessions id = none) : simDropSession off id w = .refused .unknownId 0 := by
  unfold simDropSession; rw [h]

theorem simDropSession_some (h : Tab.get w.sessions id = some e) : simDropSession off id w =
    if w.held e.room then .refused .held 0
    else .passed (w.withSessions off (Tab.del w.sessions id) ([e.room] ++ e.movedFrom.toList)) := by
  unfold simDropSession; rw [h]; rfl

theorem simCancelSession_unknownId (h : Tab.get w.sessions id = none) : simCancelSession off id w = .refused .unknownId 0 := by
  unfold simCancelSession; rw [h]

theorem simCancelSession_some (h : Tab.get w.sessions id = some e) : simCancelSession off id w =
    if w.held e.room then .refused .held 0
    else if e.cancelled then .passed w
    else .passed (w.withSessions off (Tab.set w.sessions id { e with cancelled := true }) ([e.room] ++ e.movedFrom.toList)) := by
  unfold simCancelSession; rw [h]; rfl

theorem simMoveSession_unknownId {room : Nat} (h : Tab.get w.sessions id = none) :
    simMoveSession off id room w = .refused .unknownId 0 := by
  unfold simMoveSession; rw [h]

theorem simMoveSession_some {room : Nat} (h : Tab.get w.sessions id = some e) : simMoveSession off id room w =
    if room = e.room then .refused .range 0
    else if !Tab.has w.rooms room then .refused .unknownRoom 0
    else if w.held e.room || w.held room then .refused .held 0
    else .passed (w.withSessions off
      (Tab.set w.sessions id { e with room := room, movedFrom := if e.movedFrom = some room then none else some e.room })
      ([e.room, room] ++ e.movedFrom.toList)) := by
  unfold simMoveSession; rw [h]; rfl

/-- Settles O24: the tests of R16, R17 and R18 in order, and the record each entry leaves. -/
theorem dropCancelAndMoveSession : Obligations.DropCancelAndMoveSession := by
  unfold Obligations.DropCancelAndMoveSession
  intro c off id s ha w
  have heldIff : ∀ r, w.held r = true ↔ w.roomHeld r := w.held_iff_roomHeld
  refine ⟨fun hn => ⟨fun h => ?_, fun e h => ⟨fun hh => ?_, fun hh => ?_⟩⟩,
    fun hn => ⟨fun h => ?_, fun e h => ⟨fun hh => ?_, fun hh hc => ?_, fun hh hc => ?_⟩⟩,
    fun room hn => ⟨fun h => ?_, fun e h => ⟨fun hr => ?_, fun hr hu => ?_, fun hr hu hh => ?_, fun hr hu h1 h2 => ?_⟩⟩⟩
  · rw [exec_dropSession ha hn, simDropSession_unknownId h, State.simulated_refused]
  · rw [exec_dropSession ha hn, simDropSession_some h, if_pos ((heldIff _).2 hh), State.simulated_refused]
  · refine ⟨_, ?_, w.changesSessions_withSessions off (Tab.del w.sessions id) fun r => Iff.rfl, fun i => Tab.get_del _ _ _⟩
    rw [exec_dropSession ha hn, simDropSession_some h, if_neg (mt (heldIff _).1 hh), State.simulated_passed]
    rfl
  · rw [exec_cancelSession ha hn, simCancelSession_unknownId h, State.simulated_refused]
  · rw [exec_cancelSession ha hn, simCancelSession_some h, if_pos ((heldIff _).2 hh), State.simulated_refused]
  · rw [exec_cancelSession ha hn, simCancelSession_some h, if_neg (mt (heldIff _).1 hh), if_pos hc, State.simulated_passed]
  · refine ⟨_, ?_, w.changesSessions_withSessions off (Tab.set w.sessions id { e with cancelled := true }) fun r => Iff.rfl,
      fun i => Tab.get_set _ _ _ _⟩
    rw [exec_cancelSession ha hn, simCancelSession_some h, if_neg (mt (heldIff _).1 hh),
      if_neg (by rw [hc]; exact Bool.false_ne_true), State.simulated_passed]
    rfl
  · rw [exec_moveSession ha hn, simMoveSession_unknownId h, State.simulated_refused]
  · rw [exec_moveSession ha hn, simMoveSession_some h, if_pos hr, State.simulated_refused]
  · rw [exec_moveSession ha hn, simMoveSession_some h, if_neg hr, if_pos ((Tab.not_has_iff _ _).2 hu), State.simulated_refused]
  · rw [exec_moveSession ha hn, simMoveSession_some h, if_neg hr, if_neg (mt (Tab.not_has_iff _ _).1 hu),
      if_pos (by rw [Bool.or_eq_true, heldIff, heldIff]; exact hh), State.simulated_refused]
  · refine ⟨_, ?_, w.changesSessions_withSessions off (Tab.set w.sessions id { e with
      room := room, movedFrom := if e.movedFrom = some room then none else some e.room }) fun r => Iff.rfl,
      fun i => Tab.get_set _ _ _ _⟩
    rw [exec_moveSession ha hn, simMoveSession_some h, if_neg hr, if_neg (mt (Tab.not_has_iff _ _).1 hu),
      if_neg (by rw [Bool.or_eq_true, heldIff, heldIff]; tauto), State.simulated_passed]
    rfl

end Sessions

/-! ## PUT ROOM and SET CLOCK -/

section Rooms

variable {off policy room zone changeover : Nat} {name : Handle} {w : Work}

theorem simPutRoom_range (h : ¬ handleValid name ∨ 15 < zone ∨ 1 < policy ∨ 60 < changeover) :
    simPutRoom off policy room name zone changeover w = .refused .range 0 := by
  unfold simPutRoom
  by_cases hp : 1 < policy
  · rw [policyOf_none hp]
  · obtain ⟨p, hp'⟩ := policyOf_some (not_lt.1 hp)
    rw [hp']
    refine if_pos ?_
    simp only [Bool.or_eq_true, decide_eq_true_eq, Bool.not_eq_true', ← Bool.not_eq_true, requiredOk_iff]
    tauto

section Tested

variable (h : ¬ (¬ handleValid name ∨ 15 < zone ∨ 1 < policy ∨ 60 < changeover))
include h

theorem putRoom_inRange : ¬ (!requiredOk name || decide (15 < zone) || decide (60 < changeover)) = true := by
  simp only [Bool.or_eq_true, decide_eq_true_eq, Bool.not_eq_true', ← Bool.not_eq_true, requiredOk_iff]
  tauto

variable {p : Policy} (hp : policyOf policy = some p)
include hp

theorem simPutRoom_new (hr : Tab.get w.rooms room = none) : simPutRoom off policy room name zone changeover w =
    .passed (w.writeRoom off room
      { name := name, zone := zone, policy := p, changeover := changeover, state := .closed, current := 0, next := 0
        overlap := false }) := by
  simp only [simPutRoom, hp, if_neg (putRoom_inRange h), hr]
  rfl

theorem simPutRoom_old {r : Room} (hr : Tab.get w.rooms room = some r) : simPutRoom off policy room name zone changeover w =
    if { r with name := name, zone := zone, policy := p, changeover := changeover } = r then .passed w
    else .passed (w.writeRoom off room { r with name := name, zone := zone, policy := p, changeover := changeover }) := by
  simp only [simPutRoom, hp, if_neg (putRoom_inRange h), hr]
  rfl

end Tested

theorem exec_putRoom {c : Check} {s : State} (ha : s.active = true)
    (hn : s.nextEntry = some (c, off, .putRoom policy room name zone changeover)) :
    exec .putRoom s = .next (s.simulated c off (simPutRoom off policy room name zone changeover c.work)) := by
  show Host.Outcome.next (s.working _) = _
  rw [State.working_active ha, hn]

theorem exec_setClock {c : Check} {minute origin : Nat} {s : State} (ha : s.active = true)
    (hn : s.nextEntry = some (c, off, .setClock minute origin)) :
    exec .setClock s = .next (s.simulated c off (simSetClock minute origin c.work)) := by
  show Host.Outcome.next (s.working _) = _
  rw [State.working_active ha, hn]

end Rooms

/-- Settles O26: the one test of each, and the slot or the clock it leaves. -/
theorem putRoomAndSetClock : Obligations.PutRoomAndSetClock := by
  unfold Obligations.PutRoomAndSetClock
  intro c off s ha
  refine ⟨fun policy room name zone changeover hn => ⟨fun h => ?_, fun h => ?_⟩, fun minute origin hn => ⟨fun h => ?_, fun h => ?_⟩⟩
  · rw [exec_putRoom ha hn, simPutRoom_range h, State.simulated_refused]
  · obtain ⟨p, hp⟩ := policyOf_some (n := policy) (by by_contra hc; exact h (.inr (.inr (.inl (not_le.1 hc)))))
    refine ⟨p, hp, fun hr => ⟨_, ?_, c.work.changesRoom_writeRoom off room _⟩,
      fun r hr => ⟨fun he => ?_, fun he => ⟨_, ?_, c.work.changesRoom_writeRoom off room _⟩⟩⟩
    · rw [exec_putRoom ha hn, simPutRoom_new h hp hr, State.simulated_passed]
    · rw [exec_putRoom ha hn, simPutRoom_old h hp hr, if_pos he, State.simulated_passed]
    · rw [exec_putRoom ha hn, simPutRoom_old h hp hr, if_neg he, State.simulated_passed]
  · rw [exec_setClock ha hn, simSetClock, if_pos h, State.simulated_refused]
  · rw [exec_setClock ha hn, simSetClock, if_neg (not_lt.2 h), State.simulated_passed]

/-! ## PUT SIGN -/

section Signs

variable {off kind slot line lines address lookahead : Nat} {targets : List Nat} {w : Work}

/-- R139's RANGE of the target words. -/
def targetsRange (kind : Nat) (targets : List Nat) : Prop :=
  2 < kind ∨ (kind ≠ 2 ∧ ∃ r ∈ targets, 255 < r) ∨ (kind = 0 ∧ targets.length ≠ 1)
    ∨ (kind = 1 ∧ (targets.length < 1 ∨ 8 < targets.length)) ∨ (kind = 2 ∧ targets.length ≠ 1)

/-- The targets of a definition are those the words give: a room, a list of rooms, or a mask of zones (R139). -/
def targetsAre (kind : Nat) (targets : List Nat) (t : Targets) : Prop :=
  (kind = 0 → targets.map Targets.door = [t]) ∧ (kind = 1 → t = .corridor targets)
    ∧ (kind = 2 → targets.map (fun m => Targets.lobby (wordOf m)) = [t])

theorem targetsOf_none (h : targetsRange kind targets) : targetsOf kind targets = none := by
  unfold targetsRange at h
  unfold targetsOf
  split
  · next r => simp at h; exact if_neg (by omega)
  · next t ts =>
    refine if_neg fun hc => ?_
    simp only [Bool.and_eq_true, decide_eq_true_eq, List.all_eq_true] at hc
    rcases h with h | ⟨-, r, hr, h⟩ | h | ⟨-, h⟩ | h
    · omega
    · have := hc.2 r hr; omega
    · omega
    · simp only [List.length_cons] at h; omega
    · omega
  · simp at h
  · rfl

theorem targetsOf_some (h : ¬ targetsRange kind targets) : ∃ t, targetsOf kind targets = some t ∧ targetsAre kind targets t
    ∧ t.rooms = if kind = 2 then [] else targets := by
  unfold targetsRange at h
  simp only [not_or, not_and, not_exists] at h
  obtain ⟨hk, hr, h0, h1, h2⟩ := h
  have hle : kind ≤ 2 := by omega
  interval_cases kind
  · obtain ⟨r, rfl⟩ := List.length_eq_one_iff.1 (not_not.1 (h0 rfl))
    have hr := hr (by decide) r (by simp)
    exact ⟨.door r, if_pos (by omega), ⟨fun _ => rfl, nofun, nofun⟩, rfl⟩
  · have hr := hr (by decide)
    have h1 := h1 rfl
    cases targets with
    | nil => simp at h1
    | cons t ts =>
      refine ⟨.corridor (t :: ts), if_pos ?_, ⟨nofun, fun _ => rfl, nofun⟩, rfl⟩
      simp only [Bool.and_eq_true, decide_eq_true_eq, List.all_eq_true]
      simp only [List.length_cons] at h1
      exact ⟨by omega, fun x hx => not_lt.1 (hr x hx)⟩
  · obtain ⟨m, rfl⟩ := List.length_eq_one_iff.1 (not_not.1 (h2 rfl))
    exact ⟨.lobby (wordOf m), rfl, ⟨nofun, nofun, fun _ => rfl⟩, rfl⟩

/-- R139's RANGE. -/
def signRange (kind slot line address : Nat) (targets : List Nat) : Prop :=
  511 < slot ∨ 3 < line ∨ 127 < address ∨ targetsRange kind targets

theorem or_kind_comm (a k l d r : Prop) : a ∨ k ∨ l ∨ d ∨ r ↔ a ∨ l ∨ d ∨ k ∨ r := by tauto

theorem simPutSign_range (h : signRange kind slot line address targets) :
    simPutSign kind slot line lines address lookahead targets w = .refused .range 0 := by
  unfold simPutSign
  by_cases ht : targetsRange kind targets
  · rw [targetsOf_none ht]
  · obtain ⟨t, ht', -⟩ := targetsOf_some ht
    rw [ht']
    refine if_pos ?_
    simp only [Bool.or_eq_true, decide_eq_true_eq]
    unfold signRange at h
    tauto

/-- The working copy with a sign defined by an entry (R139). -/
def Work.defineSign (w : Work) (slot : Nat) (d : SignDef) : Work :=
  { w with signs := Tab.set w.signs slot d, named := insertIndex slot w.named }

/-- The definition an entry gives, clamped. -/
def signDefined (line lines address lookahead : Nat) (t : Targets) : SignDef :=
  { line := Fin.ofNat 4 line, address := address, lines := clamp 1 8 lines, lookahead := clamp 0 720 lookahead, targets := t }

section Tested

variable (h : ¬ signRange kind slot line address targets)
include h

theorem putSign_inRange : ¬ (decide (511 < slot) || decide (3 < line) || decide (127 < address)) = true := by
  simp only [Bool.or_eq_true, decide_eq_true_eq]
  unfold signRange at h
  tauto

variable {t : Targets} (ht : targetsOf kind targets = some t)
include ht

theorem simPutSign_unknownRoom (hr : (t.rooms.any fun r => !Tab.has w.rooms r) = true) :
    simPutSign kind slot line lines address lookahead targets w = .refused .unknownRoom 0 := by
  simp only [simPutSign, ht, if_neg (putSign_inRange h), if_pos hr]

variable (hr : ¬ (t.rooms.any fun r => !Tab.has w.rooms r) = true)
include hr

theorem simPutSign_clash {e : Nat × SignDef}
    (he : (w.signs.find? fun e => e.1 ≠ slot && e.2.line.val = line && e.2.address = address) = some e) :
    simPutSign kind slot line lines address lookahead targets w = .refused .clash e.1 := by
  simp only [simPutSign, ht, if_neg (putSign_inRange h), if_neg hr]
  rw [he]

theorem simPutSign_passed (he : (w.signs.find? fun e => e.1 ≠ slot && e.2.line.val = line && e.2.address = address) = none) :
    simPutSign kind slot line lines address lookahead targets w =
      .passed (w.defineSign slot (signDefined line lines address lookahead t)) := by
  simp only [simPutSign, ht, if_neg (putSign_inRange h), if_neg hr]
  rw [he]
  rfl

end Tested

theorem exec_putSign {c : Check} {s : State} (ha : s.active = true)
    (hn : s.nextEntry = some (c, off, .putSign kind slot line lines address lookahead targets)) : exec .putSign s =
      .next (s.simulated c off (simPutSign kind slot line lines address lookahead targets c.work)) := by
  show Host.Outcome.next (s.working _) = _
  rw [State.working_active ha, hn]

end Signs

/-- Settles O28: R139's tests in order, CLASH at the lowest slot that holds the place, and the definition given. -/
theorem putSignDefinesTheSlot : Obligations.PutSignDefinesTheSlot := by
  unfold Obligations.PutSignDefinesTheSlot
  intro c off kind slot line lines address lookahead targets s ha hn hs w n range unknown holds
  have hexec := exec_putSign ha hn
  have hrange : range ↔ signRange kind slot line address targets := by
    unfold range n signRange targetsRange
    exact or_kind_comm ..
  have tested : ¬ range → ∃ t, targetsOf kind targets = some t ∧ targetsAre kind targets t
      ∧ ((t.rooms.any fun r => !Tab.has w.rooms r) = true ↔ unknown) := fun hr => by
    obtain ⟨t, ht, hare, hrooms⟩ := targetsOf_some fun h => hr (hrange.2 (.inr (.inr (.inr h))))
    refine ⟨t, ht, hare, ?_⟩
    simp only [hrooms, List.any_eq_true, Tab.not_has_iff]
    by_cases hk : kind = 2 <;> simp [unknown, hk, Work.noRoom]
  refine ⟨fun hr => ?_, fun hr hu => ?_, fun hr hu i hi hlow => ?_, fun hr hu hno => ?_⟩
  · rw [hexec, simPutSign_range (hrange.1 hr), State.simulated_refused]
  all_goals
    obtain ⟨t, ht, hare, hany⟩ := tested hr
    have hr' : ¬ signRange kind slot line address targets := mt hrange.2 hr
  · rw [hexec, simPutSign_unknownRoom hr' ht (hany.2 hu), State.simulated_refused]
  · obtain ⟨d, hd, hne, hl, had⟩ := hi
    have hf : (w.signs.find? fun e => e.1 ≠ slot && e.2.line.val = line && e.2.address = address) = some (i, d) :=
      find?_eq_some_of_least ((Tab.sorted_iff _).1 hs) (Tab.mem_of_get hd) (by simp [hne, hl, had]) fun y hy hp hlt => by
        simp only [Bool.and_eq_true, decide_eq_true_eq] at hp
        exact hlow y.1 hlt ⟨y.2, Tab.get_of_mem hs hy, hp.1.1, hp.1.2, hp.2⟩
    rw [hexec, simPutSign_clash hr' ht (mt hany.1 hu) hf, State.simulated_refused]
  · have hf : (w.signs.find? fun e => e.1 ≠ slot && e.2.line.val = line && e.2.address = address) = none := by
      rw [List.find?_eq_none]
      intro y hy hp
      simp only [Bool.and_eq_true, decide_eq_true_eq] at hp
      exact hno y.1 ⟨y.2, Tab.get_of_mem hs hy, hp.1.1, hp.1.2, hp.2⟩
    have hline : line ≤ 3 := by
      by_contra hc
      exact hr' (.inr (.inl (not_le.1 hc)))
    obtain ⟨h0, h1, h2⟩ := hare
    refine ⟨w.defineSign slot (signDefined line lines address lookahead t), signDefined line lines address lookahead t, ?_, rfl,
      fun i => Tab.get_set _ _ _ _, fun i => mem_insertIndex _ _ _, ?_, rfl, clamp_eq (by decide) _, ?_, h0, h1, h2⟩
    · rw [hexec, simPutSign_passed hr' ht (mt hany.1 hu) hf, State.simulated_passed]
    · show line % 4 = line
      omega
    · exact (clamp_eq (by decide) _).trans (Nat.zero_max _)

end Sys2Proof.Machine
end

section
/-! What is on its way to the event flags, operation by operation; lane results, and the answers to minutes (R44, R50, R51,
R106, R178). -/

namespace Sys2Proof.Machine

variable {s t u v : State}

/-! ## What an operation raises -/

/-- From `s` to `t` the flags `f` have been raised, and what was on its way still is. -/
def State.raisesAlso (s t : State) (f : BitVec 13) : Prop :=
  ∀ e : Event, t.raising e.mask = true ↔ s.raising e.mask = true ∨ f.getLsbD e.bit = true

theorem getLsbD_zero13 (i : Nat) : (0 : BitVec 13).getLsbD i = false := BitVec.getLsbD_zero

theorem raisesAlso_same (h : t.post = s.post) : s.raisesAlso t 0 := fun e => by
  unfold State.raising
  rw [h, getLsbD_zero13]
  simp

theorem State.raisesAlso.trans {f g : BitVec 13} (h1 : s.raisesAlso t f) (h2 : t.raisesAlso u g) : s.raisesAlso u (f ||| g) :=
  fun e => by rw [h2, h1, BitVec.getLsbD_or, Bool.or_eq_true, or_assoc]

theorem State.raisesAlso.quiet {f : BitVec 13} (h1 : s.raisesAlso t f) (h2 : t.raisesAlso u 0) : s.raisesAlso u f := by
  have h := h1.trans h2
  rwa [show f ||| 0 = f from BitVec.or_zero] at h

theorem State.raisesAlso.after {f : BitVec 13} (h1 : s.raisesAlso t 0) (h2 : t.raisesAlso u f) : s.raisesAlso u f := by
  have h := h1.trans h2
  rwa [show 0 ||| f = f from BitVec.zero_or] at h

theorem raisesAlso_foldl {β : Type} {f : State → β → State} (h : ∀ (s : State) b, s.raisesAlso (f s b) 0) (l : List β) (s : State) :
    s.raisesAlso (l.foldl f s) 0 := by
  induction l generalizing s with
  | nil => exact raisesAlso_same rfl
  | cons b l ih => exact (h s b).quiet (ih _)

theorem raisesAlso_handRaise (s : State) (f : BitVec 13) : s.raisesAlso (s.handRaise f) f := fun e => raising_handRaise s f e

/-- A record that is no raise raises the flags that tell of it. -/
theorem raisesAlso_hand (s : State) {it : Item} (hp : it.producer ≠ .fill) (hr : ∀ f, it.record ≠ .raise f) :
    s.raisesAlso (s.hand it) it.raises := fun e => by
  rw [raising_hand s hp, carries_iff]
  refine or_congr_right ⟨fun h => h.resolve_right fun ⟨g, hg, _⟩ => hr g hg, .inl⟩

theorem joinEcho_carries {sec : Section} {f : BitVec 13} {l w : List Item} (h : joinEcho sec f l = some w) (e : Event) :
    (∃ it ∈ w, it.carries e.mask = true) ↔ (∃ it ∈ l, it.carries e.mask = true) ∨ f.getLsbD e.bit = true := by
  induction l generalizing w with
  | nil => cases h
  | cons it t ih =>
    rw [joinEcho] at h
    split at h
    · next hr =>
      cases h
      simp only [List.mem_cons, exists_eq_or_imp, carries_iff, hr, reduceCtorEq, false_and, exists_false, or_false,
        BitVec.getLsbD_or, Bool.or_eq_true]
      exact or_right_comm
    · cases hj : joinEcho sec f t with
      | none => rw [hj] at h; cases h
      | some x =>
        rw [hj] at h
        cases h
        simp only [List.mem_cons, exists_eq_or_imp, ih hj, or_assoc]

theorem raisesAlso_handEcho (s : State) (sec : Section) (f : BitVec 13) : s.raisesAlso (s.handEcho sec f) f := by
  unfold State.handEcho
  split
  · split
    · next w hw =>
      intro e
      rw [raising_iff, raising_iff]
      simp only [State.setWaiting_post, List.mem_append, or_and_right, exists_or, joinEcho_carries hw e]
      exact or_right_comm
    · exact raisesAlso_hand s (it := { producer := .post, record := .echo sec, raises := f }) nofun nofun
  · exact raisesAlso_handRaise s f

theorem raisesAlso_sections {F : State → Section → State} {f : BitVec 13} (h1 : ∀ t : State, t.raisesAlso (F t .summary) f)
    (h2 : ∀ (t : State) sec, sec ≠ .summary → t.raisesAlso (F t sec) 0) (s : State) : s.raisesAlso (allSections.foldl F s) f :=
  (((h1 s).quiet (h2 _ .control nofun)).quiet (h2 _ .signs nofun)).quiet (h2 _ .lines nofun)

/-- The flags of a change are raised once, with its summary or alone (R179, R184). -/
theorem raisesAlso_syncEcho (s old : State) (f : BitVec 13) : s.raisesAlso (s.syncEcho old f) f := by
  refine raisesAlso_sections (fun t => ?_) (fun t sec hs => ?_) s
  · split
    · exact raisesAlso_handEcho t _ f
    · exact raisesAlso_handRaise t f
  · split
    · exact raisesAlso_handEcho t _ 0
    · exact raisesAlso_same rfl

theorem raisesAlso_syncRooms (s old : State) : s.raisesAlso (s.syncRooms old) 0 := by
  unfold State.syncRooms
  refine raisesAlso_foldl (fun u e => ?_) _ s
  exact raisesAlso_hand u (it := { producer := .rooms, record := .room e.1, raises := 0 }) nofun nofun

/-- Health records handed with no flags raise nothing. -/
theorem raisesAlso_handHealth (s old : State) {p : Producer} (hp : p ≠ .fill) (changed : Nat → Bool) :
    s.raisesAlso (s.handHealth old p [] changed) 0 := by
  unfold State.handHealth
  refine raisesAlso_foldl (fun u i => ?_) _ s
  exact raisesAlso_hand u (it := { producer := p, record := .health i, raises := 0 }) hp nofun

theorem raisesAlso_syncHealth (s old : State) {p : Producer} (hp : p ≠ .fill) : s.raisesAlso (s.syncHealth old p) 0 :=
  raisesAlso_handHealth s old hp _

theorem raisesAlso_handNext (s : State) (p : Producer) : s.raisesAlso (s.handNext p) 0 := fun e => by
  rw [raising_handNext, getLsbD_zero13]; simp

/-- A record that enters raises the flags that tell of it (R179). -/
theorem raisesAlso_enter (s : State) {it : Item} (hp : it.producer ≠ .fill) : s.raisesAlso (s.enter it) it.raises := by
  have h1 : s.raisesAlso (s.enqueue it.record) 0 := fun e => by
    rw [getLsbD_zero13, show (s.enqueue it.record).raising e.mask = s.raising e.mask from rfl]; simp
  have h2 := (h1.after (raisesAlso_handRaise _ it.raises)).quiet (raisesAlso_handNext _ it.producer)
  rw [enter_eq s hp]
  split
  · exact h2.quiet fun e => by rw [raising_settleEngine, getLsbD_zero13]; simp
  · exact h2

theorem getLsbD_when (e f : Event) (b : Bool) : (f.when b).getLsbD e.bit = true ↔ e = f ∧ b = true := by
  unfold Event.when
  cases b
  · simp
  · simp [getLsbD_mask]

/-! ## Records that enter, whole -/

theorem post_handNext_stamps (s : State) (p : Producer) : (s.handNext p).post.stamps = s.post.stamps := by
  unfold State.handNext; split <;> rfl

/-- A record of a block that nothing waits for: what entering leaves, but for what is on its way. -/
theorem enter_silent {it : Item} (hp : it.producer ≠ .fill) (hn : it.producer.settles = none) :
    s.enter it = ((s.enqueue it.record).handRaise it.raises).handNext it.producer := by
  rw [enter_eq s hp, hn]

theorem stamp_enter {it : Item} (hp : it.producer ≠ .fill) (hn : it.producer.settles = none) (o : Nat) :
    (s.enter it).stamp o = (s.enqueue it.record).stamp o := by
  unfold State.stamp
  rw [enter_silent hp hn, post_handNext_stamps, handRaise_eq]
  rfl

theorem hasPlaces_iff (k : Nat) : s.hasPlaces k = true ↔ s.path.postQueue.length + k ≤ 64 := by
  unfold State.hasPlaces
  exact decide_eq_true_iff

theorem postsOnly_withLane (h : State.postsOnly s t) (l : LaneUnit) :
    State.postsOnly { s with lane := l } { t with lane := l } := by
  have hb : t.bare = s.bare := h
  exact congrArg (fun y : State => { y with lane := l }) hb

/-! ## Lane results -/

theorem laneResultBody_eq (r : LaneResult) : laneResultBody r =
    [ wordOf (r.sequence.toNat + 256 * r.expected.toNat)
    , wordOf (resultCode r.code + 256 * r.endOffset)
    , wordOf (r.failing + 256 * r.starts)
    , wordOf (r.entries + 256 * r.passed)
    , wordOf r.first
    , wordOf r.second, 0, 0, 0, 0, 0, 0, 0, 0 ] := by
  simp [laneResultBody, place, Nat.mul_comm]

section Lanes

variable {n : Fin 4} {p : Producer} {r : LaneResult} {ends : Bool} {rest : List Item}

theorem waitingResult_eq (hp : p ≠ .fill)
    (hw : s.post.waiting = { producer := p, record := .laneResult n r ends, raises := (Event.lane n).mask } :: rest) :
    s.waitingResult = some ({ producer := p, record := .laneResult n r ends, raises := (Event.lane n).mask }, n, ends, rest) := by
  unfold State.waitingResult
  rw [hw]
  exact if_neg (by simp [Item.plain, hp])

theorem exec_laneResult (ha : s.active = true) (hp : p ≠ .fill)
    (hw : s.post.waiting = { producer := p, record := .laneResult n r ends, raises := (Event.lane n).mask } :: rest) :
    exec .laneResult s = .next (if s.hasPlaces 16 then
        if ends then
          ((s.setWaiting rest).enter
            { producer := p, record := .laneResult n r ends, raises := (Event.lane n).mask }).releaseLane n
        else (s.setWaiting rest).enter { producer := p, record := .laneResult n r ends, raises := (Event.lane n).mask }
      else s) := by
  show Host.Outcome.next (s.working _) = _
  rw [State.working_active ha, waitingResult_eq hp hw]
  rfl

/-- A lane released: OPEN with its capture cleared, out of the queue; the next head is APPLYING while the part is RUNNING. -/
theorem releaseLane_lanes (s : State) (n : Fin 4) :
    (s.releaseLane n).lane.batch = .none ∧ (s.releaseLane n).lane.commit = s.lane.commit.filter (· ≠ n)
      ∧ (s.releaseLane n).laneAt n = { s.laneAt n with state := .opened, shadow := [], accepted := none }
      ∧ ∀ m, m ≠ n → (s.releaseLane n).laneAt m =
        if s.setup.phase = .running ∧ (s.releaseLane n).lane.commit.head? = some m ∧ (s.laneAt m).state = .queued then
          { s.laneAt m with state := .applying }
        else s.laneAt m := by
  let c := s.setLane n { s.laneAt n with state := .opened, shadow := [], accepted := none }
  let u : State := { c with lane := { c.lane with commit := c.lane.commit.filter (· ≠ n), batch := .none } }
  have hu : ∀ m, u.laneAt m = if m = n then { s.laneAt n with state := .opened, shadow := [], accepted := none } else s.laneAt m :=
    fun m => laneAt_setLane s n m _
  have hr : s.releaseLane n = u.promoteHead := rfl
  have hhead : ∀ m, u.lane.commit.head? = some m → m ≠ n := fun m hm => by
    have := List.mem_of_mem_head? hm
    simp only [u, List.mem_filter, decide_eq_true_eq] at this
    exact this.2
  rw [hr]
  by_cases hq : u.setup.phase = .running ∧ ∃ m, u.lane.commit.head? = some m ∧ (u.laneAt m).state = .queued
  · obtain ⟨hp, m, hm, hs⟩ := hq
    obtain ⟨l, hl⟩ : ∃ l, u.lane.commit = m :: l := by
      cases hc : u.lane.commit with
      | nil => rw [hc] at hm; cases hm
      | cons a l => rw [hc] at hm; cases hm; exact ⟨l, rfl⟩
    have hmn := hhead m hm
    rw [promoteHead_queued hp hl hs]
    refine ⟨rfl, rfl, ?_, fun k hk => ?_⟩
    · rw [laneAt_setLane, if_neg (Ne.symm hmn), hu, if_pos rfl]
    · rw [laneAt_setLane]
      have hum : u.laneAt m = s.laneAt m := (hu m).trans (if_neg hmn)
      have hcm : (u.setLane m { u.laneAt m with state := .applying }).lane.commit.head? = some m := hm
      rw [hcm, hum]
      rw [hum] at hs
      by_cases hkm : k = m
      · subst hkm
        rw [if_pos rfl, if_pos ⟨hp, rfl, hs⟩]
      · rw [if_neg hkm, if_neg fun h => hkm (Option.some.inj h.2.1).symm, hu, if_neg hk]
  · rw [promoteHead_same (s := u)]
    · refine ⟨rfl, rfl, (hu n).trans (if_pos rfl), fun k hk => ?_⟩
      rw [hu, if_neg hk, if_neg]
      rintro ⟨hp, hk', hs⟩
      exact hq ⟨hp, k, hk', by rw [hu, if_neg hk]; exact hs⟩
    · intro m hm
      by_contra hcon
      simp only [ne_eq, not_or, not_not] at hcon
      exact hq ⟨hcon.2, m, hm, hcon.1⟩

theorem promoteHead_frame (s : State) : s.promoteHead = { s with lane := s.promoteHead.lane } := by
  unfold State.promoteHead
  split
  · split <;> rfl
  · rfl

theorem releaseLane_frame (s : State) (n : Fin 4) : s.releaseLane n = { s with lane := (s.releaseLane n).lane } := by
  unfold State.releaseLane
  rw [promoteHead_frame]
  rfl

/-- Settles O32. -/
theorem laneResultEntersAndFreesTheLane : Obligations.LaneResultEntersAndFreesTheLane := by
  unfold Obligations.LaneResultEntersAndFreesTheLane
  intro p n r ends rest s ha hp hw
  dsimp only
  have hpf : p ≠ .fill := by rcases hp with rfl | rfl <;> nofun
  have hset : p.settles = none := by rcases hp with rfl | rfl <;> rfl
  have hexec := exec_laneResult ha hpf hw
  let it : Item := { producer := p, record := .laneResult n r ends, raises := (Event.lane n).mask }
  let x := (s.setWaiting rest).enter it
  have hpath : x.path.postQueue = s.path.postQueue ++ entriesFrom (0x600 + 0x20 * n.val)
      ([s.stamp (0x600 + 0x20 * n.val) + 1] ++ laneResultBody r ++ [s.stamp (0x600 + 0x20 * n.val) + 2]) :=
    congrArg PathUnit.postQueue (path_enter (s := s.setWaiting rest) (it := it) hpf)
  have hstamp : x.stamp (0x600 + 0x20 * n.val) = s.stamp (0x600 + 0x20 * n.val) + 2 := by
    refine (stamp_enter (s := s.setWaiting rest) (it := it) hpf hset _).trans ?_
    show (Tab.get (Tab.set s.post.stamps (0x600 + 0x20 * n.val) (s.stamp (0x600 + 0x20 * n.val) + 2)) _).getD 0 = _
    rw [Tab.get_set_self]
    rfl
  have hraise : ∀ e : Event, x.raising e.mask = true ↔ s.raising e.mask = true := fun e => by
    rw [raisesAlso_enter (s.setWaiting rest) (it := it) hpf e, raising_iff, raising_iff]
    have hc : it.carries e.mask = true ↔ it.raises.getLsbD e.bit = true := by
      rw [carries_iff]
      exact ⟨fun h => h.resolve_right fun ⟨g, hg, _⟩ => (by cases hg), .inl⟩
    simp only [State.setWaiting_post, hw, List.cons_append, List.mem_cons, exists_eq_or_imp]
    rw [show Item.carries { producer := p, record := .laneResult n r ends, raises := (Event.lane n).mask } e.mask = true ↔
      it.raises.getLsbD e.bit = true from hc]
    exact or_comm
  have hlane : x.raising (Event.lane n).mask = true := (raisesAlso_enter (s.setWaiting rest) (it := it) hpf _).2
    (.inr ((getLsbD_mask _ _).2 rfl))
  have hposts : State.postsOnly s x := by
    show State.postsOnly (s.setWaiting rest) ((s.setWaiting rest).enter it)
    rw [enter_silent (s := s.setWaiting rest) (it := it) hpf hset]
    exact ((postsOnly_enqueue _ _).trans (postsOnly_handRaise _ _)).trans (postsOnly_handNext _ _)
  have hxlane : x.lane = s.lane := hposts.read State.lane fun _ => rfl
  have hxl : ∀ m, x.laneAt m = s.laneAt m := laneAt_congr hxlane
  refine ⟨fun h => ?_, fun h => ?_⟩
  · rw [hexec, if_neg (mt (hasPlaces_iff 16).1 (by omega))]
  · rw [if_pos ((hasPlaces_iff 16).2 h)] at hexec
    rw [laneResultBody_eq] at hpath
    cases ends with
    | false =>
      exact ⟨x, hexec, hpath, hstamp, hlane, fun e => by rw [hraise]; simp, by rw [hxlane]; exact hposts, fun _ => hxlane, nofun⟩
    | true =>
      obtain ⟨h1, h2, h3, h4⟩ := releaseLane_lanes x n
      have hf := releaseLane_frame x n
      have hrun : x.setup.phase = s.setup.phase := hposts.read (·.setup.phase) fun _ => rfl
      have hpost : (x.releaseLane n).post = x.post := by rw [hf]
      have hr : ∀ e : Event, (x.releaseLane n).raising e.mask = x.raising e.mask := fun e => by
        unfold State.raising; rw [hpost]
      refine ⟨x.releaseLane n, hexec, ?_, ?_, ?_, fun e => ?_, ?_, nofun, fun _ => ⟨h1, ?_, ?_, fun m hm => ?_⟩⟩
      · rw [hf]; exact hpath
      · unfold State.stamp; rw [hpost]; exact hstamp
      · rw [hr]; exact hlane
      · rw [hr, hraise]; simp
      · have h5 := postsOnly_withLane hposts (x.releaseLane n).lane
        rw [← hf] at h5
        exact h5
      · rw [h2, hxlane]
      · rw [h3, hxl]
      · rw [h4 m hm, hxl, hrun]

end Lanes

end Sys2Proof.Machine
end

section
/-! The end of a check, minute events and their answers (R9, R10, R37, R49 to R51, R106). -/

namespace Sys2Proof.Machine

variable {s t u v : State}

/-! ## The first conflict of a chain, the first room in conflict -/

theorem firstConflict_some {m : BitVec 10} {l : List (Nat × Session)} (hl : l.Pairwise chainPrecedes) {x y : Nat × Session}
    (hx : x ∈ l) (hy : y ∈ l) (hxy : chainPrecedes x y) (hc : conflicting m x.2 y.2 = true)
    (hfirst : ∀ a ∈ l, ∀ b ∈ l, chainPrecedes a b → conflicting m a.2 b.2 = true → ¬ chainPrecedes a x)
    (hsecond : ∀ b ∈ l, chainPrecedes x b → conflicting m x.2 b.2 = true → ¬ chainPrecedes b y) :
    firstConflict m l = some (x.1, y.1) := by
  induction l with
  | nil => cases hx
  | cons z l ih =>
    obtain ⟨hz, hl'⟩ := List.pairwise_cons.1 hl
    unfold firstConflict
    rcases List.mem_cons.1 hx with rfl | hxl
    · have hyl : y ∈ l := (List.mem_cons.1 hy).resolve_left fun h => chainPrecedes_irrefl _ (h ▸ hxy)
      have hf : l.find? (fun b => conflicting m x.2 b.2) = some y :=
        find?_eq_some_of_least hl' hyl hc fun b hb hcb => hsecond b (List.mem_cons_of_mem _ hb) (hz b hb) hcb
      rw [hf]
    · have hyl : y ∈ l := (List.mem_cons.1 hy).resolve_left fun h => chainPrecedes_asymm (hz x hxl) (h ▸ hxy)
      have hf : l.find? (fun b => conflicting m z.2 b.2) = none := by
        rw [List.find?_eq_none]
        intro b hb hcb
        exact hfirst z List.mem_cons_self b (List.mem_cons_of_mem _ hb) (hz b hb) hcb (hz x hxl)
      rw [hf]
      exact ih hl' hxl hyl (fun a ha b hb => hfirst a (List.mem_cons_of_mem _ ha) b (List.mem_cons_of_mem _ hb))
        fun b hb => hsecond b (List.mem_cons_of_mem _ hb)

theorem judgeOverlap_some {m : BitVec 10} {w : Work} {t : Tab Nat} (ht : Tab.sorted t = true) {i off a b : Nat} {r : Room}
    (hi : (i, off) ∈ t) (hr : Tab.get w.rooms i = some r) (hp : r.policy = .strict)
    (hc : firstConflict m (chainOf w.sessions i) = some (a, b))
    (hlow : ∀ e ∈ t, e.1 < i → ∀ q, Tab.get w.rooms e.1 = some q → q.policy = .strict →
      firstConflict m (chainOf w.sessions e.1) = none) :
    judgeOverlap m w t = some { code := .overlap, failing := off, first := a, second := b } := by
  induction t with
  | nil => cases hi
  | cons e t ih =>
    obtain ⟨he, ht'⟩ := List.pairwise_cons.1 ((Tab.sorted_iff _).1 ht)
    rw [judgeOverlap_cons]
    rcases List.mem_cons.1 hi with rfl | hi
    · simp only [hr, hp, if_true, hc]
    · have hnext := ih ((Tab.sorted_iff _).2 ht') hi fun x hx => hlow x (List.mem_cons_of_mem _ hx)
      have hlt : e.1 < i := he _ hi
      cases hq : Tab.get w.rooms e.1 with
      | none => exact hnext
      | some q =>
        by_cases hs : q.policy = .strict
        · simp only [hs, if_true, hlow e List.mem_cons_self hlt q hq hs]
          exact hnext
        · simp only [hs, if_false]
          exact hnext

theorem firstConflict_chain_some {m : BitVec 10} {w : Work} {i : Nat} (hs : Tab.sorted w.sessions = true) {x y : Nat × Session}
    (hc : w.conflict m i x y) (hfirst : ∀ a b, w.conflict m i a b → ¬ chainPrecedes a x)
    (hsecond : ∀ b, w.conflict m i x b → ¬ chainPrecedes b y) :
    firstConflict m (chainOf w.sessions i) = some (x.1, y.1) := by
  obtain ⟨hx, hy, hxr, hyr, hxy, hrest⟩ := hc
  have conflict : ∀ a ∈ chainOf w.sessions i, ∀ b ∈ chainOf w.sessions i, chainPrecedes a b → conflicting m a.2 b.2 = true →
      w.conflict m i a b := fun a ha b hb hab hc => by
    obtain ⟨ha, har⟩ := mem_chainOf.1 ha
    obtain ⟨hb, hbr⟩ := mem_chainOf.1 hb
    exact ⟨ha, hb, har, hbr, hab, conflicting_eq_true.1 hc⟩
  exact firstConflict_some (pairwise_chainOf hs) (mem_chainOf.2 ⟨hx, hxr⟩) (mem_chainOf.2 ⟨hy, hyr⟩) hxy
    (conflicting_eq_true.2 hrest) (fun a ha b hb hab hc => hfirst a b (conflict a ha b hb hab hc))
    fun b hb hab hc => hsecond b (conflict x (mem_chainOf.2 ⟨hx, hxr⟩) b hb hab hc)

theorem exec_checkEnd {n : Fin 4} {c : Check} (ha : s.active = true) (hb : s.lane.batch = .checking c)
    (hn : s.applyingLane = some n) (hc : s.clock.storeSignals = 0) : exec .checkEnd s = .next (s.finishCheck n c) := by
  show Host.Outcome.next (s.working _) = _
  rw [State.working_active ha, hb, hn]
  simp only [hc, if_true]

theorem finishCheck_refused {n : Fin 4} {c : Check} {r : Refused} (h : endOfCheck s.setup.matrix c = .refused r) :
    s.finishCheck n c = s.resultHanded .post n (refusedResult (s.laneAt n) c r) := by
  unfold State.finishCheck
  rw [h]
  exact endBatch_post s n _

theorem finishCheck_passes {n : Fin 4} {c : Check} (h : endOfCheck s.setup.matrix c = .passes) :
    s.finishCheck n c = s.setBatch (.applyRequested c) := by
  unfold State.finishCheck
  rw [h]

theorem endOfCheck_refusal {m : BitVec 10} {c : Check} {r : Refused} (h : c.refusal = some r) : endOfCheck m c = .refused r := by
  unfold endOfCheck; rw [h]

theorem endOfCheck_judged {m : BitVec 10} {c : Check} (h : c.refusal = none) (hp : c.passed = c.entries.length) :
    (judgeOverlap m c.work c.work.touched = none → endOfCheck m c = .passes)
      ∧ ∀ r, judgeOverlap m c.work c.work.touched = some r → endOfCheck m c = .refused r := by
  unfold endOfCheck
  rw [h]
  simp only [hp, Nat.lt_irrefl, if_false]
  exact ⟨fun hj => by rw [hj], fun r hj => by rw [hj]⟩

/-- Settles O30. -/
theorem checkEndJudgesTheBatch : Obligations.CheckEndJudgesTheBatch := by
  unfold Obligations.CheckEndJudgesTheBatch
  intro n c s ha hb hn hc
  dsimp only
  rw [exec_checkEnd ha hb hn hc]
  refine ⟨fun r hr => ?_, fun hr hp ht hs => ⟨fun hfree => ?_, fun i off x y hi hxy hlow hfirst hsecond => ?_⟩⟩
  · rw [finishCheck_refused (endOfCheck_refusal hr)]
    rfl
  · obtain ⟨hpass, -⟩ := endOfCheck_judged (m := s.setup.matrix) hr hp
    rw [finishCheck_passes (hpass (judgeOverlap_eq_none.2 fun e he r hr hp =>
      (firstConflict_chainOf hs).2 (hfree e.1 e.2 ⟨he, r, hr, hp⟩)))]
  · obtain ⟨him, r, hroom, hpol⟩ := hi
    obtain ⟨-, href⟩ := endOfCheck_judged (m := s.setup.matrix) hr hp
    have hj := judgeOverlap_some ht him hroom hpol (firstConflict_chain_some hs hxy hfirst hsecond) fun e he hlt q hq hqs =>
      (firstConflict_chainOf hs).2 (hlow e.1 e.2 ⟨he, q, hq, hqs⟩ hlt)
    rw [finishCheck_refused (href _ hj)]
    rfl

/-! ## Minute events -/

/-- A minute event that is counted (R50, R51, R96). -/
theorem minuteEvent_counted (h : s.counts = true) :
    s.minuteEvent.clock = countedClock s.clock
      ∧ (∀ i, i ∈ s.minuteEvent.comp.dirty ↔ i ∈ s.comp.dirty ∨ (s.sign i).isSome = true)
      ∧ State.postsOnly { s with
          clock := s.minuteEvent.clock, comp := { s.comp with dirty := s.minuteEvent.comp.dirty } } s.minuteEvent
      ∧ s.raisesAlso s.minuteEvent (Event.when .clockEnd (s.clock.now + 1 = 65535)) := by
  let a : State := { s with clock := countedClock s.clock }
  have hm : s.minuteEvent = a.markAll.syncEcho s (Event.when .clockEnd (s.clock.now + 1 = 65535)) := if_pos h
  have hp := postsOnly_syncEcho a.markAll s (Event.when .clockEnd (s.clock.now + 1 = 65535))
  have hr := raisesAlso_syncEcho a.markAll s (Event.when .clockEnd (s.clock.now + 1 = 65535))
  rw [← hm] at hp hr
  have hmark := markWhere_dirty a fun _ => true
  have hcomp : s.minuteEvent.comp = a.markAll.comp := hp.read State.comp fun _ => rfl
  have hclock : s.minuteEvent.clock = countedClock s.clock := by
    refine (hp.read State.clock fun _ => rfl).trans ?_
    unfold State.markAll
    rw [hmark]
  have hpost : a.markAll.post = s.post := by unfold State.markAll; rw [hmark]
  refine ⟨hclock, fun i => ?_, ?_, (raisesAlso_same hpost).after hr⟩
  · rw [hcomp]; exact mem_markAll
  · rw [hclock, hcomp]
    unfold State.markAll at hp
    rw [hmark] at hp
    exact hp

theorem counts_iff (s : State) : s.counts = true ↔ s.clock.state = .running ∧ s.setup.clockRun = true := by
  simp [State.counts]

theorem minuteEvent_not_counted (h : ¬ s.counts = true) : s.minuteEvent = s := if_neg h

/-- A counted event of `u`, the state `s` come to the event. -/
theorem event_advances (hclock : u.clock.now = s.clock.now ∧ u.clock.storeSignals = s.clock.storeSignals
      ∧ u.clock.creditSignals = s.clock.creditSignals) (hpost : u.post = s.post) (hcomp : u.comp = s.comp)
    (hsigns : u.signs = s.signs) (h : u.counts = true) :
    u.minuteEvent.clock =
        { u.clock with
          now := s.clock.now + 1
          state := if s.clock.now + 1 = 65535 then .ended else .running
          storeSignals := s.clock.storeSignals + 1
          creditSignals := s.clock.creditSignals + 1 }
      ∧ (∀ i, i ∈ u.minuteEvent.comp.dirty ↔ i ∈ s.comp.dirty ∨ (s.sign i).isSome = true)
      ∧ State.postsOnly { u with clock := u.minuteEvent.clock, comp := { s.comp with dirty := u.minuteEvent.comp.dirty } }
          u.minuteEvent
      ∧ State.raisesOnly s u.minuteEvent (fun e => e = .clockEnd ∧ s.clock.now + 1 = 65535) := by
  obtain ⟨h1, h2, h3, h4⟩ := minuteEvent_counted h
  obtain ⟨hn, hst, hcr⟩ := hclock
  obtain ⟨hrun, -⟩ := (counts_iff u).1 h
  refine ⟨?_, fun i => ?_, ?_, fun e => ?_⟩
  · rw [h1, countedClock, hn, hst, hcr, hrun]
  · rw [h2, hcomp, State.sign, hsigns]; rfl
  · rw [← hcomp]; exact h3
  · rw [h4, getLsbD_when, hn, decide_eq_true_iff, State.raising, hpost]
    rfl

/-- Settles O33. -/
theorem minuteEventsAreCounted : Obligations.MinuteEventsAreCounted := by
  unfold Obligations.MinuteEventsAreCounted
  intro s ha
  dsimp only
  let expired : State := { s with clock := { s.clock with timebase := s.clock.timebase + 1 } }
  let risen : State := { s with pins := { s.pins with minute := true } }
  have hexp : exec .timebaseExpiry s = .next (if s.setup.minuteSrc then expired else expired.minuteEvent) :=
    congrArg Host.Outcome.next (if_pos ha)
  have hedge : s.pins.minute = false → exec .minuteEdge s = .next (if s.setup.minuteSrc then risen.minuteEvent else risen) :=
    fun hm => congrArg Host.Outcome.next (if_pos (by rw [ha, hm]; rfl))
  have cexp : expired.counts = true ↔ s.clock.state = .running ∧ s.setup.clockRun = true := counts_iff _
  have crisen : risen.counts = true ↔ s.clock.state = .running ∧ s.setup.clockRun = true := counts_iff _
  refine ⟨fun hc hsrc => ⟨_, hexp, ?_⟩, fun h => ?_, fun hm hc hsrc => ⟨_, hedge hm, ?_⟩, fun hm h => ?_, fun hm => ?_,
    congrArg Host.Outcome.next (if_pos ha)⟩
  · rw [if_neg (by rw [hsrc]; exact Bool.false_ne_true)]
    exact event_advances (s := s) (u := expired) ⟨rfl, rfl, rfl⟩ rfl rfl rfl (cexp.2 hc)
  · rw [hexp]
    split
    · rfl
    · next hsrc => rw [minuteEvent_not_counted (mt cexp.1 (h.resolve_right hsrc))]
  · rw [if_pos hsrc]
    exact event_advances (s := s) (u := risen) ⟨rfl, rfl, rfl⟩ rfl rfl rfl (crisen.2 hc)
  · rw [hedge hm]
    split
    · next hsrc => rw [minuteEvent_not_counted (mt crisen.1 (h.resolve_right (by rw [hsrc]; nofun)))]
    · rfl
  · exact congrArg Host.Outcome.next (if_neg (by rw [hm]; simp))

/-! ## Minute signals -/

theorem mem_foldl_markWhere {β : Type} {p : β → Nat × Sign → Bool} {j : Nat} (l : List β) (s : State) :
    j ∈ (l.foldl (fun t e => t.markWhere (p e)) s).comp.dirty
      ↔ j ∈ s.comp.dirty ∨ ∃ e ∈ l, ∃ g, (j, g) ∈ s.signs ∧ p e (j, g) = true := by
  induction l generalizing s with
  | nil => simp
  | cons e l ih =>
    have hs : (s.markWhere (p e)).signs = s.signs := by rw [markWhere_dirty]
    rw [List.foldl_cons, ih, mem_markWhere, hs, or_assoc]
    simp only [List.mem_cons, exists_eq_or_imp]

/-- The signs that target a room whose state has changed (R63). -/
theorem mem_markRoomChanges {old : State} {j : Nat} : j ∈ (s.markRoomChanges old).comp.dirty ↔ j ∈ s.comp.dirty
    ∨ ∃ e ∈ s.store.rooms, (old.room e.1).map (·.state) ≠ some e.2.state
      ∧ ∃ g, (j, g) ∈ s.signs ∧ targetsRoom g.defn e.1 [e.2.zone] = true := by
  unfold State.markRoomChanges
  refine (mem_foldl_markWhere (p := fun (e : Nat × Room) g => targetsRoom g.2.defn e.1 [e.2.zone]) _ s).trans ?_
  simp only [List.mem_filter, decide_eq_true_eq, and_assoc]

theorem markRoomChanges_dirty (s old : State) :
    s.markRoomChanges old = { s with comp := { s.comp with dirty := (s.markRoomChanges old).comp.dirty } } := by
  obtain ⟨d, hd⟩ := markRoomChanges_eq s old
  rw [hd]; rfl

/-- The store and the clock as the answer to a minute signal leaves them (R22, R51). -/
def State.answered (s : State) : State :=
  { s with
    clock := { s.clock with storeSignals := s.clock.storeSignals - 1 }
    store :=
      { sessions := retired s.setup.retain s.clock.now s.store.sessions
        rooms := deriveAll (retired s.setup.retain s.clock.now s.store.sessions) s.clock.now s.store.rooms } }

theorem answerMinute_eq (s : State) :
    s.answerMinute = ((s.answered.markRoomChanges s).startOver.syncEcho s).syncRooms s := rfl

theorem get_deriveAll (l : Tab Session) (now : Nat) (rooms : Tab Room) (i : Nat) : Tab.get (deriveAll l now rooms) i =
    (Tab.get rooms i).map fun r => if r.state = .closed ∨ r.state = .held then r else deriveRoom (chainOf l i) now r := by
  unfold deriveAll
  rw [Tab.get_map (fun k r => if roomFixed r.state then r else deriveRoom (chainOf l k) now r)]
  refine congrArg (Option.map · _) (funext fun r => ?_)
  cases hs : r.state <;> simp [roomFixed]

/-- The answer to a minute signal, but for what is posted (R22, R38, R51, R63). -/
theorem answerMinute_posts (s : State) : State.postsOnly (s.answered.markRoomChanges s).startOver s.answerMinute := by
  rw [answerMinute_eq]
  exact (postsOnly_syncEcho _ s 0).trans (postsOnly_syncRooms _ s)

/-- The state with the credits of a refill, before marks and records (R106). -/
def State.refilled (s : State) : State :=
  { s with
    clock := { s.clock with creditSignals := s.clock.creditSignals - 1 }
    signs := s.signs.map fun e => (e.1, refillSign s.setup s.clock.now e.2) }

/-- The signs a refill wakes. -/
def State.woken (s : State) : Tab Sign := s.signs.filter fun e => refillWakes s.setup s.clock.now e.2

theorem answerRefill_posts (s : State) :
    State.postsOnly (s.woken.foldl (fun x e => x.markDirty e.1) s.refilled) s.answerRefill :=
  postsOnly_syncHealth (s.woken.foldl (fun x e => x.markDirty e.1) s.refilled) s (p := .credit) rfl [] []

theorem foldl_markDirty_dirty (l : Tab Sign) (s : State) : l.foldl (fun x e => x.markDirty e.1) s =
    { s with comp := { s.comp with dirty := (l.foldl (fun x e => x.markDirty e.1) s).comp.dirty } } := by
  obtain ⟨d, hd⟩ := foldl_marks (fun (x : State) (e : Nat × Sign) => x.markDirty e.1) (fun t e => markDirty_eq t e.1) l s
  rw [hd]; rfl

theorem refillSign_eq (u : SetupLogic) (now : Nat) (g : Sign) : refillSign u now g =
    if now % (u.paramsOf g.defn).period = 0 ∧ g.credits < (u.paramsOf g.defn).cap then { g with credits := g.credits + 1 }
    else g := by
  simp only [refillSign, refills, Bool.and_eq_true, decide_eq_true_eq]

theorem refillWakes_iff (u : SetupLogic) (now : Nat) (g : Sign) : refillWakes u now g = true ↔
    (now % (u.paramsOf g.defn).period = 0 ∧ g.credits < (u.paramsOf g.defn).cap) ∧ g.deferred = true ∧ g.credits = 0 := by
  simp only [refillWakes, refillSign_eq, Bool.and_eq_true, decide_eq_true_eq]
  constructor
  · rintro ⟨⟨h1, h2⟩, h3⟩
    split at h3
    · next h => exact ⟨h, h1, h2⟩
    · omega
  · rintro ⟨h, h1, h2⟩
    rw [if_pos h]
    exact ⟨⟨h1, h2⟩, by show g.credits + 1 = 1; omega⟩

/-- Settles O34. -/
theorem minuteSignalsAreAnswered : Obligations.MinuteSignalsAreAnswered := by
  unfold Obligations.MinuteSignalsAreAnswered
  intro s ha
  refine ⟨fun hsig hbusy => ⟨s.answerMinute, ?_, ?_⟩, fun hsig hbusy => ⟨s.answerRefill, ?_, ?_⟩⟩
  · exact congrArg Host.Outcome.next (if_pos (by simp [ha, hsig, hbusy]))
  · have hp := answerMinute_posts s
    have hd := markRoomChanges_dirty s.answered s
    have hf := startOver_frame (s.answered.markRoomChanges s)
    obtain ⟨-, -, -, -, -, hclock, hstore, hlane, -, hcomp, hsigns, -⟩ := hp.fields
    have sclock : (s.answered.markRoomChanges s).startOver.clock = s.answered.clock := by rw [hf, hd]
    have sstore : (s.answered.markRoomChanges s).startOver.store = s.answered.store := by rw [hf, hd]
    have scomp : (s.answered.markRoomChanges s).startOver.comp = (s.answered.markRoomChanges s).comp := by rw [hf]
    have hwork : (s.answered.markRoomChanges s).workingCopy = s.answerMinute.workingCopy := by
      unfold State.workingCopy
      rw [hclock, hstore, hsigns, hf]
    have hbatch : (s.answered.markRoomChanges s).lane = s.lane := by rw [hd]; rfl
    rw [sclock] at hclock
    rw [sstore] at hstore
    rw [scomp] at hcomp
    refine ⟨hclock, by rw [hstore]; rfl, fun i => ?_, fun c hc => ?_, fun hc => ?_, fun i g r x y hg hx hy hne ht => ?_,
      fun i hi => ?_, ?_⟩
    · rw [hstore]; exact get_deriveAll _ _ _ _
    · rw [hlane]
      rcases startOver_eq (s.answered.markRoomChanges s) with ⟨h, -⟩ | ⟨k, hk, h⟩
      · rw [hbatch, hc] at h; cases h
      · rw [hbatch, hc] at hk
        cases hk
        rw [h, State.setBatch_lane, hbatch, hwork]
    · rw [hlane]
      rcases startOver_eq (s.answered.markRoomChanges s) with ⟨-, h⟩ | ⟨k, hk, h⟩
      · rw [h, hbatch]
      · rw [hbatch, hc] at hk; cases hk
    · rw [hcomp, mem_markRoomChanges]
      rw [hstore] at hy
      refine .inr ⟨(r, y), Tab.mem_of_get hy, ?_, g, Tab.mem_of_get hg, ht⟩
      have hroom : s.room r = some x := hx
      rw [hroom]
      exact fun h => hne (Option.some.inj h)
    · rw [hcomp, mem_markRoomChanges]; exact .inl hi
    · refine State.postsOnly.trans ?_ hp
      rw [hclock, hstore, hlane, hcomp, hf, hd]
      exact .refl _
  · exact congrArg Host.Outcome.next (if_pos (by simp [ha, hsig, hbusy]))
  · have hp := answerRefill_posts s
    have hd := foldl_markDirty_dirty s.woken s.refilled
    obtain ⟨-, -, -, -, -, hclock, -, -, -, hcomp, hsigns, -⟩ := hp.fields
    have hsign : ∀ i, s.answerRefill.sign i = (s.sign i).map (refillSign s.setup s.clock.now) := fun i => by
      unfold State.sign
      rw [hsigns, hd]
      exact Tab.get_map (fun _ g => refillSign s.setup s.clock.now g) s.signs i
    have hdirty : ∀ i, i ∈ s.answerRefill.comp.dirty ↔ i ∈ s.comp.dirty ∨ ∃ g, (i, g) ∈ s.signs
        ∧ ((s.clock.now % (s.setup.paramsOf g.defn).period = 0 ∧ g.credits < (s.setup.paramsOf g.defn).cap)
          ∧ g.deferred = true ∧ g.credits = 0) := fun i => by
      have hhas : ∀ g, (i, g) ∈ s.signs → Tab.has s.refilled.signs i = true := fun g hg =>
        Tab.has_iff_mem.2 ⟨_, List.mem_map_of_mem (f := fun e : Nat × Sign => (e.1, refillSign s.setup s.clock.now e.2)) hg⟩
      rw [hcomp, mem_foldl_markDirty]
      refine or_congr_right (exists_congr fun g => ?_)
      rw [← refillWakes_iff]
      simp only [State.woken, List.mem_filter]
      exact ⟨fun h => h.1, fun h => ⟨h, hhas g h.1⟩⟩
    refine ⟨?_, fun i g hg => ⟨fun hr => ?_, fun hr => ?_⟩, fun i hi => ?_, fun i hi => (hdirty i).2 (.inl hi),
      fun i g hg hr h1 h2 => (hdirty i).2 (.inr ⟨g, Tab.mem_of_get hg, hr, h1, h2⟩), fun i hi => (hdirty i).1 hi, ?_⟩
    · rw [hclock, hd]; rfl
    · rw [hsign, hg, Option.map_some, refillSign_eq, if_pos hr]
    · rw [hsign, hg, Option.map_some, refillSign_eq, if_neg hr]
    · rw [hsign, hi]; rfl
    · refine State.postsOnly.trans ?_ hp
      rw [hclock, hsigns, hcomp, hd]
      exact .refl _

end Sys2Proof.Machine
end

section
/-! The apply step: the signs, lists, engines and marks it leaves (R41, R54, R97, R118, R141, R158). -/

namespace Sys2Proof.Machine

variable {s t u v : State} {w : Work} {l : List Nat}

/-! ## What one slot's change takes from a line -/

/-- The work of a batch with the slots of a list named. -/
def Work.naming (w : Work) (l : List Nat) : Work := { w with named := l }

theorem naming_named (w : Work) : w.naming w.named = w := rfl

theorem leavesLine_naming (s : State) (w : Work) (l : List Nat) (m : Fin 4) (i : Nat) :
    s.leavesLine (w.naming l) m i = (l.contains i && s.leavesLine (w.naming [i]) m i) := by
  simp [State.leavesLine, Work.naming]

theorem leavesLine_congr {j : Nat} (h : t.sign j = s.sign j) (w : Work) (m : Fin 4) : t.leavesLine w m j = s.leavesLine w m j := by
  unfold State.leavesLine; rw [h]

theorem leavesLine_sign {m : Fin 4} {i : Nat} (h : s.leavesLine w m i = true) : ∃ g, s.sign i = some g ∧ g.defn.line = m := by
  unfold State.leavesLine at h
  cases hg : s.sign i with
  | none => simp [hg] at h
  | some g =>
    simp only [hg, Option.any_some, Bool.and_eq_true, decide_eq_true_eq] at h
    exact ⟨g, rfl, h.2.1⟩

/-- A slot's change takes the sign from its line, or touches no list and no engine (R118, R141, R158). -/
theorem changeSlot_leaves (s : State) (w : Work) (i : Nat) :
    (∃ g, s.sign i = some g ∧ (s.changeSlot w.signs w.dropped i).lists = (s.clearOldLine i g.defn).lists
        ∧ (s.changeSlot w.signs w.dropped i).engines = (s.clearOldLine i g.defn).engines
        ∧ ∀ m, s.leavesLine (w.naming [i]) m i = decide (g.defn.line = m))
      ∨ ((s.changeSlot w.signs w.dropped i).lists = s.lists ∧ (s.changeSlot w.signs w.dropped i).engines = s.engines
        ∧ ∀ m, s.leavesLine (w.naming [i]) m i = false) := by
  cases hg : s.sign i with
  | none =>
    refine .inr ⟨?_, ?_, fun m => by simp [State.leavesLine, hg]⟩ <;>
    · unfold State.changeSlot
      rw [hg]
      cases Tab.get w.signs i <;> rfl
  | some g =>
    cases hd : Tab.get w.signs i with
    | none =>
      refine .inl ⟨g, rfl, ?_, ?_, fun m => by simp [State.leavesLine, Work.naming, hg, hd]⟩ <;>
      · unfold State.changeSlot
        rw [hg, hd]
        rfl
    | some d =>
      have hch : s.changeSlot w.signs w.dropped i
          = if w.dropped.contains i then (s.clearOldLine i g.defn).setSign i (newSign s.setup d)
            else if g.defn.line ≠ d.line || g.defn.address ≠ d.address then
              (s.clearOldLine i g.defn).setSign i (movedSign s.setup g d)
            else s.setSign i (redefinedSign s.setup g d) := by
        unfold State.changeSlot; rw [hg, hd]
      have hl : ∀ m, s.leavesLine (w.naming [i]) m i = (decide (g.defn.line = m)
          && (w.dropped.contains i || (decide (g.defn.line ≠ d.line) || decide (g.defn.address ≠ d.address)))) := fun m => by
        simp [State.leavesLine, Work.naming, hg, hd]
      by_cases h1 : w.dropped.contains i = true
      · rw [if_pos h1] at hch
        exact .inl ⟨g, rfl, by rw [hch]; rfl, by rw [hch]; rfl, fun m => by rw [hl, h1]; simp⟩
      · rw [if_neg h1] at hch
        by_cases h2 : (decide (g.defn.line ≠ d.line) || decide (g.defn.address ≠ d.address)) = true
        · rw [if_pos h2] at hch
          exact .inl ⟨g, rfl, by rw [hch]; rfl, by rw [hch]; rfl, fun m => by rw [hl, h2]; simp⟩
        · rw [if_neg h2] at hch
          refine .inr ⟨by rw [hch]; rfl, by rw [hch]; rfl, fun m => ?_⟩
          rw [hl, eq_false_of_ne_true h1, eq_false_of_ne_true h2]
          simp

theorem lists_clearOldLine (s : State) (i : Nat) (d : SignDef) (m : Fin 4) :
    (s.clearOldLine i d).lists.get m = if m = d.line then (s.lists.get d.line).without i else s.lists.get m :=
  Quad.get_set _ _ _ _

theorem engine_clearOldLine (s : State) (i : Nat) (d : SignDef) (m : Fin 4) : (s.clearOldLine i d).engine m =
    if m = d.line then withdrawn i { s.engine d.line with owed := Tab.del (s.engine d.line).owed d.address } else s.engine m := by
  unfold State.clearOldLine State.unowe State.updateEngine
  rw [State.setEngine_setEngine, State.engine_setEngine_self, State.engine_setEngine]
  rfl

theorem lists_changeSlot (s : State) (w : Work) (i : Nat) (m : Fin 4) : (s.changeSlot w.signs w.dropped i).lists.get m =
    if s.leavesLine (w.naming [i]) m i then (s.lists.get m).without i else s.lists.get m := by
  rcases changeSlot_leaves s w i with ⟨g, -, hl, -, hm⟩ | ⟨hl, -, hm⟩
  · rw [hl, hm, lists_clearOldLine]
    by_cases h : m = g.defn.line
    · subst h; simp
    · simp [h, Ne.symm h]
  · rw [hl, hm]; rfl

theorem engine_changeSlot_leaves {i : Nat} {m : Fin 4} (h : s.leavesLine (w.naming [i]) m i = true) : ∃ g, s.sign i = some g
    ∧ (s.changeSlot w.signs w.dropped i).engine m
      = withdrawn i { s.engine m with owed := Tab.del (s.engine m).owed g.defn.address } := by
  rcases changeSlot_leaves s w i with ⟨g, hg, -, he, hm⟩ | ⟨-, -, hm⟩
  · rw [hm, decide_eq_true_eq] at h
    subst h
    refine ⟨g, hg, (engine_congr he _).trans ?_⟩
    rw [engine_clearOldLine, if_pos rfl]
  · rw [hm] at h; cases h

theorem engine_changeSlot_stays {i : Nat} {m : Fin 4} (h : s.leavesLine (w.naming [i]) m i = false) :
    (s.changeSlot w.signs w.dropped i).engine m = s.engine m := by
  rcases changeSlot_leaves s w i with ⟨g, -, -, he, hm⟩ | ⟨-, he, -⟩
  · rw [hm, decide_eq_false_iff_not] at h
    refine (engine_congr he m).trans ?_
    rw [engine_clearOldLine, if_neg (Ne.symm h)]
  · exact engine_congr he m

/-- What a slot's change leaves as it is. -/
theorem changeSlot_frame (s : State) (defs : Tab SignDef) (dr : List Nat) (i : Nat) :
    s.changeSlot defs dr i =
      { s with
        comp := { s.comp with dirty := (s.changeSlot defs dr i).comp.dirty }
        signs := (s.changeSlot defs dr i).signs
        lists := (s.changeSlot defs dr i).lists
        engines := (s.changeSlot defs dr i).engines } := by
  unfold State.changeSlot
  split
  · rfl
  · rfl
  · rfl
  · split
    · rfl
    · split <;> rfl

/-- A slot leaves the dirty set when it is left EMPTY (R141). -/
theorem mem_changeSlot_dirty {defs : Tab SignDef} {dr : List Nat} {i j : Nat} :
    j ∈ (s.changeSlot defs dr i).comp.dirty
      ↔ j ∈ s.comp.dirty ∧ ¬ (j = i ∧ (s.sign i).isSome = true ∧ Tab.get defs i = none) := by
  unfold State.changeSlot
  cases hg : s.sign i with
  | none => cases hd : Tab.get defs i <;> simp [State.setSign]
  | some g =>
    cases hd : Tab.get defs i with
    | none => simp [State.clean, State.clearOldLine, State.leaveLists, State.setLists, State.unowe, State.updateEngine,
        State.setEngine]
    | some d =>
      simp only [reduceCtorEq, and_false, not_false_eq_true, and_true]
      split
      · rfl
      · split <;> rfl

/-! ## The changes of every slot named -/

theorem changeSigns_naming (s : State) (w : Work) (i : Nat) (l : List Nat) :
    s.changeSigns (w.naming (i :: l)) = (s.changeSlot w.signs w.dropped i).changeSigns (w.naming l) := rfl

theorem leavesLine_later {i : Nat} (hi : i ∉ l) (m : Fin 4) (j : Nat) :
    (s.changeSlot w.signs w.dropped i).leavesLine (w.naming l) m j = s.leavesLine (w.naming l) m j := by
  by_cases hj : j = i
  · subst hj
    rw [leavesLine_naming, leavesLine_naming s, show l.contains j = false from by simpa using hi]
    rfl
  · exact leavesLine_congr (by rw [sign_changeSlot, if_neg hj]) _ m

theorem leavesLine_cons (s : State) (w : Work) (i : Nat) (l : List Nat) (m : Fin 4) (j : Nat) :
    s.leavesLine (w.naming (i :: l)) m j
      = ((decide (j = i) && s.leavesLine (w.naming [i]) m i) || s.leavesLine (w.naming l) m j) := by
  by_cases hj : j = i
  · subst hj
    rw [leavesLine_naming, leavesLine_naming s w l]
    simp only [List.contains_cons, BEq.rfl, Bool.true_or, Bool.true_and, decide_true]
    cases s.leavesLine (w.naming [j]) m j <;> simp
  · rw [leavesLine_naming, leavesLine_naming s w l]
    simp [hj]

theorem sign_changeSigns {j : Nat} (hn : l.Nodup) (s : State) : (s.changeSigns (w.naming l)).sign j =
    if j ∈ l then slotAfter s.setup w.signs w.dropped j (s.sign j) else s.sign j := by
  induction l generalizing s with
  | nil => rfl
  | cons i l ih =>
    obtain ⟨hi, hl⟩ := List.nodup_cons.1 hn
    rw [changeSigns_naming, ih hl, setup_changeSlot, sign_changeSlot]
    by_cases hj : j = i
    · subst hj; simp [hi]
    · simp [hj]

theorem FaceLists.get_without (k : FaceLists) (i : Nat) (r : Rank) : (k.without i).get r = (k.get r).filter (· ≠ i) := by
  cases r <;> rfl

theorem lists_changeSigns (hn : l.Nodup) (m : Fin 4) (r : Rank) (s : State) : ((s.changeSigns (w.naming l)).lists.get m).get r =
    ((s.lists.get m).get r).filter fun i => !s.leavesLine (w.naming l) m i := by
  induction l generalizing s with
  | nil => exact (List.filter_eq_self.2 fun _ _ => rfl).symm
  | cons i l ih =>
    obtain ⟨hi, hl⟩ := List.nodup_cons.1 hn
    rw [changeSigns_naming, ih hl, lists_changeSlot]
    simp only [leavesLine_later hi, leavesLine_cons s w i l]
    split
    next h =>
      rw [FaceLists.get_without, List.filter_filter]
      refine List.filter_congr fun j _ => ?_
      by_cases hj : j = i <;> simp [hj, h]
    next h => simp [h]

/-- The state an engine is left in when its work for some slots is withdrawn (R158). -/
def EngineState.withdrawnBy (p : Nat → Bool) : EngineState → EngineState
  | .requesting i => if p i then .idle else .requesting i
  | .ready x => if (exchangeSlot x).any p then .idle else .ready x
  | .running x b => .running x (b || (exchangeSlot x).any p)
  | e => e

theorem withdrawn_eq (i : Nat) (e : Engine) : withdrawn i e = { e with state := e.state.withdrawnBy (decide <| · = i) } := by
  unfold withdrawn
  cases hs : e.state with
  | requesting j => by_cases h : j = i <;> simp [EngineState.withdrawnBy, h, ← hs]
  | ready x =>
    cases hx : exchangeSlot x with
    | none => simp [EngineState.withdrawnBy, hx, ← hs]
    | some j => by_cases h : j = i <;> simp [EngineState.withdrawnBy, hx, h, ← hs]
  | running x b =>
    cases hx : exchangeSlot x with
    | none => simp [EngineState.withdrawnBy, hx, ← hs]
    | some j => by_cases h : j = i <;> simp [EngineState.withdrawnBy, hx, h, ← hs]
  | _ => simp [EngineState.withdrawnBy, ← hs]

theorem withdrawnBy_or (p q : Nat → Bool) (e : EngineState) :
    (e.withdrawnBy p).withdrawnBy q = e.withdrawnBy fun i => p i || q i := by
  have any : ∀ o : Option Nat, (o.any fun i => p i || q i) = (o.any p || o.any q) := fun o => by cases o <;> rfl
  cases e with
  | requesting i => by_cases h : p i = true <;> simp [EngineState.withdrawnBy, h]
  | ready x => by_cases h : (exchangeSlot x).any p = true <;> simp [EngineState.withdrawnBy, h, any]
  | running x b => simp [EngineState.withdrawnBy, any, Bool.or_assoc]
  | _ => rfl

theorem withdrawnBy_none {p : Nat → Bool} {e : Engine} (h : ∀ i, e.servesSlot = some i → p i = false) :
    e.state.withdrawnBy p = e.state := by
  have any : ∀ o : Option Nat, (∀ i, o = some i → p i = false) → o.any p = false := fun o ho => by
    cases o with
    | none => rfl
    | some i => exact ho i rfl
  cases hs : e.state with
  | requesting i => simp [EngineState.withdrawnBy, h i (by simp [Engine.servesSlot, hs])]
  | ready x => simp [EngineState.withdrawnBy, any (exchangeSlot x) fun i hi => h i (by simp [Engine.servesSlot, hs, hi])]
  | running x b =>
    cases b with
    | true => rfl
    | false => simp [EngineState.withdrawnBy, any (exchangeSlot x) fun i hi => h i (by simp [Engine.servesSlot, hs, hi])]
  | _ => rfl

/-- The engine of a line, once every slot has been changed. -/
theorem engine_changeSigns (hn : l.Nodup) (m : Fin 4) (s : State) :
    (s.changeSigns (w.naming l)).engine m =
        { s.engine m with
          state := (s.engine m).state.withdrawnBy (s.leavesLine (w.naming l) m)
          owed := ((s.changeSigns (w.naming l)).engine m).owed }
      ∧ ∀ a,
        ((∃ i g, s.leavesLine (w.naming l) m i = true ∧ s.sign i = some g ∧ g.defn.address = a) →
          Tab.get ((s.changeSigns (w.naming l)).engine m).owed a = none)
        ∧ ((∀ i g, s.leavesLine (w.naming l) m i = true → s.sign i = some g → g.defn.address ≠ a) →
          Tab.get ((s.changeSigns (w.naming l)).engine m).owed a = Tab.get (s.engine m).owed a) := by
  induction l generalizing s with
  | nil =>
    have h0 : ∀ i, s.leavesLine (w.naming []) m i = false := fun _ => rfl
    refine ⟨?_, fun a => ⟨fun ⟨i, g, h, _⟩ => (by rw [h0] at h; cases h), fun _ => rfl⟩⟩
    rw [withdrawnBy_none fun i _ => h0 i]
    rfl
  | cons i l ih =>
    obtain ⟨hi, hl⟩ := List.nodup_cons.1 hn
    obtain ⟨h1, h2⟩ := ih hl (s.changeSlot w.signs w.dropped i)
    have hp : (s.changeSlot w.signs w.dropped i).leavesLine (w.naming l) m = s.leavesLine (w.naming l) m :=
      funext (leavesLine_later hi m)
    rw [changeSigns_naming]
    rw [hp] at h1
    simp only [leavesLine_later hi] at h2
    have hsign : ∀ j, s.leavesLine (w.naming l) m j = true → (s.changeSlot w.signs w.dropped i).sign j = s.sign j := fun j hj => by
      rw [sign_changeSlot, if_neg]
      rintro rfl
      rw [leavesLine_naming, show l.contains j = false from by simpa using hi] at hj
      cases hj
    cases hc : s.leavesLine (w.naming [i]) m i with
    | true =>
      obtain ⟨g, hg, he⟩ := engine_changeSlot_leaves hc
      rw [withdrawn_eq] at he
      have hall : s.leavesLine (w.naming (i :: l)) m = fun j => decide (j = i) || s.leavesLine (w.naming l) m j :=
        funext fun j => by rw [leavesLine_cons, hc, Bool.and_true]
      refine ⟨?_, fun a => ⟨fun ⟨j, x, hj, hx, ha⟩ => ?_, fun hno => ?_⟩⟩
      · rw [h1, he, withdrawnBy_or, ← hall]
      · rw [hall, Bool.or_eq_true, decide_eq_true_eq] at hj
        by_cases hlater : ∃ j x, s.leavesLine (w.naming l) m j = true ∧ s.sign j = some x ∧ x.defn.address = a
        · obtain ⟨j, x, hj, hx, ha⟩ := hlater
          exact (h2 a).1 ⟨j, x, hj, (hsign j hj).trans hx, ha⟩
        · rcases hj with rfl | hj
          · rw [(h2 a).2 fun k y hk hy hya => hlater ⟨k, y, hk, (hsign k hk).symm.trans hy, hya⟩, he, Tab.get_del]
            rw [hg] at hx
            cases hx
            exact if_pos ha.symm
          · exact absurd ⟨j, x, hj, hx, ha⟩ hlater
      · simp only [hall, Bool.or_eq_true, decide_eq_true_eq] at hno
        rw [(h2 a).2 fun k y hk hy => hno k y (.inr hk) ((hsign k hk).symm.trans hy), he, Tab.get_del]
        exact if_neg fun h => hno i g (.inl rfl) hg h.symm
    | false =>
      have he := engine_changeSlot_stays hc
      have hall : s.leavesLine (w.naming (i :: l)) m = s.leavesLine (w.naming l) m :=
        funext fun j => by rw [leavesLine_cons, hc, Bool.and_false, Bool.false_or]
      rw [hall]
      rw [he] at h1 h2
      refine ⟨h1, fun a => ⟨fun ⟨j, x, hj, hx, ha⟩ => (h2 a).1 ⟨j, x, hj, (hsign j hj).trans hx, ha⟩, fun hno => (h2 a).2 ?_⟩⟩
      exact fun k y hk hy => hno k y hk ((hsign k hk).symm.trans hy)

theorem changeSigns_frame (s : State) (w : Work) : s.changeSigns w =
    { s with
      comp := { s.comp with dirty := (s.changeSigns w).comp.dirty }
      signs := (s.changeSigns w).signs
      lists := (s.changeSigns w).lists
      engines := (s.changeSigns w).engines } := by
  have fold : ∀ (l : List Nat) (u : State), u.changeSigns (w.naming l) =
      { u with
        comp := { u.comp with dirty := (u.changeSigns (w.naming l)).comp.dirty }
        signs := (u.changeSigns (w.naming l)).signs
        lists := (u.changeSigns (w.naming l)).lists
        engines := (u.changeSigns (w.naming l)).engines } := fun l => by
    induction l with
    | nil => exact fun _ => rfl
    | cons i l ih =>
      intro u
      rw [changeSigns_naming, ih, changeSlot_frame]
  exact fold w.named s

theorem mem_changeSigns_dirty {j : Nat} (hn : l.Nodup) (s : State) : j ∈ (s.changeSigns (w.naming l)).comp.dirty
    ↔ j ∈ s.comp.dirty ∧ ¬ (j ∈ l ∧ (s.sign j).isSome = true ∧ Tab.get w.signs j = none) := by
  induction l generalizing s with
  | nil => simp [State.changeSigns, Work.naming]
  | cons i l ih =>
    obtain ⟨hi, hl⟩ := List.nodup_cons.1 hn
    rw [changeSigns_naming, ih hl, mem_changeSlot_dirty, sign_changeSlot]
    by_cases hj : j = i
    · subst hj; simp [hi]
    · simp [hj]

end Sys2Proof.Machine
end

section
/-! The apply step puts the batch in force (R13, R41, R42, R54, R61, R97, R141). -/

namespace Sys2Proof.Machine

variable {s t u v : State} {w : Work}

/-! ## The rooms an apply leaves -/

theorem get_appliedRooms (s : State) (w : Work) (i : Nat) : Tab.get (s.appliedRooms w) i = (Tab.get w.rooms i).map fun r =>
    if roomFixed r.state then (if Tab.has w.touched i then fixedRoom r else r)
    else if clockDiffers s.clock w || Tab.has w.touched i then
      deriveRoom (chainOf (s.appliedSessions w) i) (appliedClock s.clock w).now r
    else r :=
  Tab.get_map (fun (i : Nat) (r : Room) => if roomFixed r.state then (if Tab.has w.touched i then fixedRoom r else r)
    else if clockDiffers s.clock w || Tab.has w.touched i then
      deriveRoom (chainOf (s.appliedSessions w) i) (appliedClock s.clock w).now r
    else r) w.rooms i

theorem zoneOf_appliedRooms (s : State) (w : Work) (i : Nat) : zoneOf (s.appliedRooms w) i = zoneOf w.rooms i := by
  have hz : ∀ r : Room, (appliedAt (s.appliedSessions w) (appliedClock s.clock w).now (clockDiffers s.clock w) w.touched
      (i, r)).zone = r.zone := fun r => (appliedAt_definition ..).2.1
  unfold zoneOf
  rw [get_appliedRooms, Option.map_map]
  exact congrArg (fun f => (Option.map f (Tab.get w.rooms i)).toList) (funext hz)

theorem roomFixed_iff {st : RoomState} : roomFixed st = true ↔ st = .closed ∨ st = .held := by
  cases st <;> simp [roomFixed]

theorem Tab.has_iff_ne_none {α : Type} {t : Tab α} {i : Nat} : Tab.has t i = true ↔ Tab.get t i ≠ none := by
  rw [Tab.has_iff, ← Option.isSome_iff_exists, Option.isSome_iff_ne_none]

theorem clockDiffers_iff {c : ClockUnit} : clockDiffers c w = true ↔ c.now ≠ w.now ∨ c.origin ≠ w.origin ∨ c.state ≠ w.clock := by
  simp [clockDiffers, or_assoc]

/-! ## The marks of an apply -/

theorem mem_foldl_markSlots {j : Nat} (l : List Nat) (s : State) :
    j ∈ (l.foldl State.markDirty s).comp.dirty ↔ j ∈ s.comp.dirty ∨ (j ∈ l ∧ Tab.has s.signs j = true) := by
  induction l generalizing s with
  | nil => simp
  | cons i l ih =>
    have hs : (s.markDirty i).signs = s.signs := by
      obtain ⟨d, hd⟩ := markDirty_eq s i
      rw [hd]; rfl
    rw [List.foldl_cons, ih, mem_markDirty, hs, or_assoc, List.mem_cons, or_and_right]
    exact or_congr_right (or_congr_left (and_congr_right fun h => by rw [h]))

/-- The marks of an apply: signs that target a touched room, and signs an entry named (R97). -/
theorem mem_markApplied {old : State} {j : Nat} : j ∈ (s.markApplied old w).comp.dirty ↔ j ∈ s.comp.dirty
    ∨ (∃ i ∈ Tab.keys w.touched, ∃ g, (j, g) ∈ s.signs
      ∧ targetsRoom g.defn i (zoneOf old.store.rooms i ++ zoneOf w.rooms i) = true)
    ∨ (j ∈ w.named ∧ Tab.has s.signs j = true) := by
  unfold State.markApplied
  dsimp only
  rw [mem_foldl_markSlots, mem_foldl_markWhere
    (p := fun i (g : Nat × Sign) => targetsRoom g.2.defn i (zoneOf old.store.rooms i ++ zoneOf w.rooms i)), or_assoc]
  have hs : ((Tab.keys w.touched).foldl (fun t i => t.markWhere fun (g : Nat × Sign) =>
      targetsRoom g.2.defn i (zoneOf old.store.rooms i ++ zoneOf w.rooms i)) s).signs = s.signs := by
    obtain ⟨d, hd⟩ := foldl_marks (fun (t : State) i => t.markWhere fun (g : Nat × Sign) =>
      targetsRoom g.2.defn i (zoneOf old.store.rooms i ++ zoneOf w.rooms i)) (fun t i => markWhere_eq t _) (Tab.keys w.touched) s
    rw [hd]; rfl
  rw [hs]

theorem markedApplied_frame (u s : State) (w : Work) :
    u.markedApplied s w = { u with comp := { u.comp with dirty := (u.markedApplied s w).comp.dirty } } := by
  obtain ⟨d, hd⟩ := markedApplied_eq u s w
  rw [hd]; rfl

theorem dirty_markedApplied {j : Nat} (h : j ∈ u.comp.dirty) : j ∈ (u.markedApplied s w).comp.dirty := by
  refine mem_markApplied.2 (.inl (mem_markRoomChanges.2 (.inl ?_)))
  split
  · exact mem_markAll.2 (.inl h)
  · exact h

/-- The marks of the clock and of room changes leave the signs. -/
theorem signs_marks (u s : State) (w : Work) :
    ((if clockDiffers s.clock w then u.markAll else u).markRoomChanges s).signs = u.signs := by
  rw [markRoomChanges_dirty]
  split
  · unfold State.markAll; rw [markWhere_dirty]
  · rfl

theorem marked_sign {j : Nat} (h : j ∈ (u.markedApplied s w).comp.dirty) : j ∈ u.comp.dirty ∨ Tab.has u.signs j = true := by
  have hall : ∀ x, x ∈ (if clockDiffers s.clock w then u.markAll else u).comp.dirty → x ∈ u.comp.dirty ∨ Tab.has u.signs x = true :=
    fun x hx => by
      split at hx
      · exact mem_markAll.1 hx
      · exact .inl hx
  have hsigns : (if clockDiffers s.clock w then u.markAll else u).signs = u.signs := by
    split
    · unfold State.markAll; rw [markWhere_dirty]
    · rfl
  rcases mem_markApplied.1 h with h | ⟨-, -, g, hg, -⟩ | ⟨-, h⟩
  · rcases mem_markRoomChanges.1 h with h | ⟨-, -, -, g, hg, -⟩
    · exact hall j h
    · exact .inr (Tab.has_iff_mem.2 ⟨g, hsigns ▸ hg⟩)
  · exact .inr (Tab.has_iff_mem.2 ⟨g, signs_marks u s w ▸ hg⟩)
  · exact .inr (signs_marks u s w ▸ h)

theorem mark_markedApplied {j : Nat} {g : Sign} (hg : u.sign j = some g)
    (h : j ∈ w.named ∨ clockDiffers s.clock w = true
      ∨ ∃ i, Tab.get w.touched i ≠ none ∧ targetsRoom g.defn i (zoneOf s.store.rooms i ++ zoneOf w.rooms i) = true) :
    j ∈ (u.markedApplied s w).comp.dirty := by
  have hmem : (j, g) ∈ u.signs := Tab.mem_of_get hg
  refine mem_markApplied.2 ?_
  rw [signs_marks]
  rcases h with h | h | ⟨i, hi, ht⟩
  · exact .inr (.inr ⟨h, Tab.has_iff_mem.2 ⟨g, hmem⟩⟩)
  · refine .inl (mem_markRoomChanges.2 (.inl ?_))
    rw [if_pos h]
    exact mem_markAll.2 (.inr (Tab.has_iff_mem.2 ⟨g, hmem⟩))
  · refine .inr (.inl ⟨i, ?_, g, hmem, ht⟩)
    by_contra hk
    exact hi (Tab.get_eq_none_of_notMem hk)

/-- What an apply step changes but for the records it hands. -/
theorem applied_changes (s : State) (w : Work) : s.applied w =
    { s.storeApplied w with
      comp := { s.comp with dirty := (s.applied w).comp.dirty }
      signs := (s.applied w).signs
      lists := (s.applied w).lists
      engines := (s.applied w).engines } := by
  rw [applied_eq, markedApplied_frame, changeSigns_frame]
  rfl

/-! ## What an apply hands -/

theorem raisesAlso_postApplied (s old : State) (w : Work) :
    s.raisesAlso (s.postApplied old w) (Event.when .clockEnd (endsClock old.clock w)) := by
  unfold State.postApplied State.syncSigns
  exact (((raisesAlso_syncEcho s old _).quiet (raisesAlso_syncRooms _ old)).quiet
    (raisesAlso_handHealth _ old (p := .signTable) nofun _)).quiet (raisesAlso_handHealth _ old (p := .credit) nofun _)

theorem endsClock_iff {c : ClockUnit} :
    endsClock c w = true ↔ clockDiffers c w = true ∧ w.clock = .ended ∧ c.state ≠ .ended := by
  simp [endsClock, and_assoc]

/-- A result waits behind its block's own records, none of which stands behind it (R169). -/
theorem endBatch_behind {n : Fin 4} {r : LaneResult} : ∃ before behind : List Item,
    (s.endBatch n .rooms r).post.waiting ++ (s.endBatch n .rooms r).post.backlog
      = before ++ { producer := .rooms, record := .laneResult n r true, raises := (Event.lane n).mask } :: behind
    ∧ ∀ x ∈ behind, x.producer ≠ .rooms := by
  unfold State.endBatch State.hand
  rw [if_neg (by rw [show Item.plain { producer := .rooms, record := .laneResult n r true, raises := (Event.lane n).mask } =
    false from rfl]; simp)]
  split
  next h =>
    exact ⟨s.post.waiting ++ s.post.backlog, [], (List.append_assoc _ _ _).symm, nofun⟩
  next h =>
    refine ⟨s.post.waiting, s.post.backlog, List.append_assoc _ _ _, fun x hx hp => h ?_⟩
    simp only [ne_eq, reduceCtorEq, not_false_eq_true, decide_true, Bool.true_and, State.producerBusy, Bool.or_eq_true,
      List.any_eq_true, decide_eq_true_eq]
    exact .inr ⟨x, hx, hp⟩

theorem exec_apply {n : Fin 4} {c : Check} (ha : s.active = true) (hb : s.lane.batch = .applyRequested c)
    (hn : s.applyingLane = some n) (hc : s.clock.storeSignals = 0) (hk : s.comp.composition = none)
    (he : s.effectsBusy = false) : exec .apply s = .next (s.applyBatch n c) := by
  show Host.Outcome.next (s.working _) = _
  rw [State.working_active ha, hb, hn]
  simp only [hc, hk, he]
  rfl

theorem named_nodup {c : Check} (hb : s.lane.batch = .applyRequested c) (ho : s.orderOk = true) : c.work.named.Nodup := by
  simp only [State.orderOk, Bool.and_eq_true, hb, Batch.check, Option.all_some] at ho
  exact ((sortedIndices_iff _).1 ho.2.2).imp fun h => h.ne

/-- The apply of a batch, but for what it posts. -/
theorem applyBatch_posts (s : State) (n : Fin 4) (c : Check) :
    State.postsOnly { s.applied c.work with lane := { s.lane with batch := .resulting } } (s.applyBatch n c) := by
  have h1 : State.postsOnly (s.applied c.work) ((s.applied c.work).postApplied s c.work) := postsOnly_postApplied _ _ _
  have hl : ((s.applied c.work).postApplied s c.work).lane = s.lane :=
    (h1.read State.lane fun _ => rfl).trans (by rw [applied_changes]; rfl)
  have h2 := postsOnly_withLane h1 { s.lane with batch := .resulting }
  have he : State.setBatch ((s.applied c.work).postApplied s c.work) .resulting
      = { (s.applied c.work).postApplied s c.work with lane := { s.lane with batch := .resulting } } := by
    rw [← hl]; rfl
  rw [← he] at h2
  exact h2.trans (postsOnly_hand _ (it := { producer := .rooms, record := _, raises := _ }) rfl)

theorem applyBatch_raises (s : State) (n : Fin 4) (c : Check) : State.raisesOnly s (s.applyBatch n c) fun e =>
    (e = .clockEnd ∧ clockDiffers s.clock c.work = true ∧ c.work.clock = .ended ∧ s.clock.state ≠ .ended) ∨ e = .lane n := by
  have h1 : s.raisesAlso (s.applied c.work) 0 := raisesAlso_same (by rw [applied_changes]; rfl)
  have h2 := h1.after (raisesAlso_postApplied (s.applied c.work) s c.work)
  have h3 : ((s.applied c.work).postApplied s c.work).raisesAlso
      (((s.applied c.work).postApplied s c.work).setBatch .resulting) 0 := raisesAlso_same rfl
  have h := h2.trans (h3.after (raisesAlso_hand _ (it :=
    { producer := .rooms, record := .laneResult n (appliedResult (((s.applied c.work).postApplied s c.work).laneAt n) c) true
      raises := (Event.lane n).mask }) nofun nofun))
  intro e
  refine (h e).trans (or_congr_right ?_)
  rw [BitVec.getLsbD_or, Bool.or_eq_true, getLsbD_when, getLsbD_mask, endsClock_iff]

/-- The signs, lists and engines of an apply are those the changes of its slots leave. -/
theorem applied_works (s : State) (w : Work) : (s.applied w).signs = ((s.storeApplied w).changeSigns w).signs
    ∧ (s.applied w).lists = ((s.storeApplied w).changeSigns w).lists
    ∧ (s.applied w).engines = ((s.storeApplied w).changeSigns w).engines := by
  rw [applied_eq, markedApplied_frame]
  exact ⟨rfl, rfl, rfl⟩

theorem leavesLine_storeApplied (s : State) (w : Work) (m : Fin 4) (i : Nat) :
    (s.storeApplied w).leavesLine w m i = s.leavesLine w m i := leavesLine_congr rfl w m

theorem sign_applied (hn : w.named.Nodup) (i : Nat) : (s.applied w).sign i =
    if i ∈ w.named then slotAfter s.setup w.signs w.dropped i (s.sign i) else s.sign i := by
  have h := sign_changeSigns (w := w) (j := i) hn (s.storeApplied w)
  rw [naming_named] at h
  unfold State.sign at h ⊢
  rw [(applied_works s w).1]
  exact h

theorem lists_applied (hn : w.named.Nodup) (m : Fin 4) (r : Rank) :
    ((s.applied w).lists.get m).get r = ((s.lists.get m).get r).filter fun i => !s.leavesLine w m i := by
  rw [(applied_works s w).2.1]
  exact lists_changeSigns (w := w) hn m r (s.storeApplied w)

/-- A sign of a named slot, by what R141 says of it. -/
theorem slotAfter_cases {i : Nat} {d : SignDef} (hd : Tab.get w.signs i = some d) (f : SetupLogic) (o : Option Sign) :
    (o = none ∨ i ∈ w.dropped → slotAfter f w.signs w.dropped i o = some (f.unseenSign d))
      ∧ ∀ g, o = some g → i ∉ w.dropped →
        (g.defn.line ≠ d.line ∨ g.defn.address ≠ d.address → slotAfter f w.signs w.dropped i o
          = some { f.unseenSign d with deferred := g.deferred, state := if g.deferred then .deferred else .unseen })
        ∧ (g.defn.line = d.line → g.defn.address = d.address → slotAfter f w.signs w.dropped i o
          = some { g with defn := d, credits := (f.kinds.get d.kind).cap }) := by
  unfold slotAfter
  refine ⟨fun h => ?_, fun g hg hi => ⟨fun h => ?_, fun h1 h2 => ?_⟩⟩
  · cases o with
    | none => rw [hd]; rfl
    | some g => simp only [hd, List.contains_iff_mem, h.resolve_left nofun, if_true]; rfl
  · subst hg
    simp only [hd, List.contains_iff_mem, hi, if_false]
    rw [if_pos (by simpa using h)]
    rfl
  · subst hg
    simp only [hd, List.contains_iff_mem, hi, if_false]
    rw [if_neg (by simp [h1, h2])]
    rfl

theorem engine_applied (hn : w.named.Nodup) (m : Fin 4) :
    (s.applied w).engine m =
        { s.engine m with
          state := (s.engine m).state.withdrawnBy (s.leavesLine w m)
          owed := ((s.applied w).engine m).owed }
      ∧ ∀ a,
        ((∃ i g, s.leavesLine w m i = true ∧ s.sign i = some g ∧ g.defn.address = a) →
          Tab.get ((s.applied w).engine m).owed a = none)
        ∧ ((∀ i g, s.leavesLine w m i = true → s.sign i = some g → g.defn.address ≠ a) →
          Tab.get ((s.applied w).engine m).owed a = Tab.get (s.engine m).owed a) := by
  have h := engine_changeSigns (w := w) hn m (s.storeApplied w)
  rw [naming_named] at h
  rw [engine_congr (applied_works s w).2.2 m]
  exact h

theorem withdrawnBy_leaves {p : Nat → Bool} {e : EngineState} {i : Nat} (hi : p i = true) :
    (e = .requesting i → e.withdrawnBy p = .idle)
      ∧ (∀ x, exchangeSlot x = some i → e = .ready x → e.withdrawnBy p = .idle)
      ∧ ∀ x ignored, exchangeSlot x = some i → e = .running x ignored → e.withdrawnBy p = .running x true := by
  refine ⟨fun h => ?_, fun x hx h => ?_, fun x b hx h => ?_⟩ <;> subst h <;> simp [EngineState.withdrawnBy, *]

theorem mem_applied_dirty (hn : w.named.Nodup) {i : Nat} (h : i ∈ s.comp.dirty)
    (hs : s.sign i = none ∨ (s.applied w).sign i ≠ none) : i ∈ (s.applied w).comp.dirty := by
  rw [applied_eq]
  refine dirty_markedApplied ((mem_changeSigns_dirty (w := w) hn (s.storeApplied w)).2 ⟨h, fun ⟨hi, hd, hg⟩ => ?_⟩)
  have hsome : (s.sign i).isSome = true := hd
  rcases hs with hs | hs
  · rw [hs] at hsome; cases hsome
  · refine hs ((sign_applied hn i).trans ?_)
    rw [if_pos hi]
    unfold slotAfter
    rw [hg]

theorem dropped_applied_dirty (hn : w.named.Nodup) {i : Nat} {g : Sign} (hg : s.sign i = some g)
    (hs : (s.applied w).sign i = none) : i ∉ (s.applied w).comp.dirty := by
  have hnone := hs
  rw [sign_applied hn] at hs
  intro h
  rw [applied_eq] at h
  rcases marked_sign h with h | h
  · obtain ⟨-, h⟩ := (mem_changeSigns_dirty (w := w) hn (s.storeApplied w)).1 h
    split at hs
    next hi =>
      refine h ⟨hi, (by show (s.sign i).isSome = true; rw [hg]; rfl), ?_⟩
      rw [← slotAfter_defn s.setup w.signs w.dropped i (s.sign i), hs]
      rfl
    next => rw [hg] at hs; cases hs
  · rw [← (applied_works s w).1, Tab.has_iff] at h
    obtain ⟨x, hx⟩ := h
    rw [show (s.applied w).sign i = some x from hx] at hnone
    cases hnone

theorem appliedClock_eq (c : ClockUnit) (w : Work) :
    (clockDiffers c w = true →
        appliedClock c w = { c with now := w.now, origin := w.origin, state := w.clock, timebase := c.timebase + 1 })
      ∧ (¬ clockDiffers c w = true → appliedClock c w = c) :=
  ⟨fun h => if_pos h, fun h => if_neg h⟩

/-- Settles O31. -/
theorem applyPutsTheBatchInForce : Obligations.ApplyPutsTheBatchInForce := by
  unfold Obligations.ApplyPutsTheBatchInForce
  intro n c s ha hb hn hc hk he hsg ho
  dsimp only
  have hnd := named_nodup hb ho
  have hp := applyBatch_posts s n c
  have hu := applied_changes s c.work
  have hclock : (s.applyBatch n c).clock = appliedClock s.clock c.work :=
    (hp.read State.clock fun _ => rfl).trans (by rw [hu]; rfl)
  have hstore : (s.applyBatch n c).store = { sessions := s.appliedSessions c.work, rooms := s.appliedRooms c.work } :=
    (hp.read State.store fun _ => rfl).trans (by rw [hu]; rfl)
  have hsigns : (s.applyBatch n c).signs = (s.applied c.work).signs := hp.read State.signs fun _ => rfl
  have hsign : ∀ i, (s.applyBatch n c).sign i = (s.applied c.work).sign i := fun i => by unfold State.sign; rw [hsigns]
  have hlists : (s.applyBatch n c).lists = (s.applied c.work).lists := hp.read State.lists fun _ => rfl
  have hengines : (s.applyBatch n c).engines = (s.applied c.work).engines := hp.read State.engines fun _ => rfl
  have hdirty : (s.applyBatch n c).comp.dirty = (s.applied c.work).comp.dirty := hp.read (·.comp.dirty) fun _ => rfl
  have hlane : (s.applyBatch n c).lane = { s.lane with batch := .resulting } := hp.read State.lane fun _ => rfl
  rw [← clockDiffers_iff]
  refine ⟨_, exec_apply ha hb hn hc hk he, fun h => ?_, fun h => ?_, ?_, fun i hi => ?_, fun i r hr => ?_, ?_, fun i hi => ?_,
    fun i hi d hd => ?_, fun m r => ?_, fun m => ?_, fun i g hg ht => ?_, fun i hi ht => ?_, fun i g hg h => ?_,
    applyBatch_raises s n c, hlane, ?_, ?_⟩
  · rw [hclock]; exact (appliedClock_eq s.clock c.work).1 h
  · rw [hclock]; exact (appliedClock_eq s.clock c.work).2 h
  · rw [hclock, hstore]; rfl
  · rw [hstore, get_appliedRooms, hi]; rfl
  · rw [hstore, hclock, get_appliedRooms, hr, ← roomFixed_iff, ← Tab.has_iff_ne_none]
    refine ⟨fun h1 h2 => ?_, fun h1 h2 => ?_, fun h1 h2 => ?_⟩
    · simp only [Option.map_some, h1, h2, if_true]; rfl
    · simp only [Option.map_some, h1, Bool.or_eq_true, Or.comm.1 h2, if_true]; rfl
    · simp only [Option.map_some, h1, Bool.or_eq_true]
      rcases h2 with h2 | h2
      · rw [if_pos h2]; rfl
      · simp [h2]
  · obtain ⟨hsd, hw⟩ := s.signsOk_iff.1 hsg
    exact (signDefs_congr hsigns).trans (signDefs_applied hsd (hw c (by rw [hb]; rfl)))
  · rw [hsign, sign_applied hnd, if_neg hi]
  · rw [hsign, sign_applied hnd, if_pos hi]
    exact slotAfter_cases hd s.setup (s.sign i)
  · rw [hlists]; exact lists_applied hnd m r
  · rw [engine_congr hengines m]
    obtain ⟨h1, h2⟩ := engine_applied (s := s) hnd m
    have hst : ((s.applied c.work).engine m).state = (s.engine m).state.withdrawnBy (s.leavesLine c.work m) := by rw [h1]
    refine ⟨?_, fun a => (h2 a).1, fun a => (h2 a).2, fun i hi => ?_, fun h => ?_⟩
    · rw [hst]; exact h1
    · rw [hst]; exact withdrawnBy_leaves hi
    · rw [hst]
      exact withdrawnBy_none fun i hi => eq_false_of_ne_true fun hl => h i hl hi
  · rw [hdirty]; exact dropped_applied_dirty hnd hg (hsign i ▸ ht)
  · rw [hdirty]; exact mem_applied_dirty hnd hi (hsign i ▸ ht)
  · rw [hdirty, applied_eq]
    refine mark_markedApplied (g := g) ?_ ?_
    · rw [← hg, hsign]
      unfold State.sign
      rw [(applied_works s c.work).1]
    · rw [hstore] at h
      simp only [zoneOf_appliedRooms] at h
      exact h
  · obtain ⟨before, behind, hq, hb⟩ := endBatch_behind (s := (s.applied c.work).postApplied s c.work) (n := n)
      (r := appliedResult (((s.applied c.work).postApplied s c.work).laneAt n) c)
    refine ⟨before, behind, _, hq, fun x hx hx' => absurd hx' (hb x hx), ?_⟩
    have hl : ((s.applied c.work).postApplied s c.work).laneAt n = s.laneAt n :=
      laneAt_congr (((postsOnly_postApplied (s.applied c.work) s c.work).read State.lane fun _ => rfl).trans (by rw [hu]; rfl)) n
    rw [hl]
    rfl
  · rw [hclock, hstore, hsigns, hlists, hengines, hdirty, hlane]
    rw [hu] at hp
    exact hp

end Sys2Proof.Machine
end

section
/-! Records that tell an engine, and what the timers and the ports do of themselves (R121, R128, R135, R143, R147). -/

namespace Sys2Proof.Machine

variable {s t u v : State} {n : Fin 4}

/-! ## Records an engine may wait for -/

/-- From `s` to `t` nothing but records has changed, and engine `n`, where it waited for its records, may be IDLE (R144). -/
def State.settlesTo (n : Fin 4) (s t : State) : Prop :=
  State.postsOnlyAt n s t ∧ ((t.engine n).state = (s.engine n).state
    ∨ ((s.engine n).state = .finishing ∧ (t.engine n).state = .idle))

theorem State.postsOnly.at (h : State.postsOnly s t) (n : Fin 4) : State.postsOnlyAt n s t := by
  have he : (t.engine n).state = (s.engine n).state := h.read (fun x => (x.engine n).state) fun _ => rfl
  unfold State.postsOnlyAt
  rw [he]
  show State.postsOnly (s.setEngine n (s.engine n)) t
  rw [State.setEngine_engine_self]
  exact h

theorem State.postsOnly.settlesTo (h : State.postsOnly s t) (n : Fin 4) : s.settlesTo n t :=
  ⟨h.at n, .inl (h.read (fun x => (x.engine n).state) fun _ => rfl)⟩

theorem State.postsOnlyAt.trans (h1 : State.postsOnlyAt n s t) (h2 : State.postsOnlyAt n t u) : State.postsOnlyAt n s u := by
  have h : (t.setEngine n { t.engine n with state := (u.engine n).state }).bare =
      ((s.setEngine n { s.engine n with state := (t.engine n).state }).setEngine n
        { (s.setEngine n { s.engine n with state := (t.engine n).state }).engine n with state := (u.engine n).state }).bare :=
    congrArg (fun b : State => b.setEngine n { b.engine n with state := (u.engine n).state }) (show t.bare = _ from h1)
  rw [State.engine_setEngine_self, State.setEngine_setEngine] at h
  exact Eq.trans h2 h

theorem State.settlesTo.trans (h1 : s.settlesTo n t) (h2 : t.settlesTo n u) : s.settlesTo n u := by
  refine ⟨h1.1.trans h2.1, ?_⟩
  rcases h1.2 with h | ⟨h, h'⟩
  · rw [← h]; exact h2.2
  · rcases h2.2 with k | ⟨k, -⟩
    · exact .inr ⟨h, k.trans h'⟩
    · rw [h'] at k; cases k

theorem settlesTo_settleEngine (s : State) (n : Fin 4) : s.settlesTo n (s.settleEngine n) := by
  refine ⟨?_, ?_⟩
  · unfold State.postsOnlyAt
    rw [← settleEngine_eq]
    exact .refl _
  · unfold State.settleEngine
    dsimp only
    split
    next h =>
      simp only [Bool.and_eq_true, decide_eq_true_eq] at h
      exact .inr ⟨h.1.1.1, by rw [State.engine_setEngine_self]⟩
    next => exact .inl rfl

theorem settlesTo_enter (s : State) {it : Item} (hp : it.producer.settles = some n) : s.settlesTo n (s.enter it) := by
  have hf : it.producer ≠ .fill := fun h => by rw [h] at hp; cases hp
  rw [enter_eq s hf, hp]
  exact (State.postsOnly.settlesTo
    (((postsOnly_enqueue s it.record).trans (postsOnly_handRaise _ _)).trans (postsOnly_handNext _ _)) n).trans
      (settlesTo_settleEngine _ n)

theorem settlesTo_hand (s : State) {it : Item} (hp : it.producer.settles = some n) : s.settlesTo n (s.hand it) := by
  rcases hand_cases s it with ⟨-, -, -, h⟩ | ⟨-, -, h⟩ | h <;> rw [h]
  · exact settlesTo_enter s hp
  · exact State.postsOnly.settlesTo rfl n
  · exact (postsOnly_setWaiting s _).settlesTo n

theorem settlesTo_foldl {β : Type} {f : State → β → State} (h : ∀ (s : State) b, s.settlesTo n (f s b)) (l : List β) (s : State) :
    s.settlesTo n (l.foldl f s) := by
  induction l generalizing s with
  | nil => exact (State.postsOnly.refl s).settlesTo n
  | cons b l ih => exact (h s b).trans (ih _)

theorem settlesTo_handHealth (s old : State) {p : Producer} (hp : p.settles = some n) (raises : Tab (BitVec 13))
    (changed : Nat → Bool) : s.settlesTo n (s.handHealth old p raises changed) := by
  unfold State.handHealth
  exact settlesTo_foldl (fun u i => settlesTo_hand u (it := { producer := p, record := .health i, raises := _ }) hp) _ s

theorem settlesTo_syncHealth (s old : State) {p : Producer} (hp : p.settles = some n) (always : List Nat)
    (raises : Tab (BitVec 13)) : s.settlesTo n (s.syncHealth old p always raises) :=
  settlesTo_handHealth s old hp raises _

/-! ## Ports -/

theorem handToPort_not_ready (h : ∀ x, (s.engine n).state ≠ .ready x) : s.handToPort n = s := by
  unfold State.handToPort
  split
  next x hx => exact absurd hx (h x)
  next => rfl

theorem handToPort_ready {x : Exchange} (hx : (s.engine n).state = .ready x) (hp : (s.port n).state = .idle) :
    s.handToPort n = (s.setEngine n { s.engine n with state := .running x false }).setPort n
      { s.port n with state := .sending, rate := (s.setup.lines.get n).rate, frame := exchangeFrame x } := by
  unfold State.handToPort
  rw [hx]
  exact if_pos hp

/-- A port that becomes IDLE takes a READY engine's exchange (R135, R144). -/
theorem portIdle_eq (s : State) (n : Fin 4) :
    ((∀ x, (s.engine n).state ≠ .ready x) → s.portIdle n = s.setPort n { s.port n with state := .idle })
      ∧ ∀ x, (s.engine n).state = .ready x →
        s.portIdle n = (s.setEngine n { s.engine n with state := .running x false }).setPort n
          { s.port n with state := .sending, rate := (s.setup.lines.get n).rate, frame := exchangeFrame x } := by
  let i := s.setPort n { s.port n with state := .idle }
  have hp : i.port n = { s.port n with state := .idle } := State.port_setPort_self s n _
  refine ⟨fun h => handToPort_not_ready (s := i) h, fun x hx => ?_⟩
  refine (handToPort_ready (s := i) hx (by rw [hp])).trans ?_
  rw [hp]
  show State.setPort { s with ports := s.ports.set n _, engines := _ } n _ = _
  unfold State.setPort
  rw [Quad.set_set]
  rfl

theorem exec_sweepTimerExpiry (ha : s.active = true) (h : (s.engine n).sweepTimer ≠ none) : exec (.sweepTimerExpiry n) s
    = .next (s.setEngine n { s.engine n with due := true, sweepTimer := some s.setup.sweepPeriod }) :=
  congrArg Host.Outcome.next (if_pos (by rw [ha, Option.isSome_iff_ne_none.2 h]; rfl))

theorem exec_loneBreakEnd (ha : s.active = true) (hp : (s.port n).state = .sending) (hf : (s.port n).frame = []) :
    exec (.loneBreakEnd n) s = .next (s.portIdle n) :=
  congrArg Host.Outcome.next (if_pos (by rw [ha]; simp [State.portSends, hp, hf]))

theorem exec_quietTimeEnd (ha : s.active = true) (hp : (s.port n).state = .quiet) :
    exec (.quietTimeEnd n) s = .next (s.portIdle n) :=
  congrArg Host.Outcome.next (if_pos (by rw [ha, hp]; rfl))

theorem exec_frameSent (ha : s.active = true) (hp : (s.port n).state = .sending) (hf : (s.port n).frame ≠ []) :
    exec (.frameSent n) s = .next (if (s.engine n).sweeping then s.setPort n { s.port n with state := .slots }
      else s.setPort n { s.port n with state := .awaiting, timeout := (s.setup.lines.get n).timeout }) :=
  congrArg Host.Outcome.next (if_pos (by rw [ha]; simp [State.portSends, hp, hf]))

theorem exec_refreshTimerExpiry {slot : Fin 512} {g : Sign} (ha : s.active = true) (hg : s.sign slot.val = some g)
    (ht : g.timer ≠ none) : exec (.refreshTimerExpiry slot) s =
      .next ((s.setSign slot.val { g with timer := none, state := s.afterRefresh slot.val g }).syncHealth s
        (.engine g.defn.line)) := by
  have hc : (s.active && g.timer.isSome) = true := by rw [ha, Option.isSome_iff_ne_none.2 ht]; rfl
  have h : execRefreshTimerExpiry slot s = .next (if s.active && g.timer.isSome then
      (s.setSign slot.val { g with timer := none, state := s.afterRefresh slot.val g }).syncHealth s (.engine g.defn.line)
    else s) := by
    unfold execRefreshTimerExpiry
    rw [hg]
  exact h.trans (by rw [if_pos hc])

theorem rankOf_isSome_iff {l : FaceLists} {i : Nat} : (l.rankOf i).isSome = true ↔ i ∈ l.urgent ∨ i ∈ l.content ∨ i ∈ l.tick := by
  unfold FaceLists.rankOf
  simp only [List.contains_iff_mem]
  split
  · simp [*]
  · split
    · simp [*]
    · split <;> simp [*]

/-- Settles O46. -/
theorem timersAndPortMoves : Obligations.TimersAndPortMoves := by
  unfold Obligations.TimersAndPortMoves
  intro n s ha
  dsimp only
  obtain ⟨hwait, hready⟩ := portIdle_eq s n
  refine ⟨exec_sweepTimerExpiry ha, fun hp hf => ?_, fun hp => ?_, fun hp hf hs => ?_, fun hp hf hs => ?_,
    fun slot g hg ht => ?_⟩
  · rw [exec_loneBreakEnd ha hp hf]
    exact ⟨fun h => by rw [hwait h], fun x hx => by rw [hready x hx]⟩
  · rw [exec_quietTimeEnd ha hp]
    exact ⟨fun h => by rw [hwait h], fun x hx => by rw [hready x hx]⟩
  · rw [exec_frameSent ha hp hf, if_pos hs]
  · rw [exec_frameSent ha hp hf, hs]; rfl
  · obtain ⟨h1, h2⟩ := settlesTo_syncHealth (s.setSign slot.val { g with timer := none, state := s.afterRefresh slot.val g }) s
      (p := .engine g.defn.line) rfl [] []
    have hst : s.afterRefresh slot.val g = if g.state ≠ .refreshing then g.state else if g.deferred then .deferred
        else if slot.val ∈ (s.lists.get g.defn.line).urgent ∨ slot.val ∈ (s.lists.get g.defn.line).content
          ∨ slot.val ∈ (s.lists.get g.defn.line).tick then .pending else .synced := by
      unfold State.afterRefresh State.listed
      simp only [rankOf_isSome_iff]
    refine ⟨_, exec_refreshTimerExpiry ha hg ht, ?_, h2⟩
    rw [← hst]
    exact h1

end Sys2Proof.Machine
end

section
/-! Host reads, the drain of the post queue, writes to the words of the status span, and host writes by area (R161 to R168, R171,
R172). -/

namespace Sys2Proof.Machine

variable {s t u v : State}

/-! ## Reads and drained posts -/

theorem queuedValue_newest {o : Nat} {pre post : List PostEntry} {e : PostEntry} (h : s.path.postQueue = pre ++ e :: post)
    (he : e.offset = o) (hp : ∀ x ∈ post, x.offset ≠ o) : s.queuedValue o = some e.value := by
  have hf : (post.reverse.find? fun x => decide (x.offset = o)) = none := by
    rw [List.find?_eq_none]
    intro x hx
    simpa using hp x (List.mem_reverse.1 hx)
  unfold State.queuedValue
  rw [h, List.reverse_append, List.reverse_cons, List.append_assoc, List.find?_append, hf]
  simp [he]

theorem queuedValue_none {o : Nat} (h : ∀ e ∈ s.path.postQueue, e.offset ≠ o) : s.queuedValue o = none := by
  unfold State.queuedValue
  rw [List.find?_eq_none.2 fun e he => by simpa using h e (List.mem_reverse.1 he)]
  rfl

theorem readValue_region (ha : s.active = true) {o : Nat} (ho : o < 0x10000) :
    s.readValue (s.regionAddress o) = (s.queuedValue o).getD (readWord s.mem (s.regionAddress o)) := by
  have h1 : s.regionAddress o / 0x10000 = s.path.base.val := by unfold State.regionAddress; omega
  have h2 : s.regionAddress o % 0x10000 = o := by unfold State.regionAddress; omega
  unfold State.readValue
  rw [ha, h1, h2]
  simp

/-- A read of a word for which nothing is queued (R172). -/
theorem readValue_memory {a : Nat} (h : ∀ e ∈ s.path.postQueue, a = s.regionAddress e.offset → 0x10000 ≤ e.offset) :
    s.readValue a = readWord s.mem a := by
  unfold State.readValue
  dsimp only
  split
  next hb =>
    rw [Bool.and_eq_true, decide_eq_true_eq] at hb
    rw [queuedValue_none]
    · rfl
    · intro e he heq
      have hr : a = s.regionAddress e.offset := by unfold State.regionAddress; omega
      have := h e he hr
      omega
  next => rfl

theorem exec_hostRead (ha : s.active = true) (a : BitVec 19) (upper lower : Bool) : ∃ t,
    exec (.hostRead a upper lower) s = .next t
      ∧ State.countsOnly (s.beginHost.returnData (2 * a.toNat) upper lower) t := by
  refine ⟨_, rfl, ?_⟩
  rw [hostAccess_active ha]
  exact countsOnly_servedAccess s _

theorem ownReady_postWrite {e : PostEntry} {q : List PostEntry} (ha : s.active = true) (hr : s.reloading = false)
    (hq : s.path.postQueue = e :: q) (hf : s.path.fillQueue = [] ∨ s.path.lastChoicePost = false) :
    s.ownReady = some .postWrite := by
  unfold State.ownReady
  rw [ha, hr, hq]
  cases hl : s.path.fillQueue with
  | nil => rfl
  | cons l ls =>
    rw [hl] at hf
    rw [hf.resolve_left nofun]
    rfl

theorem makePostWrite_eq {e : PostEntry} {q : List PostEntry} (hq : s.path.postQueue = e :: q) : s.makePostWrite =
    { (s.noteChoice true).ownAccessMade with
      mem := writeWord (s.noteChoice true).mem (s.regionAddress e.offset) e.value
      path := { (s.noteChoice true).ownAccessMade.path with postQueue := q } } := by
  unfold State.makePostWrite
  rw [hq]
  rfl

theorem noteChoice_true {e : PostEntry} {q : List PostEntry} (hq : s.path.postQueue = e :: q) : s.noteChoice true =
    { s with path := { s.path with
        lastChoicePost := if s.path.fillQueue = [] then s.path.lastChoicePost else true } } := by
  unfold State.noteChoice
  rw [hq]
  cases s.path.fillQueue <;> rfl

theorem afterOwn_eq {h : Hold} (hg : h ≠ .granted) : h.afterOwn = if h = .waiting then .granted else h := by
  cases h
  · rfl
  · rfl
  · exact absurd rfl hg

/-- Settles O54. -/
theorem readsForwardAndPostsDrain : Obligations.ReadsForwardAndPostsDrain := by
  unfold Obligations.ReadsForwardAndPostsDrain
  intro s ha
  dsimp only
  refine ⟨fun a upper lower v h => ?_, fun e q hq hr hh hf => ?_⟩
  · obtain ⟨t, ht, hc⟩ := exec_hostRead ha a upper lower
    refine ⟨t, ht, ?_⟩
    have hv : s.beginHost.readValue (2 * a.toNat) = v := by
      rcases h with ⟨o, ho, hlt, pre, e, post, hq, he, hv, hp⟩ | ⟨hno, hv⟩
      · rw [ho, ← beginHost_regionAddress, readValue_region (by rw [beginHost_active]; exact ha) hlt,
          queuedValue_newest hq he hp, hv]
        rfl
      · rw [hv]
        exact readValue_memory fun e he hr => hno e he (by rw [← beginHost_regionAddress]; exact hr)
    rw [← hv]
    exact hc
  · have hc : s.ownChoice = some .postWrite := by
      rw [State.ownChoice_ready hh]; exact ownReady_postWrite ha hr hq hf
    show Host.Outcome.next (if s.ownChoice = some .postWrite then s.makePostWrite else s) = _
    rw [if_pos hc, makePostWrite_eq hq, noteChoice_true hq, ← afterOwn_eq hh]
    rfl

/-! ## The flags word and the read count word -/

theorem attn_eq (ha : s.active = true) : s.attn = ((s.post.flags &&& s.setup.enable) != 0) := by
  unfold State.attn; rw [ha]; rfl

theorem ackMerge_eq {d : Drive} (hd : d ≠ .neither) : s.ackMerge d =
    { s with
      mem := writeWord s.mem (s.regionAddress flagsOffset) (flagsWordOf (mergeFlags s.post.flags d))
      path := { s.path with postQueue := s.path.postQueue.filter fun e => e.offset ≠ flagsOffset }
      post := { s.post with flags := mergeFlags s.post.flags d } } := by
  cases d with
  | neither => exact absurd rfl hd
  | _ => rfl

theorem readCountWrite_taken {v : Word} (h : (loByte v - s.post.ringRead).toNat ≤ (s.post.ringWrite - s.post.ringRead).toNat) :
    s.readCountWrite (.both v) =
      { s with
        mem := writeWord s.mem (s.regionAddress readCountOffset) v
        path := { s.path with postQueue := s.path.postQueue.filter fun e => e.offset ≠ readCountOffset }
        post := { s.post with
          ringRead := loByte v, ring := s.post.ring.drop (loByte v - s.post.ringRead).toNat } } :=
  if_pos (decide_eq_true h)

theorem readCountWrite_beyond {v : Word}
    (h : (s.post.ringWrite - s.post.ringRead).toNat < (loByte v - s.post.ringRead).toNat) :
    s.readCountWrite (.both v) = s.dropGuarded (s.regionAddress readCountOffset) false :=
  if_neg fun hc => absurd (of_decide_eq_true hc) (by unfold ringDistance; omega)

theorem loByte_eq (v : Word) : loByte v = v.setWidth 8 := by
  unfold loByte
  ext i hi
  simp

/-! ## Bits of a merge -/

theorem getLsbD_joinBytes (h l : Byte) (i : Nat) :
    (joinBytes h l).getLsbD i = if i < 8 then l.getLsbD i else h.getLsbD (i - 8) := by
  unfold joinBytes
  rw [BitVec.getLsbD_append]

theorem getLsbD_loByte (w : Word) {i : Nat} (hi : i < 8) : (loByte w).getLsbD i = w.getLsbD i := by
  rw [loByte, BitVec.getLsbD_extractLsb']; simp [hi]

theorem getLsbD_hiByte (w : Word) {i : Nat} (h8 : 8 ≤ i) (hi : i < 16) : (hiByte w).getLsbD (i - 8) = w.getLsbD i := by
  rw [hiByte, BitVec.getLsbD_extractLsb', show 8 + (i - 8) = i by omega]
  simp [show i - 8 < 8 by omega]

theorem getLsbD_flagsWordOf (f : BitVec 13) {i : Nat} (hi : i < 13) : (flagsWordOf f).getLsbD i = f.getLsbD i := by
  rw [flagsWordOf, BitVec.getLsbD_setWidth]; simp [show i < 16 by omega]

theorem getLsbD_mergeFlags (f : BitVec 13) (d : Drive) {i : Nat} (hi : i < 13) :
    (mergeFlags f d).getLsbD i = (driveMerge d (flagsWordOf f)).getLsbD i := by
  rw [mergeFlags, BitVec.getLsbD_setWidth]; simp [hi]

theorem mergeFlags_both (f : BitVec 13) (v : Word) {i : Nat} (hi : i < 13) :
    (mergeFlags f (.both v)).getLsbD i = (f.getLsbD i && v.getLsbD i) := by
  rw [getLsbD_mergeFlags f _ hi, driveMerge, BitVec.getLsbD_and, getLsbD_flagsWordOf f hi]

theorem mergeFlags_low (f : BitVec 13) (v : Byte) {i : Nat} (hi : i < 13) :
    (mergeFlags f (.low v)).getLsbD i = (f.getLsbD i && (decide (8 ≤ i) || v.getLsbD i)) := by
  rw [getLsbD_mergeFlags f _ hi, driveMerge, getLsbD_joinBytes, BitVec.getLsbD_and]
  by_cases h : i < 8
  · rw [if_pos h, getLsbD_loByte _ h, getLsbD_flagsWordOf f hi]
    simp [show ¬ 8 ≤ i by omega]
  · rw [if_neg h, getLsbD_hiByte _ (by omega) (by omega), getLsbD_flagsWordOf f hi]
    simp [show 8 ≤ i by omega]

theorem mergeFlags_high (f : BitVec 13) (v : Byte) {i : Nat} (hi : i < 13) :
    (mergeFlags f (.high v)).getLsbD i = (f.getLsbD i && (decide (i < 8) || v.getLsbD (i - 8))) := by
  rw [getLsbD_mergeFlags f _ hi, driveMerge, getLsbD_joinBytes, BitVec.getLsbD_and]
  by_cases h : i < 8
  · rw [if_pos h, getLsbD_loByte _ h, getLsbD_flagsWordOf f hi]
    simp [h]
  · rw [if_neg h, getLsbD_hiByte _ (by omega) (by omega), getLsbD_flagsWordOf f hi]
    simp [h]

/-! ## Dropped writes of the posted span -/

/-- A write in service that its owner drops. -/
theorem hostWrite_dropped (ha : s.active = true) {o a : Nat} {byte : Bool} {d : Drive} {f : State → State}
    (h : f s.beginHost = s.beginHost.dropGuarded a byte) :
    State.droppedAt s.beginHost (s.hostWriteWith (s.regionAddress o) d f) a byte := by
  have hc := hostWrite_counts ha (s.regionAddress o) d f
  rw [h] at hc
  exact (droppedAt_dropGuarded _ _ _).counts hc

/-- A word of the posted span but the flags word and the read count word. -/
theorem areaOf_guarded (w : Fin 4480) (h1 : 0x500 + 2 * w.val ≠ 0x580) (h2 : 0x500 + 2 * w.val ≠ 0x682) :
    areaOf (postedWord w) = .guarded := by
  unfold areaOf postedWord postedOffset flagsOffset readCountOffset
  rw [if_neg (by omega), if_neg (by omega), if_pos (by omega), if_neg h1, if_neg h2]

theorem guardedWrite_dropped (ha : s.active = true) {w : Fin 4480} (h1 : 0x500 + 2 * w.val ≠ 0x580)
    (h2 : 0x500 + 2 * w.val ≠ 0x682) {d : Drive} (hd : d ≠ .neither) : ∃ t, exec (.guardedWrite w d) s = .next t
      ∧ State.droppedAt s.beginHost t (guardedAt d (s.regionAddress (postedWord w))).1
        (guardedAt d (s.regionAddress (postedWord w))).2 := by
  refine ⟨_, rfl, hostWrite_dropped ha ?_⟩
  rw [sortedWrite_eq _ _ hd, areaOf_guarded w h1 h2, ← beginHost_regionAddress]
  cases d with
  | neither => exact absurd rfl hd
  | _ => rfl

/-- Settles O52. -/
theorem statusSpanWritesAreJudged : Obligations.StatusSpanWritesAreJudged := by
  unfold Obligations.StatusSpanWritesAreJudged
  intro s ha
  dsimp only
  refine ⟨fun d hd => ?_, fun v hv => ⟨_, rfl, ?_⟩, fun v hv => ⟨_, rfl, hostWrite_dropped ha ?_⟩,
    fun v => ⟨_, rfl, hostWrite_dropped ha ?_⟩, fun v => ⟨_, rfl, hostWrite_dropped ha ?_⟩, fun w h1 h2 =>
      ⟨fun v => guardedWrite_dropped ha h1 h2 nofun, fun v => guardedWrite_dropped ha h1 h2 nofun,
        fun v => guardedWrite_dropped ha h1 h2 nofun⟩⟩
  · have hc := hostWrite_counts ha (s.regionAddress flagsOffset) d fun t => t.ackMerge d
    rw [ackMerge_eq hd, beginHost_regionAddress, beginHost_flags] at hc
    refine ⟨mergeFlags s.post.flags d, _, rfl, fun i hi => ?_, hc, ?_⟩
    · cases d with
      | both v => exact mergeFlags_both _ v hi
      | low v => exact mergeFlags_low _ v hi
      | high v => exact mergeFlags_high _ v hi
      | neither => exact absurd rfl hd
    · have hact : s.beginHost.active = true := by rw [beginHost_active]; exact ha
      have h := hc.read State.attn fun _ => rfl
      rw [h]
      exact attn_eq hact
  · have hc := hostWrite_counts ha (s.regionAddress readCountOffset) (.both v) fun t => t.readCountWrite (.both v)
    rw [readCountWrite_taken (by rw [loByte_eq]; exact hv), loByte_eq, beginHost_regionAddress] at hc
    exact hc
  · rw [readCountWrite_beyond (by rw [loByte_eq]; exact hv), beginHost_regionAddress]
    rfl
  · rw [← beginHost_regionAddress]; rfl
  · rw [← beginHost_regionAddress]; rfl

/-! ## Host writes by area -/

theorem hostWriteWith_congr (ha : s.active = true) (a : Nat) (d : Drive) {f g : State → State} (h : f s.beginHost = g s.beginHost) :
    s.hostWriteWith a d f = s.hostWriteWith a d g := by
  unfold State.hostWriteWith
  rw [hostAccess_active ha, hostAccess_active ha]
  unfold State.servedAccess
  dsimp only
  rw [h]

/-- An answer that is the write of `d` to `a`, sorted by its area. -/
def State.sorts (s : State) (o : Host.Outcome State Fault Refusal) (a : Nat) (d : Drive) : Prop :=
  o = .next (s.hostWriteWith a d fun t => t.anyWrite a d)

theorem sorts_at (ha : s.active = true) {f : State → State} {o p : Nat} {d e : Drive} (ho : o = p) (hd : d = e) (hp : p < 0x10000)
    (h : ∀ t : State, f t = t.sortedWrite p e) :
    s.sorts (.next (s.hostWriteWith (s.regionAddress o) d f)) (s.regionAddress p) e := by
  subst ho hd
  refine congrArg Host.Outcome.next (hostWriteWith_congr ha _ _ ?_)
  rw [← beginHost_regionAddress, anyWrite_region hp]
  exact h _

theorem sorts_setup (ha : s.active = true) {o p : Nat} {v w : Word} (ho : o = p) (hv : v = w) (hp : p < 0x100) :
    s.sorts (.next (s.setupAccess o v)) (s.regionAddress p) (.both w) := by
  refine sorts_at ha ho (by rw [hv]) (by omega) fun t => ?_
  subst ho hv
  rw [sortedWrite_eq _ _ (d := .both v) nofun, show areaOf o = .setup o from if_pos hp]
  rfl

theorem sorts_lane (ha : s.active = true) {n : Fin 4} {k o : Nat} {d e : Drive} (ho : laneOffset n k = o) (hd : d = e)
    (hk : k < 128) (hn : e ≠ .neither) : s.sorts (.next (s.laneAccess n k d)) (s.regionAddress o) e := by
  refine sorts_at ha ho hd (by rw [← ho]; unfold laneOffset; omega) fun t => ?_
  subst ho hd
  rw [sortedWrite_eq _ _ hn, areaOf_lane n hk]
  rfl

theorem areaOf_pool (l : Fin 1536) (w : Fin 16) : areaOf (poolWord l w) = .pool l.val := by
  unfold areaOf poolWord poolOffset
  rw [if_neg (by omega), if_neg (by omega), if_neg (by omega), if_neg (by omega)]
  exact congrArg Area.pool (by omega)

theorem sorts_snoop (ha : s.active = true) (l : Fin 1536) (w : Fin 16) (d : Drive) :
    s.sorts (exec (.snoop l w d) s) (s.regionAddress (poolWord l w)) d := by
  refine sorts_at ha (o := poolWord l w) rfl rfl (by unfold poolWord poolOffset; omega) fun t => ?_
  by_cases hd : d = .neither
  · subst hd; rfl
  · rw [sortedWrite_eq _ _ hd, areaOf_pool]; rfl

theorem sorts_status (ha : s.active = true) {f : State → State} {o : Nat} {d : Drive} {a : Area} (ho : areaOf o = a)
    (hlt : o < 0x10000) (hn : ∀ t : State, d = .neither → f t = t) (hf : ∀ t : State, f t = t.areaWrite o d a) :
    s.sorts (.next (s.hostWriteWith (s.regionAddress o) d f)) (s.regionAddress o) d := by
  refine sorts_at ha rfl rfl hlt fun t => ?_
  by_cases hd : d = .neither
  · rw [hn t hd, hd]; rfl
  · rw [sortedWrite_eq _ _ hd, ho, hf]

/-- In an area with an owner a write is its owner's command (R165). -/
theorem exec_sorts (ha : s.active = true) {c : Instr} {a : Nat} {d : Drive} (h : s.busWrite c = some (a, d)) :
    s.sorts (exec c s) a d := by
  cases c
  case entryWordWrite n k v => cases h; exact sorts_lane ha rfl rfl (by omega) nofun
  case entryByteWrite n k hi v =>
    cases h
    exact sorts_lane ha rfl rfl (by omega) (by cases hi <;> exact nofun)
  case postWord n q e => cases h; exact sorts_lane ha (laneOffset_post n) rfl (by decide) nofun
  case discard n q e => cases h; exact sorts_lane ha (laneOffset_post n) rfl (by decide) nofun
  case snoop l w d => cases h; exact sorts_snoop ha l w d
  case ackMerge d =>
    cases h
    exact sorts_status ha (o := flagsOffset) (a := .flagsWord) rfl (by decide) (fun t hd => by subst hd; rfl) fun _ => rfl
  case readCountWrite d =>
    cases h
    exact sorts_status ha (o := readCountOffset) (a := .readCount) rfl (by decide) (fun t hd => by subst hd; rfl) fun _ => rfl
  case guardedWrite w d =>
    cases h
    exact sorts_at ha (o := postedWord w) rfl rfl (by omega) fun _ => rfl
  case segSet n => cases h; exact sorts_setup ha (o := controlOffset) rfl (setClearWord_eq _ _) (by decide)
  case segClear n =>
    cases h; exact sorts_setup ha (o := controlOffset) rfl ((setClearWord_eq _ _).trans (by simp)) (by decide)
  case clockRun on => cases h; exact sorts_setup ha (o := controlOffset) rfl (setClearWord_eq _ _) (by decide)
  case minuteSrc on => cases h; exact sorts_setup ha (o := controlOffset) rfl (setClearWord_eq _ _) (by decide)
  case quiet on => cases h; exact sorts_setup ha (o := controlOffset) rfl (setClearWord_eq _ _) (by decide)
  case cacheOff on => cases h; exact sorts_setup ha (o := controlOffset) rfl (setClearWord_eq _ _) (by decide)
  case enable => cases h; exact sorts_setup ha (o := enableOffset) rfl rfl (by decide)
  case restart => cases h; exact sorts_setup ha (o := restartOffset) rfl rfl (by decide)
  case matrix => cases h; exact sorts_setup ha (o := matrixOffset) rfl rfl (by decide)
  case style st v => cases h; exact sorts_setup ha rfl rfl (by cases st <;> decide)
  case kind k v => cases h; exact sorts_setup ha rfl rfl (by cases k <;> decide)
  case setupWordWrite p v =>
    cases h
    refine sorts_setup ha rfl rfl ?_
    cases p with
    | line m => show 0x18 + 2 * m.val < 0x100; omega
    | _ => decide
  case hostWrite a d => cases h; rfl
  all_goals cases h

theorem anyWrite_forward {a : Nat} {d : Drive} (h : d = .neither ∨ a / 0x10000 ≠ s.path.base.val) :
    s.anyWrite a d = s.forward a d := by
  unfold State.anyWrite
  split
  next hb => rw [h.resolve_right (not_not.2 hb)]; rfl
  next => rfl

/-- A word of the region whose write takes no effect: its area, and what its owner makes of it. -/
theorem sortedWrite_forward {o : Nat} {d : Drive} (h : d ≠ .neither → s.areaWrite o d (areaOf o) = s.forwardAt o d) :
    s.sortedWrite o d = s.forwardAt o d := by
  by_cases hd : d = .neither
  · subst hd; rfl
  · rw [sortedWrite_eq _ _ hd]; exact h hd

theorem setupWrite_forward {o : Nat} {d : Drive} (h : ∀ v, d = .both v → setupWordAt o = none) :
    s.setupWrite o d = s.forwardAt o d := by
  unfold State.setupWrite
  cases d with
  | both v => rw [h v rfl]
  | _ => rfl

theorem laneWrite_postByte {n : Fin 4} (ho : (s.laneAt n).state = .opened) {d : Drive} (h : ∀ v, d ≠ .both v) :
    s.laneWrite n 127 d = s.forwardAt (laneOffset n 127) d := by
  unfold State.laneWrite
  rw [if_neg (not_not.2 ho)]
  cases d with
  | both v => exact absurd rfl (h v)
  | _ => rfl

theorem areaOf_setup {o : Nat} (h : o < 0x100) : areaOf o = .setup o := if_pos h

theorem lineChange_mem (old s : State) (n : Fin 4) : (old.lineChange s n).mem = s.mem := by
  unfold State.lineChange
  split
  · exact (worksOnly_startLine s n).mem
  · split
    · exact (worksOnly_stopLine s n).mem
    · rfl

theorem lineChanges_frame (old : State) (l : List (Fin 4)) (s : State) :
    (l.foldl (fun t n => old.lineChange t n) s).mem = s.mem ∧ (l.foldl (fun t n => old.lineChange t n) s).setup = s.setup := by
  induction l generalizing s with
  | nil => exact ⟨rfl, rfl⟩
  | cons n l ih =>
    obtain ⟨h1, h2⟩ := ih (old.lineChange s n)
    exact ⟨h1.trans (lineChange_mem old s n), h2.trans (lineChange_setup old s n)⟩

/-- The blocks but the lines and the timebase, told of a change of CONTROL. -/
theorem worksOnly_changed (old s : State) : State.worksOnly (old.sourceChange s) (old.changed s) := by
  have quiet : ∀ u : State, State.worksOnly u (old.quietChange u) := fun u => by
    unfold State.quietChange; split
    · exact worksOnly_markWhere _ _
    · exact .refl u
  have cache : ∀ u : State, State.worksOnly u (old.cacheChange u) := fun u => by
    unfold State.cacheChange; split
    · exact State.worksOnly.trans (t := { u with cache := { u.cache with lines := [] } }) rfl (worksOnly_advance _)
    · exact .refl u
  exact (quiet _).trans (cache _)

theorem takeControl_frame (s : State) (v : Word) : (s.takeControl v).mem = s.mem
    ∧ (s.takeControl v).setup = { s.setup with control := setClear s.setup.control v } := by
  let f : State := { s with setup := { s.setup with control := setClear s.setup.control v } }
  let l : State := allFour.foldl (fun t n => s.lineChange t n) f
  obtain ⟨hmem, hset⟩ := lineChanges_frame s allFour f
  have source : (s.sourceChange l).mem = l.mem := by unfold State.sourceChange; split <;> rfl
  have rest : State.worksOnly (s.sourceChange l) (s.takeControl v) :=
    (worksOnly_changed s l).trans (postsOnly_syncEcho (s.changed l) s 0).works
  exact ⟨rest.mem.trans (source.trans hmem), rest.setup.trans ((sourceChange_setup s l).trans hset)⟩

/-- Settles O53. -/
theorem hostWritesAreSortedByArea : Obligations.HostWritesAreSortedByArea := by
  unfold Obligations.HostWritesAreSortedByArea
  intro a d s ha
  dsimp only
  have forwards : s.beginHost.anyWrite (2 * a.toNat) d = s.beginHost.forward (2 * a.toNat) d → ∃ t,
      exec (.hostWrite a d) s = .next t ∧ State.countsOnly
        { s.beginHost with mem := writeDrive s.beginHost.mem (2 * a.toNat) d } t := fun h => by
    have hc := hostWrite_counts ha (2 * a.toNat) d fun t => t.anyWrite (2 * a.toNat) d
    rw [h] at hc
    exact ⟨_, rfl, hc⟩
  refine ⟨fun c hc => (exec_sorts ha (c := .hostWrite a d) rfl).trans (exec_sorts ha hc).symm,
    fun hd => forwards (anyWrite_forward (.inl hd)),
    fun hb => forwards (anyWrite_forward (.inr (by rw [beginHost_base]; exact hb))), fun o ho hlt => ?_⟩
  have region : (d ≠ .neither → s.beginHost.areaWrite o d (areaOf o) = s.beginHost.forwardAt o d) →
      s.beginHost.anyWrite (2 * a.toNat) d = s.beginHost.forward (2 * a.toNat) d := fun h => by
    rw [ho, ← beginHost_regionAddress, anyWrite_region hlt]
    exact sortedWrite_forward h
  refine ⟨fun h1 h2 => forwards (region fun _ => ?_), fun h1 h2 => forwards (region fun _ => ?_),
    fun h1 h2 => forwards (region fun _ => ?_), fun v h1 h2 h3 => forwards (region fun _ => ?_),
    fun n h1 h2 h3 => forwards (region fun _ => ?_), fun v h1 h2 => ?_⟩
  · have harea : areaOf o = .unposted := by
      unfold areaOf
      rw [if_neg (by omega), if_neg (by omega), if_neg (by omega), if_pos h2]
    rw [harea]; rfl
  · rw [areaOf_setup h1]; exact setupWrite_forward fun _ _ => h2
  · rw [areaOf_setup h1]; exact setupWrite_forward fun v hv => absurd hv (h2 v)
  · subst h1 h2
    exact if_neg h3
  · rw [← laneOffset_post] at h1
    subst h1
    rw [areaOf_lane n (by decide)]
    exact laneWrite_postByte (by rw [beginHost_laneAt]; exact h2) h3
  · subst h1 h2
    have hc := hostWrite_counts ha (2 * a.toNat) (.both v) fun t => t.anyWrite (2 * a.toNat) (.both v)
    have hw : s.beginHost.anyWrite (2 * a.toNat) (.both v) = (s.beginHost.written 0 v).takeControl v := by
      rw [ho, ← beginHost_regionAddress, anyWrite_region hlt]; rfl
    rw [hw] at hc
    obtain ⟨h1, h2⟩ := takeControl_frame (s.beginHost.written 0 v) v
    refine ⟨_, rfl, (hc.read State.mem fun _ => rfl).trans (h1.trans ?_), (hc.read State.setup fun _ => rfl).trans (h2.trans ?_)⟩
    · rw [ho, ← beginHost_regionAddress]; rfl
    · rw [← setClear_eq]; rfl

end Sys2Proof.Machine
end

section
/-! The insist threshold: what an access leaves of the insist count and the hold (R164, R173, R174). -/

namespace Sys2Proof.Machine

variable {s t u v : State}

/-! ## What leaves the count and the hold alone -/

/-- The path unit's insist count and its marks: the count, whether a stretch follows, and what is held. -/
def PathUnit.marks (p : PathUnit) : Nat × Bool × Hold := (p.insist, p.stretchNext, p.hold)

/-- From `s` to `t` the insist count and the hold have stayed. -/
def State.calm (s t : State) : Prop := t.path.marks = s.path.marks

theorem State.calm.refl (s : State) : s.calm s := rfl

theorem State.calm.trans (h1 : s.calm t) (h2 : t.calm u) : s.calm u := Eq.trans h2 h1

theorem calm_path (h : t.path = s.path) : s.calm t := congrArg PathUnit.marks h

theorem calm_foldl {β : Type} {f : State → β → State} (h : ∀ (s : State) b, s.calm (f s b)) (l : List β) (s : State) :
    s.calm (l.foldl f s) := by
  induction l generalizing s with
  | nil => exact .refl s
  | cons b l ih => exact (h s b).trans (ih _)

theorem calm_hand (s : State) {it : Item} (hp : it.producer ≠ .fill) : s.calm (s.hand it) := by
  rcases hand_cases s it with ⟨-, -, -, h⟩ | ⟨-, -, h⟩ | h <;> rw [h]
  · exact (congrArg PathUnit.marks (path_enter (s := s) hp)).trans rfl
  · rfl
  · rfl

theorem calm_handRaise (s : State) (f : BitVec 13) : s.calm (s.handRaise f) := calm_path (by rw [handRaise_eq]; rfl)

theorem calm_handEcho (s : State) (sec : Section) (f : BitVec 13) : s.calm (s.handEcho sec f) := by
  unfold State.handEcho
  split
  · split
    · rfl
    · exact calm_hand s (it := { producer := .post, record := .echo sec, raises := f }) nofun
  · exact calm_handRaise s f

theorem calm_syncEcho (s old : State) : s.calm (s.syncEcho old) := by
  unfold State.syncEcho
  refine calm_foldl (fun t sec => ?_) _ s
  split
  · exact calm_handEcho t _ _
  · split
    · exact calm_handRaise t _
    · rfl

theorem calm_handHealth (s old : State) {p : Producer} (hp : p ≠ .fill) (raises : Tab (BitVec 13)) (changed : Nat → Bool) :
    s.calm (s.handHealth old p raises changed) := by
  unfold State.handHealth
  exact calm_foldl (fun u i => calm_hand u (it := { producer := p, record := .health i, raises := _ }) hp) _ s

theorem calm_dropGuarded (s : State) (a : Nat) (byte : Bool) : s.calm (s.dropGuarded a byte) := by
  rw [dropGuarded_eq]
  split
  · rfl
  · exact calm_hand (s.guardedAddress a byte) (it := .guard) nofun

theorem calm_markWhere (s : State) (p : Nat × Sign → Bool) : s.calm (s.markWhere p) := calm_path (by rw [markWhere_dirty])

/-! ## Compositions -/

theorem calm_closeComposition {c : Composition} (hc : s.comp.composition = some c) : s.calm (s.closeComposition c) := by
  have h1 : s.calm (s.endComposition c) := calm_path (SignAct.ends c hc).path
  have h2 := h1.trans (calm_handHealth (s.endComposition c) s (p := .credit) nofun []
    fun i => listedBody ((s.endComposition c).sign i) ≠ listedBody (s.sign i))
  unfold State.closeComposition State.syncClosed
  split
  · exact h2.trans (calm_handHealth _ s (p := .engine _) nofun [] _)
  · exact h2

theorem calm_advance (s : State) : s.calm s.advance := by
  unfold State.advance
  split
  · rfl
  · next c hc =>
    have h : s.calm (s.coursed c) := rfl
    dsimp only
    split
    · exact h.trans (calm_closeComposition (s := s.coursed c) rfl)
    · exact h

theorem calm_spoil (s : State) (l : Nat) : s.calm (s.spoil l) := by
  unfold State.spoil
  split
  · rfl
  · split <;> rfl

theorem calm_arrive (s : State) (f : Fill) : s.calm (s.arrive f) := by
  unfold State.arrive
  dsimp only
  split
  · rfl
  · split <;> rfl

theorem calm_poolWrite (s : State) (o : Nat) (d : Drive) : s.calm (s.poolWrite o d) := by
  have snoop : ∀ (u : State) l, u.calm (u.snoopLine l) := fun u l =>
    ((State.calm.trans (t := { u with cache := u.cache.without l }) rfl (calm_spoil _ l)).trans
      (calm_markWhere _ _)).trans (calm_advance _)
  unfold State.poolWrite
  cases d with
  | neither => rfl
  | _ => exact State.calm.trans (t := s.forwardAt o _) rfl (snoop _ _)

/-! ## Setup words -/

theorem calm_startLine (s : State) (n : Fin 4) : s.calm (s.startLine n) := by
  unfold State.startLine
  dsimp only
  split <;> rfl

theorem calm_stopLine (s : State) (n : Fin 4) : s.calm (s.stopLine n) := by
  have back : ∀ i r x, s.calm (s.returnFace i r x) := fun i r x => by
    unfold State.returnFace
    split <;> rfl
  have h : s.calm (s.abandonWork n) := by
    unfold State.abandonWork State.orphanComposition
    split
    · split
      · split <;> rfl
      · rfl
    · exact back _ _ _
    · split <;> exact back _ _ _
    · rfl
  let t := (s.abandonWork n).updateEngine n fun e => { e with state := .off, owed := [], sweepTimer := none, due := false }
  let c := (t.setPort n ((t.port n).cutOff ((t.port n).cutTime t.freeIndex))).useFree
  exact State.calm.trans (t := c) (h.trans rfl) (calm_handHealth c s (p := .engine n) nofun _ _)

theorem calm_takeControl (s : State) (v : Word) : s.calm (s.takeControl v) := by
  have line : ∀ (u : State) (n : Fin 4), u.calm (s.lineChange u n) := fun u n => by
    unfold State.lineChange
    split
    · exact calm_startLine u n
    · split
      · exact calm_stopLine u n
      · rfl
  have source : ∀ u : State, u.calm (s.sourceChange u) := fun u => by unfold State.sourceChange; split <;> rfl
  have quiet : ∀ u : State, u.calm (s.quietChange u) := fun u => by
    unfold State.quietChange; split
    · exact calm_markWhere _ _
    · rfl
  have cache : ∀ u : State, u.calm (s.cacheChange u) := fun u => by
    unfold State.cacheChange; split
    · exact State.calm.trans (t := { u with cache := { u.cache with lines := [] } }) rfl (calm_advance _)
    · rfl
  let f : State := { s with setup := { s.setup with control := setClear s.setup.control v } }
  exact State.calm.trans (t := f) rfl (((((calm_foldl line allFour f).trans (source _)).trans (quiet _)).trans (cache _)).trans
    (calm_syncEcho _ s))

theorem calm_setup (s : State) (u : SetupLogic) : s.calm { s with setup := u } := rfl

theorem calm_takeStyle (s : State) (st : RoomState) (v : Word) : s.calm (s.takeStyle st v) := by
  have h : s.calm (s.styled st v) := calm_path (by rw [styled_eq])
  exact h.trans (calm_syncEcho (s.styled st v) s)

theorem calm_takeKind (s : State) (k : SignKind) (v : Word) : s.calm (s.takeKind k v) := by
  have h : s.calm (s.kinded k v) := rfl
  have h2 : (s.kinded k v).calm ((s.kinded k v).syncHealth s .credit) := calm_handHealth _ s (p := .credit) nofun _ _
  exact (h.trans h2).trans (calm_syncEcho ((s.kinded k v).syncHealth s .credit) s)

theorem calm_takePlain (s : State) (p : PlainSetup) (v : Word) : s.calm (s.takePlain p v) :=
  (calm_setup s (s.setup.takePlain p v)).trans (calm_syncEcho { s with setup := s.setup.takePlain p v } s)

theorem calm_takeMatrix (s : State) (v : Word) : s.calm (s.takeMatrix v) :=
  (calm_setup s { s.setup with pendingMatrix := matrixOf v ≠ s.setup.matrix }).trans
    (calm_syncEcho { s with setup := { s.setup with pendingMatrix := matrixOf v ≠ s.setup.matrix } } s)

theorem calm_reloadMatrix (s : State) (v : Word) : s.calm (s.reloadMatrix v) :=
  (calm_setup s { s.setup with matrix := matrixOf v, pendingMatrix := false }).trans
    (calm_syncEcho { s with setup := { s.setup with matrix := matrixOf v, pendingMatrix := false } } s)

theorem calm_takeEnable (s : State) (v : Word) : s.calm (s.takeEnable v) := by
  unfold State.takeEnable
  dsimp only
  split
  · rfl
  · exact (calm_setup s { s.setup with enable := setClear s.setup.enable v }).trans
      (calm_hand { s with setup := { s.setup with enable := setClear s.setup.enable v } }
        (it := { producer := .post, record := .enableEcho, raises := 0 }) nofun)

/-- A setup word taken leaves the count and the hold, unless it restarts the part. -/
theorem calm_takeWord (s : State) {w : SetupWord} (v : Word) (hw : w ≠ .restart) : s.calm (s.takeWord w v) := by
  cases w with
  | control => exact calm_takeControl s v
  | enable => exact calm_takeEnable s v
  | restart => exact absurd rfl hw
  | matrix => exact calm_takeMatrix s v
  | style st => exact calm_takeStyle s st v
  | kind k => exact calm_takeKind s k v
  | plain p => exact calm_takePlain s p v

theorem calm_reloadStep (s : State) (k : Nat) : s.calm (s.reloadStep k) := by
  have word : ∀ w v, s.calm (s.reloadWord w v) := fun w v => by
    cases w with
    | matrix => exact calm_reloadMatrix s v
    | style st => exact calm_takeStyle s st v
    | kind k => exact calm_takeKind s k v
    | plain p => exact calm_takePlain s p v
    | _ => rfl
  have next : ∀ u : State, u.calm (u.advanceReload k) := fun u => by unfold State.advanceReload; split <;> rfl
  unfold State.reloadStep
  dsimp only
  split
  · exact (word _ _).trans (next _)
  · exact next s

/-! ## Lanes and the posted span -/

theorem calm_promoteHead (s : State) : s.calm s.promoteHead := calm_path (by rw [promoteHead_frame])

theorem calm_judgePostWord (s : State) (n : Fin 4) (q : Byte) (o : Nat) : s.calm (s.judgePostWord n q o) := by
  unfold State.judgePostWord
  dsimp only
  split
  · unfold State.postLaneResult
    split
    · exact calm_hand s (it := { producer := .post, record := .laneResult n _ false, raises := _ }) nofun
    · rfl
  · exact State.calm.trans rfl (calm_promoteHead _)

theorem calm_laneWrite (s : State) (n : Fin 4) (k : Nat) (d : Drive) : s.calm (s.laneWrite n k d) := by
  have byte : ∀ (u : State) (e : Drive), u.calm (u.captureByteAt n k e) := fun u e => by
    unfold State.captureByteAt
    dsimp only
    split <;> rfl
  unfold State.laneWrite
  dsimp only
  split
  · exact calm_dropGuarded s _ _
  · have hf : s.calm (s.forward (s.regionAddress (laneOffset n k)) d) := rfl
    cases d with
    | neither => exact hf
    | both v =>
      dsimp only
      split
      · rfl
      · split
        · rfl
        · exact hf.trans (calm_judgePostWord _ n _ _)
    | low v =>
      dsimp only
      split
      · exact hf.trans (byte _ _)
      · exact hf
    | high v =>
      dsimp only
      split
      · exact hf.trans (byte _ _)
      · exact hf

theorem calm_readCountWrite (s : State) (d : Drive) : s.calm (s.readCountWrite d) := by
  unfold State.readCountWrite
  cases d with
  | both v =>
    dsimp only
    split
    · rfl
    · exact calm_dropGuarded s _ _
  | neither => rfl
  | _ => exact calm_dropGuarded s _ _

/-- A host write served leaves the count and the hold, unless it restarts the part. -/
theorem anyWrite_calm (s : State) (a : Nat) (d : Drive) : s.calm (s.anyWrite a d)
    ∨ ((s.anyWrite a d).setup.restartCount ≠ s.setup.restartCount ∧ (s.anyWrite a d).path.hold = .none) := by
  unfold State.anyWrite
  split
  · by_cases hd : d = .neither
    · subst hd; exact .inl rfl
    · rw [sortedWrite_eq _ _ hd]
      cases areaOf (a % 0x10000) with
      | setup o =>
        change s.calm (s.setupWrite o d) ∨ ((s.setupWrite o d).setup.restartCount ≠ s.setup.restartCount
          ∧ (s.setupWrite o d).path.hold = .none)
        unfold State.setupWrite
        have hf : s.calm (s.forwardAt o d) := rfl
        dsimp only
        split
        · next v w hw =>
          by_cases hr : w = .restart ∧ v = 1
          · obtain ⟨rfl, rfl⟩ := hr
            have ht : (s.forwardAt o (.both 1)).takeWord .restart 1 = (s.forwardAt o (.both 1)).restart := by
              show (if (1 : Word) = 1 then State.restart _ else s.forwardAt o (.both 1)) = _
              exact if_pos rfl
            rw [ht]
            exact .inr ⟨restartCount_ne _, rfl⟩
          · refine .inl (hf.trans ?_)
            by_cases hw : w = .restart
            · subst hw
              exact calm_path (congrArg State.path (if_neg fun h => hr ⟨rfl, h⟩))
            · exact calm_takeWord _ v hw
        · exact .inl hf
      | laneWord n k => exact .inl (calm_laneWrite s n k d)
      | flagsWord => exact .inl (by show s.calm (s.ackMerge d); rw [ackMerge_eq hd]; rfl)
      | readCount => exact .inl (calm_readCountWrite s d)
      | guarded =>
        refine .inl ?_
        show s.calm (s.guardedWriteAt _ d)
        unfold State.guardedWriteAt
        cases d with
        | neither => rfl
        | _ => exact calm_dropGuarded s _ _
      | unposted => exact .inl rfl
      | pool l => exact .inl (calm_poolWrite s _ d)
  · exact .inl rfl

/-! ## The insist threshold -/

theorem beginHost_free (hh : s.path.hold = .none) (hi : ¬ (s.path.stretchNext = true ∧ s.ownWork = true)) : s.beginHost = s := by
  have hins : s.insists = false := by
    unfold State.insists
    rw [← Bool.not_eq_true, Bool.and_eq_true]
    exact hi
  unfold State.beginHost
  rw [hh, hins]
  rfl

theorem beginHost_waits (h : (s.path.hold = .none ∧ s.path.stretchNext = true ∧ s.ownWork = true) ∨ s.path.hold = .waiting) :
    s.beginHost = s.ownAccess.releaseHold := by
  unfold State.beginHost
  rcases h with ⟨h1, h2, h3⟩ | h
  · have hins : s.insists = true := by unfold State.insists; rw [h2, h3]; rfl
    rw [h1, hins]
    rfl
  · rw [h]

theorem beginHost_granted (h : s.path.hold = .granted) : s.beginHost = s.releaseHold := by
  unfold State.beginHost
  rw [h]

theorem beginHost_hold (s : State) : s.beginHost.path.hold = .none := by
  unfold State.beginHost
  split
  · next h =>
    split
    · rfl
    · exact h
  · rfl
  · rfl

theorem calm_iff : s.calm t ↔ t.path.insist = s.path.insist ∧ t.path.stretchNext = s.path.stretchNext ∧ t.path.hold = s.path.hold := by
  unfold State.calm PathUnit.marks
  rw [Prod.mk.injEq, Prod.mk.injEq]

/-- What is ready to be made: where it is made from. -/
theorem ownReady_some {w : OwnAccess} (h : s.ownReady = some w) : match w with
    | .setupRead => ∃ k, s.setup.phase = .reload k
    | .postWrite => s.path.postQueue ≠ []
    | .fillRead => s.path.fillQueue ≠ [] := by
  unfold State.ownReady at h
  split at h
  · cases h
  · split at h
    · next hr =>
      cases h
      unfold State.reloading at hr
      split at hr
      · next k hk => exact ⟨k, hk⟩
      · cases hr
    · split at h
      · cases h
      · next hq hf => cases h; rw [hq]; exact List.cons_ne_nil _ _
      · next hq hf => cases h; rw [hf]; exact List.cons_ne_nil _ _
      · next hq hf =>
        split at h <;> cases h
        · rw [hf]; exact List.cons_ne_nil _ _
        · rw [hq]; exact List.cons_ne_nil _ _

/-- An own access leaves the insist count 0 and no stretch to follow (R174). -/
theorem ownAccess_insist (h : s.ownChoice ≠ none) : s.ownAccess.path.insist = 0 ∧ s.ownAccess.path.stretchNext = false := by
  have made : ∀ {a b : State}, a.ownAccessMade.calm b → b.path.insist = 0 ∧ b.path.stretchNext = false := fun hc =>
    ⟨(calm_iff.1 hc).1, (calm_iff.1 hc).2.1⟩
  have hready : s.ownReady = s.ownChoice := by
    unfold State.ownChoice at h ⊢
    split
    · next hg => rw [if_pos hg] at h; exact absurd rfl h
    · rfl
  obtain ⟨w, hw⟩ := Option.ne_none_iff_exists'.1 h
  have hplace := ownReady_some (hready.trans hw)
  unfold State.ownAccess
  rw [hw]
  cases w with
  | setupRead =>
    obtain ⟨k, hk⟩ := hplace
    show s.makeSetupRead.path.insist = 0 ∧ _
    unfold State.makeSetupRead
    rw [hk]
    exact made (calm_reloadStep s.ownAccessMade k)
  | postWrite =>
    obtain ⟨e, q, hq⟩ := List.exists_cons_of_ne_nil hplace
    show s.makePostWrite.path.insist = 0 ∧ _
    rw [makePostWrite_eq hq]
    exact ⟨rfl, rfl⟩
  | fillRead =>
    obtain ⟨l, q, hq⟩ := List.exists_cons_of_ne_nil hplace
    show s.makeFillRead.path.insist = 0 ∧ _
    unfold State.makeFillRead
    rw [hq]
    dsimp only
    split
    · exact ⟨rfl, rfl⟩
    · split
      · exact ⟨rfl, rfl⟩
      · have arrives : ∀ (x : State) (g : Fill), x.calm (x.arrive g).advance := fun x g =>
          (calm_arrive x g).trans (calm_advance _)
        exact made (a := s.noteChoice false) (arrives _ _)

/-- A host access command is a read, or a write that its area sorts. -/
theorem exec_hostAccess (ha : s.active = true) {c : Instr} (hc : isHostAccess c = true) :
    (∃ a d, exec c s = .next (s.servedAccess fun t => t.anyWrite a d))
      ∨ ∃ a b b', exec c s = .next (s.servedAccess fun t => t.returnData a b b') := by
  have write : ∀ {a d}, s.busWrite c = some (a, d) → ∃ a d, exec c s = .next (s.servedAccess fun t => t.anyWrite a d) :=
    fun h => ⟨_, _, (exec_sorts ha h).trans (congrArg Host.Outcome.next (hostAccess_active ha _ _))⟩
  cases c
  case hostRead a b b' => exact .inr ⟨_, _, _, congrArg Host.Outcome.next (hostAccess_active ha _ _)⟩
  all_goals first | exact .inl (write rfl) | cases hc

/-- What an access leaves: nothing held, and the count as its end gives it. -/
theorem servedAccess_ends {f : State → State} (h : s.beginHost.calm (f s.beginHost)
      ∨ ((f s.beginHost).setup.restartCount ≠ s.beginHost.setup.restartCount ∧ (f s.beginHost).path.hold = .none)) :
    (s.servedAccess f).path.hold = .none
      ∧ ((s.servedAccess f).setup.restartCount = s.beginHost.setup.restartCount →
        (s.servedAccess f).path.insist =
            (if s.ownWork = true ∨ s.path.hold ≠ .none ∨ (s.servedAccess f).ownWork = true then
              min 255 (s.beginHost.path.insist + 1)
            else s.beginHost.path.insist)
          ∧ ((s.servedAccess f).path.stretchNext = true
            ↔ (s.servedAccess f).setup.insistT ≠ 0 ∧ (s.servedAccess f).setup.insistT ≤ (s.servedAccess f).path.insist)) := by
  by_cases hr : (f s.beginHost).setup.restartCount = s.beginHost.setup.restartCount
  · obtain ⟨hi, -, hh⟩ := calm_iff.1 (h.resolve_right fun h => h.1 hr)
    rw [servedAccess_counts s f hr]
    refine ⟨hh.trans (beginHost_hold s), fun _ => ⟨?_, ?_⟩⟩
    · have hw : ((f s.beginHost).endHost s.workWaited).ownWork = (f s.beginHost).ownWork := rfl
      rw [hw, ← hi]
      show (if _ then _ else _) = _
      refine if_congr ?_ rfl rfl
      rw [State.workWaited, Bool.or_eq_true, Bool.or_eq_true, decide_eq_true_eq, or_assoc]
    · show (_ && decide _) = true ↔ _
      rw [Bool.and_eq_true, decide_eq_true_eq, decide_eq_true_eq]
      rfl
  · have hs : s.servedAccess f = f s.beginHost := if_pos hr
    rw [hs]
    refine ⟨?_, fun he => absurd he hr⟩
    rcases h with h | h
    · exact (calm_iff.1 h).2.2.trans (beginHost_hold s)
    · exact h.2

theorem exec_insistStall (ha : s.active = true) : exec .insistStall s = .next
    (if s.path.hold = .none ∧ s.path.stretchNext = true ∧ s.ownWork = true then
      { s with path := { s.path with hold := .waiting } }
    else s) := by
  refine congrArg Host.Outcome.next (if_congr ?_ rfl rfl)
  rw [ha, Bool.true_and, Bool.and_eq_true, decide_eq_true_eq, State.insists, Bool.and_eq_true]

theorem ownWork_choice (hh : s.path.hold ≠ .granted) (hw : s.ownWork = true) : s.ownChoice ≠ none := by
  rw [State.ownChoice_ready hh]
  exact Option.isSome_iff_ne_none.1 hw

/-- Settles O55. -/
theorem insistThresholdHoldsTheHost : Obligations.InsistThresholdHoldsTheHost := by
  unfold Obligations.InsistThresholdHoldsTheHost
  intro s ha
  dsimp only
  refine ⟨fun h => ?_, fun h => ?_, decide_eq_true_iff, fun hh h => ?_, fun h => ⟨beginHost_waits h, fun hw => ?_⟩,
    fun h => ⟨beginHost_granted h, fun c hc => ?_⟩, fun c hc => ?_⟩
  · rw [exec_insistStall ha, if_pos h]
  · rw [exec_insistStall ha, if_neg h]
  · exact beginHost_free hh fun hc => h ⟨hh, hc⟩
  · have hg : s.path.hold ≠ .granted := by
      rcases h with ⟨h, -⟩ | h <;> rw [h] <;> nofun
    rw [beginHost_waits h]
    exact ownAccess_insist (ownWork_choice hg hw)
  · have hn := State.ownChoice_granted h
    have none_made : ∀ (w : OwnAccess) (t : State), (if s.ownChoice = some w then t else s) = s := fun w t => by
      rw [hn]; exact if_neg nofun
    rcases hc with rfl | rfl | rfl <;> exact congrArg Host.Outcome.next (none_made _ _)
  · rcases exec_hostAccess ha hc with ⟨a, d, h⟩ | ⟨a, b, b', h⟩
    · exact ⟨_, h, servedAccess_ends (anyWrite_calm _ a d)⟩
    · exact ⟨_, h, servedAccess_ends (.inl rfl)⟩

end Sys2Proof.Machine
end

section
/-! The choice of an engine's work (R115, R144, R145, R147, R149). -/

namespace Sys2Proof.Machine

variable {s t u v : State} {n : Fin 4}

/-! ## Owed work -/

/-- Owed work at an address is due: its sign stands on the line and is not LOST. -/
def State.owedDue (s : State) (n : Fin 4) (a slot : Nat) : Prop := ∃ g, s.signAt n a = some (slot, g) ∧ g.state ≠ .lost

theorem nextOwed_skip {a : Nat} {m : ClearMask} (t : Tab ClearMask) (h : ∀ i, ¬ s.owedDue n a i) :
    s.nextOwed n ((a, m) :: t) = s.nextOwed n t := by
  rw [State.nextOwed]
  split
  · next slot g hg =>
    split
    · rfl
    · next hl => exact absurd ⟨g, hg, hl⟩ (h slot)
  · rfl

theorem nextOwed_due {a slot : Nat} {m : ClearMask} (t : Tab ClearMask) (h : s.owedDue n a slot) :
    s.nextOwed n ((a, m) :: t) = (t, some (slot, a, m)) := by
  obtain ⟨g, hg, hl⟩ := h
  rw [State.nextOwed]
  simp only [hg, hl, if_false]

/-- The owed entry taken is the first whose work is due; those before it are gone (R145). -/
theorem nextOwed_eq {t : Tab ClearMask} (hs : Tab.sorted t = true) {a slot : Nat} {m : ClearMask} (hm : (a, m) ∈ t)
    (hd : s.owedDue n a slot) (hb : ∀ b k, (b, k) ∈ t → b < a → ∀ i, ¬ s.owedDue n b i) :
    s.nextOwed n t = (t.filter fun x => a < x.1, some (slot, a, m)) := by
  induction t with
  | nil => cases hm
  | cons x t ih =>
    obtain ⟨b, k⟩ := x
    obtain ⟨hx, ht⟩ := List.pairwise_cons.1 ((Tab.sorted_iff _).1 hs)
    rcases List.mem_cons.1 hm with h | h
    · cases h
      rw [nextOwed_due t hd, List.filter_cons_of_neg (by simp)]
      have hall : (t.filter fun x => decide (a < x.1)) = t := List.filter_eq_self.2 fun x hxt => decide_eq_true (hx x hxt)
      rw [hall]
    · have hlt : b < a := hx _ h
      rw [nextOwed_skip t (hb b k List.mem_cons_self hlt), List.filter_cons_of_neg (by simp; omega)]
      exact ih ((Tab.sorted_iff _).2 ht) h fun b k hk => hb b k (List.mem_cons_of_mem _ hk)

theorem nextOwed_none {t : Tab ClearMask} (h : ∀ a m, (a, m) ∈ t → ∀ i, ¬ s.owedDue n a i) : s.nextOwed n t = ([], none) := by
  induction t with
  | nil => rfl
  | cons x t ih =>
    obtain ⟨a, m⟩ := x
    rw [nextOwed_skip t (h a m List.mem_cons_self)]
    exact ih fun a m hm => h a m (List.mem_cons_of_mem _ hm)

/-! ## Exchanges taken -/

/-- An exchange chosen goes to an IDLE port at once (R144). -/
theorem handToPort_chosen (s : State) (n : Fin 4) (x : Exchange) (e : Engine) :
    (s.setEngine n { e with state := .ready x }).handToPort n =
      if (s.port n).state = .idle then
        (s.setEngine n { e with state := .running x false }).setPort n
          { s.port n with state := .sending, rate := (s.setup.lines.get n).rate, frame := exchangeFrame x }
      else s.setEngine n { e with state := .ready x } := by
  let r := s.setEngine n { e with state := .ready x }
  have he : (r.engine n) = { e with state := .ready x } := State.engine_setEngine_self s n _
  split
  next hp =>
    refine (handToPort_ready (s := r) (by rw [he]) hp).trans ?_
    rw [he, State.setEngine_setEngine]
    rfl
  next hp =>
    unfold State.handToPort
    rw [State.engine_setEngine_self]
    exact if_neg hp

theorem exec_engineChoose (ha : s.active = true) (he : (s.engine n).state = .idle) :
    exec (.engineChoose n) s = .next (s.chooseWork n) :=
  congrArg Host.Outcome.next (if_pos (by rw [ha, he]; rfl))

theorem chooseWork_owed {o : Tab ClearMask} {slot a : Nat} {m : ClearMask}
    (h : s.nextOwed n (s.engine n).owed = (o, some (slot, a, m))) :
    s.chooseWork n = (s.setEngine n { s.engine n with owed := o, state := .ready (owedExchange slot a m) }).handToPort n := by
  unfold State.chooseWork
  simp only [h]

section Free

variable (h : s.nextOwed n (s.engine n).owed = ([], none))

include h

theorem chooseWork_urgent {i : Nat} (hu : s.front n .urgent = some i) :
    s.chooseWork n = s.setEngine n { s.engine n with owed := [], state := .requesting i } := by
  unfold State.chooseWork
  simp only [h, hu]

theorem chooseWork_sweep (hu : s.front n .urgent = none) (hd : (s.engine n).due = true) : s.chooseWork n =
    (s.setEngine n
      { s.engine n with owed := [], due := false, state := .ready (s.sweepOf (s.engine n)) }).handToPort n := by
  unfold State.chooseWork
  simp only [h, hu, hd, if_true]

theorem chooseWork_content (hu : s.front n .urgent = none) (hd : (s.engine n).due = false) {i : Nat}
    (hc : s.front n .content = some i) :
    s.chooseWork n = s.setEngine n { s.engine n with owed := [], state := .requesting i } := by
  unfold State.chooseWork
  simp only [h, hu, hd, hc, Bool.false_eq_true, if_false]

theorem chooseWork_tick (hu : s.front n .urgent = none) (hd : (s.engine n).due = false) (hc : s.front n .content = none)
    {i : Nat} (ht : s.front n .tick = some i) :
    s.chooseWork n = s.setEngine n { s.engine n with owed := [], state := .requesting i } := by
  unfold State.chooseWork
  simp only [h, hu, hd, hc, ht, Bool.false_eq_true, if_false]

theorem chooseWork_nothing (hu : s.front n .urgent = none) (hd : (s.engine n).due = false) (hc : s.front n .content = none)
    (ht : s.front n .tick = none) : s.chooseWork n = s.setEngine n { s.engine n with owed := [] } := by
  unfold State.chooseWork
  simp only [h, hu, hd, hc, ht, Bool.false_eq_true, if_false]

end Free

theorem sweepOf_presence {e : Engine} (h : e.presence = true ∨ s.setup.presenceInterval ≤ e.routine + 1) :
    s.sweepOf e = .sweep true .none .none true := if_pos (by simpa using h)

theorem sweepOf_routine {e : Engine} (h : ¬ (e.presence = true ∨ s.setup.presenceInterval ≤ e.routine + 1)) :
    s.sweepOf e = .sweep false s.setup.sweepMask s.setup.sweepPolarity s.setup.sweepAll := if_neg (by simpa using h)

theorem clearFlags_eq (m : ClearMask) : clearFlags m = byteOf ((if m.btn then 1 else 0) + if m.jam then 8 else 0) := by
  obtain ⟨b, j⟩ := m
  cases b <;> cases j <;> rfl

/-- Settles O45. -/
theorem engineTakesWorkInOrder : Obligations.EngineTakesWorkInOrder := by
  unfold Obligations.EngineTakesWorkInOrder
  intro n s ha he hs
  dsimp only
  rw [exec_engineChoose ha he]
  refine ⟨fun a m slot hm hd hb => ?_, fun hno => ?_⟩
  · have hw := chooseWork_owed (nextOwed_eq hs hm hd hb)
    rw [handToPort_chosen s n (owedExchange slot a m)
      { s.engine n with owed := (s.engine n).owed.filter fun x => a < x.1 }] at hw
    rw [hw]
    refine ⟨fun h1 h2 => ?_, fun h => ?_⟩
    · have hx : owedExchange slot a m = .query slot a := if_neg (by rw [h1, h2]; nofun)
      rw [hx]
      rfl
    · have hx : owedExchange slot a m = .clear slot a m := if_pos (by simpa using h)
      rw [hx, ← clearFlags_eq]
      rfl
  · have hnone := nextOwed_none hno
    refine ⟨fun i hu => by rw [chooseWork_urgent hnone hu], fun hu hd => ⟨fun hp => ?_, fun hp => ?_⟩, fun hu hd =>
      ⟨fun i hc => by rw [chooseWork_content hnone hu hd hc], fun hc i ht => by rw [chooseWork_tick hnone hu hd hc ht],
        fun hc ht => by rw [chooseWork_nothing hnone hu hd hc ht]⟩⟩
    · rw [chooseWork_sweep hnone hu hd, sweepOf_presence hp,
        handToPort_chosen s n _ { s.engine n with owed := [], due := false }]
      rfl
    · rw [chooseWork_sweep hnone hu hd, sweepOf_routine hp,
        handToPort_chosen s n _ { s.engine n with owed := [], due := false }]
      cases s.setup.sweepAll <;> rfl

end Sys2Proof.Machine
end

section
/-! Presses taken by the call ring (R144, R159, R160). -/

namespace Sys2Proof.Machine

variable {s t u v : State} {n : Fin 4}

/-! ## An engine that waits for a press -/

/-- An engine whose presses have not been taken does not settle (R144). -/
theorem settleEngine_presses (h : (s.engine n).presses ≠ []) : s.settleEngine n = s := by
  unfold State.settleEngine
  dsimp only
  rw [if_neg]
  simp [h]

theorem postsOnly_hand_presses {it : Item} (hp : it.producer.settles = some n) (h : (s.engine n).presses ≠ []) :
    State.postsOnly s (s.hand it) := by
  have hf : it.producer ≠ .fill := fun he => by rw [he] at hp; cases hp
  rcases hand_cases s it with ⟨-, -, -, e⟩ | ⟨-, -, e⟩ | e <;> rw [e]
  · have h1 : State.postsOnly s (((s.enqueue it.record).handRaise it.raises).handNext it.producer) :=
      ((postsOnly_enqueue s it.record).trans (postsOnly_handRaise _ _)).trans (postsOnly_handNext _ _)
    have he : (((s.enqueue it.record).handRaise it.raises).handNext it.producer).engine n = s.engine n :=
      h1.read (·.engine n) fun _ => rfl
    rw [enter_eq s hf, hp]
    dsimp only
    rw [settleEngine_presses (by rw [he]; exact h)]
    exact h1
  · rfl
  · exact postsOnly_setWaiting s _

theorem postsOnly_setEngine (h : State.postsOnly s t) (e : Engine) : State.postsOnly (s.setEngine n e) (t.setEngine n e) :=
  congrArg (fun b : State => b.setEngine n e) (show t.bare = s.bare from h)

theorem producerBusy_settleEngine (s : State) (n : Fin 4) (p : Producer) :
    (s.settleEngine n).producerBusy p = s.producerBusy p := by
  rw [settleEngine_eq]; rfl

theorem settleEngine_state (s : State) (n : Fin 4) : ((s.settleEngine n).engine n).state =
    if (s.engine n).state = .finishing ∧ (s.engine n).presses = [] ∧ (s.settleEngine n).producerBusy (.engine n) = false
        ∧ (s.settleEngine n).producerBusy (.ring n) = false then .idle
    else (s.engine n).state := by
  rw [producerBusy_settleEngine, producerBusy_settleEngine]
  unfold State.settleEngine
  dsimp only
  have hc : ((s.engine n).state = .finishing && (s.engine n).presses.isEmpty && !s.producerBusy (.engine n)
      && !s.producerBusy (.ring n)) = true ↔ (s.engine n).state = .finishing ∧ (s.engine n).presses = []
        ∧ s.producerBusy (.engine n) = false ∧ s.producerBusy (.ring n) = false := by
    simp [and_assoc]
  by_cases h : (s.engine n).state = .finishing ∧ (s.engine n).presses = [] ∧ s.producerBusy (.engine n) = false
      ∧ s.producerBusy (.ring n) = false
  · rw [if_pos h, if_pos (hc.2 h), State.engine_setEngine_self]
  · rw [if_neg h, if_neg (mt hc.1 h)]

/-! ## Owed work -/

theorem owe_eq (l : Tab ClearMask) (a : Nat) (m : ClearMask) : Sys2Proof.Machine.owe l a m = owedWith l a m := by
  unfold Sys2Proof.Machine.owe owedWith
  cases Tab.get l a with
  | none => obtain ⟨b, j⟩ := m; rfl
  | some old => rfl

theorem owe_setEngine (s : State) (n : Fin 4) (a : Nat) (m : ClearMask) :
    s.owe n a m = s.setEngine n { s.engine n with owed := owedWith (s.engine n).owed a m } := by
  unfold State.owe State.updateEngine
  dsimp only
  rw [owe_eq]

/-! ## A press taken -/

theorem exec_callPress {p : Press} {later : List Press} (ha : s.active = true) (hp : (s.engine n).presses = p :: later) :
    exec (.callPress n) s = .next (if s.ringBusy = true then s else s.takePress n p) := by
  have h : exec (.callPress n) s = .next (if s.active && !s.ringBusy then s.takePress n p else s) := by
    show execCallPress n s = _
    unfold execCallPress
    rw [hp]
  rw [h, ha]
  cases s.ringBusy <;> rfl

/-- The rest of a press: the engine has handed it, and may settle. `v` is the part once the press has reached the ring. -/
theorem press_taken {later : List Press} {p : Press} {owed : Tab ClearMask} (hp : (s.engine n).presses = p :: later)
    (hv : State.postsOnly (u.setEngine n { s.engine n with owed := owed }) v) :
    let t := (v.updateEngine n fun e => { e with presses := e.presses.drop 1 }).settleEngine n
    State.postsOnlyAt n (u.setEngine n { s.engine n with presses := later, owed := owed }) t
      ∧ (t.engine n).state =
        if (s.engine n).state = .finishing ∧ later = [] ∧ t.producerBusy (.engine n) = false ∧ t.producerBusy (.ring n) = false then
          .idle
        else (s.engine n).state := by
  have he : v.engine n = { s.engine n with owed := owed } :=
    (hv.read (·.engine n) fun _ => rfl).trans (State.engine_setEngine_self _ _ _)
  let x := v.updateEngine n fun e => { e with presses := e.presses.drop 1 }
  have hx : x = v.setEngine n { s.engine n with presses := later, owed := owed } := by
    show v.setEngine n { v.engine n with presses := (v.engine n).presses.drop 1 } = _
    rw [he]
    dsimp only
    rw [hp]
    rfl
  have hxe : x.engine n = { s.engine n with presses := later, owed := owed } := by rw [hx, State.engine_setEngine_self]
  have hux : State.postsOnly (u.setEngine n { s.engine n with presses := later, owed := owed }) x := by
    have h := postsOnly_setEngine (n := n) hv { s.engine n with presses := later, owed := owed }
    rw [State.setEngine_setEngine, ← hx] at h
    exact h
  refine ⟨(hux.at n).trans (settlesTo_settleEngine x n).1, ?_⟩
  have h := settleEngine_state x n
  rw [hxe] at h
  exact h

/-- A press that counts, or makes an entry, owes a CLEAR of BTN. -/
theorem press_owes {p : Press} (hu : u.engines = s.engines) (hv : State.postsOnly u v) :
    State.postsOnly (u.setEngine n { s.engine n with owed := owedWith (s.engine n).owed p.address { btn := true, jam := false } })
      (v.owe n p.address { btn := true, jam := false }) := by
  have he : v.engine n = s.engine n := (hv.read (·.engine n) fun _ => rfl).trans (engine_congr hu n)
  rw [owe_setEngine, he]
  exact postsOnly_setEngine hv _

theorem raises_taken {f : BitVec 13} (h : s.raisesAlso v f) :
    s.raisesAlso ((v.updateEngine n fun e => { e with presses := e.presses.drop 1 }).settleEngine n) f :=
  (h.quiet (t := v) (u := v.updateEngine n fun e => { e with presses := e.presses.drop 1 }) (raisesAlso_same rfl)).quiet fun e => by
    rw [raising_settleEngine, getLsbD_zero13]; simp

theorem raises_owed {a : Nat} {m : ClearMask} {f : BitVec 13} (h : s.raisesAlso v f) :
    s.raisesAlso (v.owe n a m) f := h.quiet (raisesAlso_same rfl)

theorem raisesOnly_call {b : Bool} (h : s.raisesAlso t (Event.when .call b)) :
    State.raisesOnly s t fun e => e = .call ∧ b = true := fun e => by rw [h, getLsbD_when]

/-- The entry a press makes (R159). -/
def State.madeEntry (s : State) (slot : Nat) : RingEntry :=
  { place := s.post.ringWrite.toNat % 32
    sign := slot
    room := (s.sign slot).bind fun g => doorRoom g.defn
    minute := s.clock.now
    count := 1 }

/-- The ring with a new entry. -/
def State.ringMade (s : State) (slot : Nat) : State :=
  { s with post := { s.post with ringWrite := s.post.ringWrite + 1, ring := s.post.ring ++ [s.madeEntry slot] } }

/-- The ring with a sign's entry counted. -/
def State.ringCounted (s : State) (slot count : Nat) : State :=
  { s with post := { s.post with ring := s.post.ring.map fun (y : RingEntry) =>
      if y.sign = slot then { y with count := count } else y } }

/-- Settles O50. -/
theorem pressReachesTheCallRing : Obligations.PressReachesTheCallRing := by
  unfold Obligations.PressReachesTheCallRing
  intro n p later s ha hp
  dsimp only
  rw [exec_callPress ha hp]
  have hne : (s.engine n).presses ≠ [] := by rw [hp]; exact List.cons_ne_nil _ _
  refine ⟨fun hb => by rw [if_pos hb], fun hb => ?_⟩
  rw [if_neg (by rw [hb]; exact Bool.false_ne_true)]
  refine ⟨fun x hx => ?_, fun hno hl => ?_, fun hno hl => ?_⟩
  · have hsign : x.sign = p.slot := by simpa using List.find?_some hx
    let u := s.ringCounted p.slot (min 255 (x.count + 1))
    let it : Item := { producer := .ring n, record := .ringCount x.place (min 255 (x.count + 1)), raises := Event.call.mask }
    have hr : s.raiseCount n x = u.hand it := by
      unfold State.raiseCount
      rw [hsign]
      rfl
    have ht : s.takePress n p = (((u.hand it).owe n p.address { btn := true, jam := false }).updateEngine n fun e =>
        { e with presses := e.presses.drop 1 }).settleEngine n := by
      unfold State.takePress PostUnit.entryOf
      rw [hx]
      dsimp only
      rw [hr]
    have hv := press_owes (s := s) (u := u) (n := n) (p := p) rfl (postsOnly_hand_presses (s := u) (it := it) rfl hne)
    obtain ⟨h1, h2⟩ := press_taken hp (u := u) hv
    refine ⟨_, rfl, ?_⟩
    rw [ht]
    refine ⟨h1, raisesOnly_call (b := true) ?_, h2⟩
    exact raises_taken (raises_owed ((raisesAlso_same (t := u) rfl).after (raisesAlso_hand u (it := it) nofun nofun)))
  · have ht : s.takePress n p = (s.updateEngine n fun e => { e with presses := e.presses.drop 1 }).settleEngine n := by
      unfold State.takePress PostUnit.entryOf
      rw [List.find?_eq_none.2 fun y hy => by simpa using hno y hy]
      dsimp only
      rw [if_pos (show Config.ringSize ≤ s.post.ring.length from hl)]
    have hv : State.postsOnly (s.setEngine n { s.engine n with owed := (s.engine n).owed }) s := by
      show State.postsOnly (s.setEngine n (s.engine n)) s
      rw [State.setEngine_engine_self]
      exact .refl s
    obtain ⟨h1, h2⟩ := press_taken hp (u := s) hv
    refine ⟨_, rfl, ?_⟩
    rw [ht]
    exact ⟨h1, raisesOnly_call (raises_taken (raisesAlso_same rfl)), h2⟩
  · let u := s.ringMade p.slot
    let a : Item :=
      { producer := .ring n
        record := .ringEntry (s.madeEntry p.slot).place p.slot ((s.madeEntry p.slot).room.getD 0xFFFF) s.clock.now 1, raises := 0 }
    let b : Item := { producer := .ring n, record := .ringWriteCount (s.post.ringWrite + 1), raises := Event.call.mask }
    have ht : s.takePress n p = ((((u.hand a).hand b).owe n p.address { btn := true, jam := false }).updateEngine n fun e =>
        { e with presses := e.presses.drop 1 }).settleEngine n := by
      unfold State.takePress PostUnit.entryOf
      rw [List.find?_eq_none.2 fun y hy => by simpa using hno y hy]
      dsimp only
      rw [if_neg (show ¬ Config.ringSize ≤ s.post.ring.length from Nat.not_le.2 hl)]
      rfl
    have ha : State.postsOnly u (u.hand a) := postsOnly_hand_presses (s := u) (it := a) rfl hne
    have hea : (u.hand a).engine n = s.engine n := ha.read (·.engine n) fun _ => rfl
    have hb : State.postsOnly (u.hand a) ((u.hand a).hand b) :=
      postsOnly_hand_presses (s := u.hand a) (it := b) rfl (by rw [hea]; exact hne)
    have hv := press_owes (s := s) (u := u) (n := n) (p := p) rfl (ha.trans hb)
    obtain ⟨h1, h2⟩ := press_taken hp (u := u) hv
    refine ⟨_, rfl, ?_⟩
    rw [ht]
    refine ⟨h1, raisesOnly_call (b := true) ?_, h2⟩
    have hr : s.raisesAlso (u.hand a) 0 := (raisesAlso_same (t := u) rfl).after (raisesAlso_hand u (it := a) nofun nofun)
    exact raises_taken (raises_owed (hr.after (raisesAlso_hand (u.hand a) (it := b) nofun nofun)))

end Sys2Proof.Machine
end

section
/-! The end of an outcome: the records of the signs it has changed, their raises, and the engine (R144, R153, R185). -/

namespace Sys2Proof.Machine

variable {s t u v old : State} {n : Fin 4}

/-! ## What the health records of an outcome raise -/

theorem raising_handRecords {p : Producer} (hp : p ≠ .fill) (raises : Tab (BitVec 13)) (l : List Nat) (s : State) (e : Event) :
    (l.foldl (fun t i => t.hand { producer := p, record := .health i, raises := (Tab.get raises i).getD 0 }) s).raising e.mask = true
      ↔ s.raising e.mask = true ∨ ∃ i ∈ l, ((Tab.get raises i).getD 0).getLsbD e.bit = true := by
  induction l generalizing s with
  | nil => simp
  | cons i l ih =>
    rw [List.foldl_cons, ih,
      raisesAlso_hand s (it := { producer := p, record := .health i, raises := (Tab.get raises i).getD 0 }) hp nofun e, or_assoc]
    simp only [List.mem_cons, exists_eq_or_imp]

theorem raising_handHealth {p : Producer} (hp : p ≠ .fill) (s old : State) (raises : Tab (BitVec 13)) (changed : Nat → Bool)
    (e : Event) : (s.handHealth old p raises changed).raising e.mask = true
      ↔ s.raising e.mask = true ∨ ∃ i ∈ (slotsOf s old).filter changed, ((Tab.get raises i).getD 0).getLsbD e.bit = true :=
  raising_handRecords hp raises _ s e

theorem mem_slotsOf_left {i : Nat} (h : i ∈ Tab.keys s.signs) : i ∈ slotsOf s old := by
  unfold slotsOf
  generalize Tab.keys old.signs = l
  induction l with
  | nil => exact h
  | cons j l ih => exact (mem_insertIndex _ _ _).2 (.inr ih)

theorem mem_keys_of_sign {i : Nat} {g : Sign} (h : s.sign i = some g) : i ∈ Tab.keys s.signs :=
  List.mem_map.2 ⟨(i, g), Tab.mem_of_get h, rfl⟩

theorem get_raisesAt (slot i : Nat) (f : BitVec 13) : (Tab.get (raisesAt slot f) i).getD 0 = if i = slot then f else 0 := by
  unfold raisesAt
  split
  next h => rw [h]; split <;> rfl
  next h =>
    by_cases hi : i = slot
    · subst hi; simp [Tab.get]
    · simp [Tab.get, hi]

/-- The flags of one sign's outcome are raised after its record (R179). -/
theorem raisesAlso_syncAt {p : Producer} (hp : p ≠ .fill) {slot : Nat} {g : Sign} (hg : s.sign slot = some g) (always : List Nat)
    (f : BitVec 13) : s.raisesAlso (s.syncHealth old p always (raisesAt slot f)) f := fun e => by
  refine (raising_handHealth hp s old _ _ e).trans (or_congr_right ⟨fun ⟨i, _, h⟩ => ?_, fun h => ?_⟩)
  · rw [get_raisesAt] at h
    split at h
    · exact h
    · rw [getLsbD_zero13] at h; cases h
  · have hf : f ≠ 0 := fun h0 => by rw [h0, getLsbD_zero13] at h; cases h
    refine ⟨slot, List.mem_filter.2 ⟨mem_slotsOf_left (mem_keys_of_sign hg), ?_⟩, ?_⟩
    · have hr : Tab.has (raisesAt slot f) slot = true := by
        rw [Tab.has_iff]
        exact ⟨f, by unfold raisesAt; rw [if_neg hf]; simp [Tab.get]⟩
      simp only [hr, Bool.or_true]
    · rw [get_raisesAt, if_pos rfl]; exact h

/-! ## The end of an outcome -/

theorem postsOnly_syncEngine (hn : (s.engine n).state ≠ .finishing) (always : List Nat) (raises : Tab (BitVec 13)) :
    State.postsOnly s (s.syncHealth old (.engine n) always raises) :=
  (Hands.health (P := False) (s := s) (old := old) (p := .engine n) nofun nofun nofun
    (fun m hm => by cases hm; exact hn) raises _).postsOnly

/-- What the end of an outcome leaves. -/
theorem endOutcome_ends (hn : (s.engine n).state ≠ .finishing) (always : List Nat) (raises : Tab (BitVec 13)) :
    State.postsOnlyAt n s (s.endOutcome old n always raises)
      ∧ (s.endOutcome old n always raises).engine n
        = { s.engine n with state := ((s.endOutcome old n always raises).engine n).state }
      ∧ (((s.endOutcome old n always raises).engine n).state = .finishing
        ∨ ((s.endOutcome old n always raises).engine n).state = .idle)
      ∧ ((s.engine n).presses ≠ [] → ((s.endOutcome old n always raises).engine n).state = .finishing) := by
  let x := s.syncHealth old (.engine n) always raises
  let f := x.setEngine n { x.engine n with state := .finishing }
  have hx : State.postsOnly s x := postsOnly_syncEngine hn always raises
  have hxe : x.engine n = s.engine n := hx.read (·.engine n) fun _ => rfl
  have hfe : f.engine n = { s.engine n with state := .finishing } := by
    rw [← hxe]; exact State.engine_setEngine_self _ _ _
  have hz : s.endOutcome old n always raises = f.settleEngine n := rfl
  have hsettle := settleEngine_eq f n
  have hze : (f.settleEngine n).engine n = { s.engine n with state := ((f.settleEngine n).engine n).state } := by
    have h := congrArg (fun y : State => y.engine n) hsettle
    dsimp only at h
    rw [State.engine_setEngine_self, hfe] at h
    exact h
  have hst := settleEngine_state f n
  rw [hfe] at hst
  have hf : State.postsOnlyAt n s f := by
    unfold State.postsOnlyAt
    rw [hfe]
    have h := postsOnly_setEngine (n := n) hx { s.engine n with state := .finishing }
    have hff : f = x.setEngine n { s.engine n with state := .finishing } := by
      show x.setEngine n { x.engine n with state := .finishing } = _
      rw [hxe]
    rw [← hff] at h
    exact h
  rw [hz]
  refine ⟨hf.trans (settlesTo_settleEngine f n).1, hze, ?_, fun hp => ?_⟩
  · rw [hst]; split
    · exact .inr rfl
    · exact .inl rfl
  · rw [hst, if_neg fun h => hp h.2.1]

theorem raising_endOutcome (s old : State) (n : Fin 4) (always : List Nat) (raises : Tab (BitVec 13)) (f : BitVec 13) :
    (s.endOutcome old n always raises).raising f = (s.syncHealth old (.engine n) always raises).raising f :=
  raising_settleEngine _ _ _

/-- An outcome that changes no sign's record hands nothing. -/
theorem syncHealth_same {p : Producer} (h : s.signs = old.signs) : s.syncHealth old p [] [] = s := by
  have hnone : (slotsOf s old).filter (fun i => decide (healthBody (s.sign i) ≠ healthBody (old.sign i))
      || ([] : List Nat).contains i || Tab.has ([] : Tab (BitVec 13)) i) = [] := by
    rw [List.filter_eq_nil_iff]
    intro i _
    simp [State.sign, h, Tab.has, Tab.get]
  unfold State.syncHealth State.handHealth
  rw [hnone]
  rfl

theorem endOutcome_same (h : s.signs = old.signs) : s.endOutcome old n [] [] =
    (s.setEngine n { s.engine n with state := .finishing }).settleEngine n := by
  unfold State.endOutcome
  rw [syncHealth_same h]
  rfl

/-! ## Replies taken -/

theorem takeReply_eq {o : Exchange → ReplyOutcome} {x : Exchange} {b : Bool} (hx : (s.engine n).state = .running x b)
    (hp : (s.port n).state = .awaiting) : s.takeReply n o =
      (s.portQuiet n (if o x = .bad then .afterBad else .afterGood)).onOutcome n x b (o x) := by
  unfold State.takeReply
  rw [hx]
  exact if_pos hp

theorem exec_reply (ha : s.active = true) (r : Reply) : exec (.reply n r) s = .next (s.takeReply n fun x => judgeReply x r) :=
  congrArg Host.Outcome.next (if_pos ha)

theorem replyFlags_eq (r : Reply) : replyFlags r = replyShows r := by
  have h := signFlagsOf_low r.flags.toNat
  have h16 : (2 : Nat) ^ 4 = 16 := rfl
  rw [h16] at h
  unfold replyFlags replyShows
  rw [h]
  have bit : ∀ i, r.flags.getLsbD i = decide (r.flags.toNat / 2 ^ i % 2 = 1) := fun i => by
    rw [← BitVec.testBit_toNat, Nat.testBit_eq_decide_div_mod_eq]
  simp only [bit]
  simp

theorem replyIntact_iff {r : Reply} {a : Nat} {k : Byte} :
    (replyIntact a r && decide (r.kind = k)) = true ↔ goodReply r k a := by
  unfold replyIntact goodReply replyFront
  simp only [Bool.and_eq_true, Bool.not_eq_true', decide_eq_true_eq]
  exact ⟨fun ⟨⟨⟨⟨h1, h2⟩, h3⟩, h4⟩, h5⟩ => ⟨h1, h2, h5, h4, h3⟩, fun ⟨h1, h2, h5, h4, h3⟩ => ⟨⟨⟨⟨h1, h2⟩, h3⟩, h4⟩, h5⟩⟩

/-- A QUERY or a CLEAR answered by a STATUS, else by nothing good. -/
theorem judge_status {r : Reply} {a : Nat} {o : ReplyOutcome} (h : o = if replyIntact a r && r.kind = statusKind then
    .status (replyFlags r) r.sequence else .bad) :
    (goodReply r 0x61#8 a → o = .status (replyShows r) r.sequence) ∧ (o = .bad ↔ ¬ goodReply r 0x61#8 a) := by
  have hi := replyIntact_iff (r := r) (a := a) (k := statusKind)
  rw [h]
  refine ⟨fun hg => by rw [if_pos (hi.2 hg), replyFlags_eq], ?_⟩
  by_cases hg : goodReply r 0x61#8 a
  · rw [if_pos (hi.2 hg)]; simp [hg]
  · rw [if_neg (mt hi.1 hg)]; simp [hg]

theorem judgeReply_query {r : Reply} {i a : Nat} : (goodReply r 0x61#8 a →
      judgeReply (.query i a) r = .status (replyShows r) r.sequence)
    ∧ (judgeReply (.query i a) r = .bad ↔ ¬ goodReply r 0x61#8 a) := judge_status rfl

theorem judgeReply_clear {r : Reply} {i a : Nat} {m : ClearMask} : (goodReply r 0x61#8 a →
      judgeReply (.clear i a m) r = .status (replyShows r) r.sequence)
    ∧ (judgeReply (.clear i a m) r = .bad ↔ ¬ goodReply r 0x61#8 a) := judge_status rfl

/-- A FACE answered by ACCEPT or BUSY with its sequence, else by nothing good. -/
theorem judgeReply_face {r : Reply} {i a : Nat} {q : Byte} {k : Rank} {rec : FaceRecord} {b : List Byte} :
    (r.sequence = q → goodReply r 0x62#8 a → judgeReply (.face i a q k rec b) r = .accept (replyShows r))
      ∧ (r.sequence = q → goodReply r 0x63#8 a → judgeReply (.face i a q k rec b) r = .busy (replyShows r))
      ∧ (judgeReply (.face i a q k rec b) r = .bad
        ↔ ¬ (r.sequence = q ∧ (goodReply r 0x62#8 a ∨ goodReply r 0x63#8 a))) := by
  have h : judgeReply (.face i a q k rec b) r = if replyIntact a r && r.sequence = q then
      if r.kind = acceptKind then .accept (replyFlags r) else if r.kind = busyKind then .busy (replyFlags r) else .bad
    else .bad := rfl
  have intact : ∀ k : Byte, goodReply r k a ↔ replyIntact a r = true ∧ r.kind = k := fun k => by
    rw [← replyIntact_iff, Bool.and_eq_true, decide_eq_true_eq]
  have hne : acceptKind ≠ busyKind := by decide
  rw [h, show (0x62#8 : Byte) = acceptKind from rfl, show (0x63#8 : Byte) = busyKind from rfl, intact, intact, ← replyFlags_eq]
  simp only [Bool.and_eq_true, decide_eq_true_eq]
  refine ⟨fun hq ⟨h1, h2⟩ => ?_, fun hq ⟨h1, h2⟩ => ?_, ?_⟩
  · rw [if_pos ⟨h1, hq⟩, if_pos h2]
  · rw [if_pos ⟨h1, hq⟩, if_neg (by rw [h2]; exact hne.symm), if_pos h2]
  · by_cases hi : replyIntact a r = true ∧ r.sequence = q
    · rw [if_pos hi]
      by_cases h2 : r.kind = acceptKind
      · simp [h2, hi]
      · by_cases h3 : r.kind = busyKind
        · simp [h3, hi, hne.symm]
        · simp [h2, h3]
    · rw [if_neg hi]
      refine iff_of_true rfl fun ⟨hq, hk⟩ => hi ⟨?_, hq⟩
      rcases hk with ⟨h1, -⟩ | ⟨h1, -⟩ <;> exact h1

/-- A reply is judged bad unless it answers (R128). -/
theorem judgeReply_bad {x : Exchange} {r : Reply} : judgeReply x r = .bad ↔ ¬ answers x r := by
  cases x with
  | sweep => exact iff_of_true rfl id
  | query i a => exact judgeReply_query.2
  | clear i a m => exact judgeReply_clear.2
  | face i a q k rec b => exact judgeReply_face.2.2

end Sys2Proof.Machine
end

section
/-! Good and bad replies (R128, R150 to R158). -/

namespace Sys2Proof.Machine

variable {s t u v z old : State} {n : Fin 4} {slot address : Nat} {g : Sign}

/-! ## The end of an outcome for one sign -/

/-- `z` ends an outcome that `v` has acted on: records and raises are handed, and the engine waits for them or is IDLE. -/
structure State.outcomeEnds (n : Fin 4) (v z : State) (f : BitVec 13) : Prop where
  posts : State.postsOnlyAt n v z
  presses : (z.engine n).presses = (v.engine n).presses
  owed : (z.engine n).owed = (v.engine n).owed
  ended : (z.engine n).state = .finishing ∨ (z.engine n).state = .idle
  waits : (v.engine n).presses ≠ [] → (z.engine n).state = .finishing
  raised : v.raisesAlso z f

theorem endOutcome_outcome (hn : (v.engine n).state ≠ .finishing) (hg : v.sign slot = some g) (always : List Nat) (f : BitVec 13) :
    v.outcomeEnds n (v.endOutcome old n always (raisesAt slot f)) f := by
  obtain ⟨h1, h2, h3, h4⟩ := endOutcome_ends (old := old) hn always (raisesAt slot f)
  exact
    { posts := h1, presses := by rw [h2], owed := by rw [h2], ended := h3, waits := h4
      raised := fun e => by
        rw [raising_endOutcome]
        exact raisesAlso_syncAt (old := old) (p := .engine n) nofun hg always f e }

theorem raisesAt_zero (slot : Nat) : raisesAt slot 0 = [] := if_pos rfl

/-- An outcome that raises nothing. -/
theorem endOutcome_silent (hn : (v.engine n).state ≠ .finishing) (hg : v.sign slot = some g) :
    v.outcomeEnds n (v.endOutcome old n [] []) 0 := by
  have h := endOutcome_outcome (old := old) hn hg [] 0
  rwa [raisesAt_zero] at h

/-- An outcome to be ignored changes no sign (R158). -/
theorem ignoreOutcome_outcome (hn : (v.engine n).state ≠ .finishing) : v.outcomeEnds n (v.ignoreOutcome n) 0 := by
  obtain ⟨h1, h2, h3, h4⟩ := endOutcome_ends (old := v) hn [] []
  have hi : v.ignoreOutcome n = v.endOutcome v n [] [] := rfl
  exact
    { posts := h1, presses := by rw [hi, h2], owed := by rw [hi, h2], ended := h3, waits := h4
      raised := fun e => by
        show (v.endOutcome v n [] []).raising e.mask = true ↔ _
        rw [raising_endOutcome, syncHealth_same rfl, getLsbD_zero13]
        simp }

/-! ## Bad replies -/

/-- Every bad reply is taken alike (R128). -/
theorem exec_badReply {c : Instr} {x : Exchange} {b : Bool} (ha : s.active = true) (hx : (s.engine n).state = .running x b)
    (hp : (s.port n).state = .awaiting)
    (hc : c = .answerTimeout n ∨ c = .replyGap n ∨ ∃ r, c = .reply n r ∧ ¬ answers x r) :
    exec c s = .next ((s.portQuiet n .afterBad).onOutcome n x b .bad) := by
  have bad : ∀ o : Exchange → ReplyOutcome, o x = .bad →
      s.takeReply n o = (s.portQuiet n .afterBad).onOutcome n x b .bad := fun o ho => by
    rw [takeReply_eq hx hp, ho]; rfl
  rcases hc with rfl | rfl | ⟨r, rfl, hr⟩
  · exact congrArg Host.Outcome.next ((if_pos ha).trans (bad _ rfl))
  · exact congrArg Host.Outcome.next ((if_pos ha).trans (bad _ rfl))
  · rw [exec_reply ha, bad _ (judgeReply_bad.2 hr)]

theorem onBadQuery_lost {mask : ClearMask} (hg : s.sign slot = some g) (hf : 2 ≤ g.failures) :
    s.onBadQuery n slot address mask = (s.loseSign n slot address g).endOutcome s n [] (raisesAt slot Event.lost.mask) := by
  unfold State.onBadQuery
  rw [hg]
  exact if_pos hf

theorem onBadQuery_again {mask : ClearMask} (hg : s.sign slot = some g) (hf : g.failures < 2) :
    s.onBadQuery n slot address mask
      = ((s.setSign slot { g with failures := g.failures + 1 }).owe n address mask).endOutcome s n [] [] := by
  unfold State.onBadQuery
  rw [hg]
  exact if_neg (Nat.not_le.2 hf)

theorem onBadFace_lost {q : Byte} {k : Rank} {rec : FaceRecord} (hg : s.sign slot = some g) (hf : 2 ≤ g.failures) :
    s.onBadFace n slot address q k rec = (s.loseSign n slot address g).endOutcome s n [] (raisesAt slot Event.lost.mask) := by
  unfold State.onBadFace
  rw [hg]
  exact if_pos hf

theorem onBadFace_again {q : Byte} {k : Rank} {rec : FaceRecord} (hg : s.sign slot = some g) (hf : g.failures < 2) :
    s.onBadFace n slot address q k rec = (((s.setSign slot
      { g with failures := g.failures + 1, unconfirmed := some (q, rec), state := .pending }).returnToHead
        g.defn.line slot k).owe n address .query).endOutcome s n [] [] := by
  unfold State.onBadFace
  rw [hg]
  exact if_neg (Nat.not_le.2 hf)

/-- An outcome ended, against the state the exchange ran in. -/
theorem State.outcomeEnds.raisesOnly {f : BitVec 13} {p : Event → Prop} (h : v.outcomeEnds n z f) (hp : v.post = s.post)
    (hf : ∀ e : Event, f.getLsbD e.bit = true ↔ p e) : State.raisesOnly s z p := fun e => by
  rw [h.raised e, hf]
  unfold State.raising
  rw [hp]

/-- Settles O48. -/
theorem badRepliesAreCounted : Obligations.BadRepliesAreCounted := by
  unfold Obligations.BadRepliesAreCounted
  intro n x ignored c s ha hx hp hc
  dsimp only
  have hexec := exec_badReply ha hx hp hc
  let u := s.portQuiet n .afterBad
  have hue : u.engine n = s.engine n := rfl
  have hn : (u.engine n).state ≠ .finishing := by rw [hue, hx]; exact EngineState.noConfusion
  have none_raised : ∀ e : Event, (0 : BitVec 13).getLsbD e.bit = true ↔ e = .lost ∧ false = true := fun e => by
    rw [getLsbD_zero13]; simp
  have lost_raised : ∀ e : Event, Event.lost.mask.getLsbD e.bit = true ↔ e = .lost ∧ true = true := fun e => by
    rw [getLsbD_mask]; simp
  have ends : ∀ {v z : State} {f : BitVec 13} {p : Event → Prop}, v.outcomeEnds n z f → exec c s = .next z → v.post = s.post →
      (∀ e : Event, f.getLsbD e.bit = true ↔ p e) → ∃ t, exec c s = .next t ∧ State.postsOnlyAt n v t
        ∧ ((t.engine n).state = .finishing ∨ (t.engine n).state = .idle) ∧ State.raisesOnly s t p :=
    fun h he hp hf => ⟨_, he, h.posts, h.ended, h.raisesOnly hp hf⟩
  refine ⟨fun hi => ?_, fun hi slot address g hg => ?_⟩ <;> subst hi
  · exact ends (ignoreOutcome_outcome hn) hexec rfl none_raised
  · have hgu : u.sign slot = some g := hg
    have hl := endOutcome_outcome (v := u.loseSign n slot address g) (old := u) (n := n) (slot := slot) (g := lostSign g)
      (by rw [show (u.loseSign n slot address g).engine n = _ from State.engine_setEngine_self _ _ _]; exact hn)
      (Tab.get_set_self _ _ _) [] Event.lost.mask
    have hagain : ∀ mask : ClearMask, ((u.setSign slot { g with failures := g.failures + 1 }).setEngine n
        { s.engine n with owed := owedWith (s.engine n).owed address mask }).outcomeEnds n
        (((u.setSign slot { g with failures := g.failures + 1 }).owe n address mask).endOutcome u n [] []) 0 := fun mask => by
      rw [owe_setEngine]
      exact endOutcome_silent (slot := slot) (by rw [State.engine_setEngine_self]; exact hn) (Tab.get_set_self _ _ _)
    refine ⟨fun hq => ?_, fun mask hq => ?_, fun q k rec body hq => ?_⟩ <;> subst hq
    · exact ⟨fun hf => ends hl (hexec.trans (congrArg Host.Outcome.next (onBadQuery_lost hgu hf))) rfl lost_raised,
        fun hf => ends (hagain _) (hexec.trans (congrArg Host.Outcome.next (onBadQuery_again hgu hf))) rfl none_raised⟩
    · exact ⟨fun hf => ends hl (hexec.trans (congrArg Host.Outcome.next (onBadQuery_lost hgu hf))) rfl lost_raised,
        fun hf => ends (hagain _) (hexec.trans (congrArg Host.Outcome.next (onBadQuery_again hgu hf))) rfl none_raised⟩
    · refine ⟨fun hf => ends hl (hexec.trans (congrArg Host.Outcome.next (onBadFace_lost hgu hf))) rfl lost_raised,
        fun hf => ends ?_ (hexec.trans (congrArg Host.Outcome.next (onBadFace_again hgu hf))) rfl none_raised⟩
      rw [owe_setEngine]
      exact endOutcome_silent (slot := slot) (by rw [State.engine_setEngine_self]; exact hn) (Tab.get_set_self _ _ _)

end Sys2Proof.Machine
end

section
/-! A good reply acted on whole (R150, R152, R155, R156). -/

namespace Sys2Proof.Machine

variable {s t u v w z old : State} {n : Fin 4} {slot address : Nat} {g g' : Sign} {f : SignFlags} {mask : ClearMask}

/-! ## The flags of a reply -/

theorem handleFlags_dirty (hg : w.sign slot = some g) {j : Nat} : j ∈ (w.handleFlags n slot address mask f).1.comp.dirty
    ↔ j ∈ w.comp.dirty ∨ (j = slot ∧ f.pwr = true) := by
  have jam : ∀ (c : Bool) (x : State), (if c then x.owe n address { btn := false, jam := true } else x).comp = x.comp :=
    fun c x => by cases c <;> rfl
  have press : ∀ c : Bool, (if c then w.updateEngine n fun e =>
      { e with presses := e.presses ++ [{ slot := slot, address := address }] } else w).comp = w.comp := fun c => by cases c <;> rfl
  unfold State.handleFlags
  rw [hg]
  dsimp only
  rw [jam]
  split
  next hp =>
    rw [mem_markDirty]
    refine or_congr (by rw [← press]; rfl) (and_congr_right fun _ => iff_of_true (Tab.has_iff.2 ⟨_, Tab.get_set_self _ _ _⟩) hp)
  next hp =>
    rw [← press]
    simp only [hp]
    exact ⟨.inl, fun h => h.resolve_right fun h => Bool.false_ne_true h.2⟩

theorem handleFlags_frame (hg : w.sign slot = some g) : (w.handleFlags n slot address mask f).1 =
    { (w.setSign slot (flagged g f)).setEngine n (flaggedEngine (w.engine n) g slot address mask f) with
      comp := { w.comp with dirty := (w.handleFlags n slot address mask f).1.comp.dirty } } := by
  obtain ⟨x, ⟨d, rfl, -⟩, hx⟩ := handleFlags_eq (n := n) (a := address) (mask := mask) (f := f) hg
  rw [hx]
  rfl

theorem handleFlags_raises (hg : w.sign slot = some g) :
    (w.handleFlags n slot address mask f).2 = replyRaises g.seen f mask := by
  obtain ⟨x, -, hx⟩ := handleFlags_eq (n := n) (a := address) (mask := mask) (f := f) hg
  rw [hx]

theorem getLsbD_replyRaises (seen f : SignFlags) (mask : ClearMask) (e : Event) :
    (replyRaises seen f mask).getLsbD e.bit = true ↔ (e = .powerup ∧ f.pwr = true ∧ seen.pwr = false)
      ∨ (e = .lowbat ∧ f.lowb = true ∧ seen.lowb = false)
      ∨ (e = .fault ∧ f.jam = true ∧ (seen.jam = false ∨ mask.jam = true)) := by
  unfold replyRaises
  rw [BitVec.getLsbD_or, BitVec.getLsbD_or, Bool.or_eq_true, Bool.or_eq_true, getLsbD_when, getLsbD_when, getLsbD_when, or_assoc]
  simp only [Bool.and_eq_true, Bool.not_eq_true', Bool.or_eq_true]

theorem clearsBtn_iff (e : Engine) (a : Nat) : e.clearsBtn a = true ↔ ∃ m, Tab.get e.owed a = some m ∧ m.btn = true := by
  unfold Engine.clearsBtn
  cases Tab.get e.owed a <;> simp

/-! ## One record handed -/

theorem sorted_keys {α : Type} {l : Tab α} (h : Tab.sorted l = true) : (Tab.keys l).Pairwise (· < ·) :=
  List.pairwise_map.2 ((Tab.sorted_iff _).1 h)

theorem slotsOf_nodup (h : Tab.sorted s.signs = true) : (slotsOf s old).Nodup := by
  have hsorted : sortedIndices (slotsOf s old) = true := by
    unfold slotsOf
    generalize Tab.keys old.signs = l
    induction l with
    | nil => exact (sortedIndices_iff _).2 (sorted_keys h)
    | cons j l ih => exact sortedIndices_insertIndex j ih
  exact ((sortedIndices_iff _).1 hsorted).imp fun h => h.ne

theorem filter_singleton {a : Nat} {l : List Nat} (hn : l.Nodup) (ha : a ∈ l) : (l.filter fun i => decide (i = a)) = [a] := by
  induction l with
  | nil => cases ha
  | cons x l ih =>
    obtain ⟨hx, hl⟩ := List.nodup_cons.1 hn
    by_cases h : x = a
    · subst h
      rw [List.filter_cons_of_pos (by simp), List.filter_eq_nil_iff.2 fun i hi => by simpa using fun h : i = x => hx (h ▸ hi)]
    · rw [List.filter_cons_of_neg (by simpa using h)]
      exact ih hl ((List.mem_cons.1 ha).resolve_left (Ne.symm h))

/-- The records of an outcome whose sign's record is always handed: that one (R153). -/
theorem syncHealth_one {p : Producer} (hs : Tab.sorted s.signs = true) (hg : s.sign slot = some g)
    (hother : ∀ i, i ≠ slot → s.sign i = old.sign i) (f : BitVec 13) :
    s.syncHealth old p [slot] (raisesAt slot f) = s.hand { producer := p, record := .health slot, raises := f } := by
  have hf : (slotsOf s old).filter (fun i => decide (healthBody (s.sign i) ≠ healthBody (old.sign i)) || [slot].contains i
      || Tab.has (raisesAt slot f) i) = [slot] := by
    have hc : ∀ i ∈ slotsOf s old, (decide (healthBody (s.sign i) ≠ healthBody (old.sign i)) || [slot].contains i
        || Tab.has (raisesAt slot f) i) = decide (i = slot) := fun i _ => by
      by_cases hi : i = slot
      · subst hi; simp
      · have hr : Tab.has (raisesAt slot f) i = false := by
          unfold raisesAt
          split <;> simp [Tab.has, Tab.get, hi]
        simp [hother i hi, hi, hr]
    rw [List.filter_congr hc]
    exact filter_singleton (slotsOf_nodup hs) (mem_slotsOf_left (mem_keys_of_sign hg))
  unfold State.syncHealth State.handHealth
  rw [hf]
  show s.hand { producer := p, record := .health slot, raises := (Tab.get (raisesAt slot f) slot).getD 0 } = _
  rw [get_raisesAt, if_pos rfl]

theorem handsOne_hand {it : Item} (hp : it.producer ≠ .fill) (hs1 : v.path = s.path) (hs2 : v.post = s.post)
    (hz1 : z.path = (v.hand it).path) (hz2 : z.post = (v.hand it).post)
    (hlayout : recordLayout z it.record = recordLayout v it.record) : State.handsOne s z it.producer it.record := by
  have hstamp : ∀ k, v.stamp k = s.stamp k := fun k => by unfold State.stamp; rw [hs2]
  unfold State.handsOne
  dsimp only
  rw [hz1, hz2, hlayout, ← hs1, ← hs2, ← hstamp]
  rcases hand_cases v it with ⟨-, -, -, h⟩ | ⟨-, -, h⟩ | h <;> rw [h]
  · exact .inl (congrArg PathUnit.postQueue (path_enter hp))
  · refine .inr ?_
    simp [List.filter_append, Nat.add_assoc]
  · refine .inr ?_
    simp only [State.setWaiting_post, List.filter_append, List.length_append]
    rw [List.filter_cons_of_pos (by simp), List.filter_nil, List.length_singleton]
    omega

/-! ## A reply acted on -/

/-- What a good reply's flags and the sign's new record leave, as R150 to R156 give it: `g` is the sign as it was, `g'` as the
outcome leaves it before the flags. -/
structure State.actedOn (s t : State) (n : Fin 4) (slot address : Nat) (g g' : Sign) (f : SignFlags) (mask : ClearMask)
    (lists : Quad FaceLists) (settles always : Prop) : Prop where
  press : (f.btn = true ∧ ¬ ∃ m, Tab.get (s.engine n).owed address = some m ∧ m.btn = true) →
    (t.engine n).presses = (s.engine n).presses ++ [{ slot := slot, address := address }] ∧ (t.engine n).state = .finishing
  noPress : ¬ (f.btn = true ∧ ¬ ∃ m, Tab.get (s.engine n).owed address = some m ∧ m.btn = true) →
    (t.engine n).presses = (s.engine n).presses
  jams : (f.jam = true ∧ (g.seen.jam = false ∨ mask.jam = true)) →
    (t.engine n).owed = owedWith (s.engine n).owed address { btn := false, jam := true }
  noJams : ¬ (f.jam = true ∧ (g.seen.jam = false ∨ mask.jam = true)) → (t.engine n).owed = (s.engine n).owed
  ended : (t.engine n).state = .finishing ∨ (t.engine n).state = .idle
  dirty : ∀ i, i ∈ t.comp.dirty ↔ i ∈ s.comp.dirty ∨ (i = slot ∧ (f.pwr = true ∨ settles))
  posts : State.postsOnlyAt n
    { s.setEngine n { s.engine n with presses := (t.engine n).presses, owed := (t.engine n).owed } with
      signs := Tab.set s.signs slot { g' with seen := f, shown := if f.pwr then { g'.shown with resync := true } else g'.shown }
      lists := lists
      comp := { s.comp with dirty := t.comp.dirty } } t
  raises : State.raisesOnly s t fun e => (e = .powerup ∧ f.pwr = true ∧ g.seen.pwr = false)
    ∨ (e = .lowbat ∧ f.lowb = true ∧ g.seen.lowb = false)
    ∨ (e = .fault ∧ f.jam = true ∧ (g.seen.jam = false ∨ mask.jam = true))
  handed : always → Tab.sorted s.signs = true → State.handsOne s t (.engine n) (.health slot)

/-- An outcome acted on: the sign as `w` has it, its flags, and the end of the outcome. -/
theorem reply_acted {lists : Quad FaceLists} {settles : Prop} {al : List Nat} (hn : (s.engine n).state ≠ .finishing)
    (hseen : g'.seen = g.seen)
    (hw : w = { s with signs := Tab.set s.signs slot g', lists := lists, comp := { s.comp with dirty := w.comp.dirty } })
    (hset : ∀ i, i ∈ w.comp.dirty ↔ i ∈ s.comp.dirty ∨ (i = slot ∧ settles)) :
    s.actedOn ((w.handleFlags n slot address mask f).1.endOutcome s n al
      (raisesAt slot (w.handleFlags n slot address mask f).2)) n slot address g g' f mask lists settles (al = [slot]) := by
  have hgw : w.sign slot = some g' := by rw [hw]; exact Tab.get_set_self _ _ _
  have hwe : w.engine n = s.engine n := by rw [hw]; rfl
  have hv := handleFlags_frame (n := n) (address := address) (mask := mask) (f := f) hgw
  have hvd := fun j => handleFlags_dirty (n := n) (address := address) (mask := mask) (f := f) hgw (j := j)
  have hvr := handleFlags_raises (n := n) (address := address) (mask := mask) (f := f) hgw
  rw [hvr, hseen]
  generalize (w.handleFlags n slot address mask f).1 = v at hv hvd ⊢
  have hve : v.engine n = flaggedEngine (s.engine n) g' slot address mask f := by
    rw [hv, ← hwe]; exact State.engine_setEngine_self _ _ _
  have hvs : v.sign slot = some (flagged g' f) := by rw [hv]; exact Tab.get_set_self _ _ _
  have hvp : v.post = s.post := by rw [hv, hw]; rfl
  have h := endOutcome_outcome (old := s) (by rw [hve]; exact hn) hvs al (replyRaises g.seen f mask)
  generalize hz : v.endOutcome s n al (raisesAt slot (replyRaises g.seen f mask)) = z at h
  have hpress : (v.engine n).presses = if f.btn && !(s.engine n).clearsBtn address then
      (s.engine n).presses ++ [{ slot := slot, address := address }] else (s.engine n).presses := by rw [hve]; rfl
  have howed : (v.engine n).owed = if f.jam && (!g.seen.jam || mask.jam) then
      owedWith (s.engine n).owed address { btn := false, jam := true } else (s.engine n).owed := by
    rw [hve, ← owe_eq, ← hseen]; rfl
  have hbtn : (f.btn && !(s.engine n).clearsBtn address) = true
      ↔ f.btn = true ∧ ¬ ∃ m, Tab.get (s.engine n).owed address = some m ∧ m.btn = true := by
    rw [Bool.and_eq_true, Bool.not_eq_true', ← Bool.not_eq_true, clearsBtn_iff]
  have hjam : (f.jam && (!g.seen.jam || mask.jam)) = true ↔ f.jam = true ∧ (g.seen.jam = false ∨ mask.jam = true) := by simp
  have hzcomp : z.comp = v.comp := h.posts.read State.comp fun _ => rfl
  constructor
  case press =>
    intro hb
    rw [if_pos (hbtn.2 hb)] at hpress
    exact ⟨h.presses.trans hpress, h.waits (by rw [hpress]; exact List.append_ne_nil_of_right_ne_nil _ (List.cons_ne_nil _ _))⟩
  case noPress =>
    intro hb
    rw [if_neg (mt hbtn.1 hb)] at hpress
    exact h.presses.trans hpress
  case jams =>
    intro hj
    rw [if_pos (hjam.2 hj)] at howed
    exact h.owed.trans howed
  case noJams =>
    intro hj
    rw [if_neg (mt hjam.1 hj)] at howed
    exact h.owed.trans howed
  case ended => exact h.ended
  case dirty =>
    intro i
    rw [hzcomp, hvd, hset]
    tauto
  case posts =>
    have hv' : v = { s.setEngine n { s.engine n with presses := (z.engine n).presses, owed := (z.engine n).owed } with
        signs := Tab.set s.signs slot
          { g' with seen := f, shown := if f.pwr then { g'.shown with resync := true } else g'.shown }
        lists := lists
        comp := { s.comp with dirty := z.comp.dirty } } := by
      rw [h.presses, h.owed, hzcomp, hve, hv, hwe, hw]
      simp only [State.setSign, Tab.set_set]
      rfl
    rw [← hv']
    exact h.posts
  case raises => exact h.raisesOnly hvp (getLsbD_replyRaises g.seen f mask)
  case handed =>
    intro hal hsort
    subst hal
    have hvsort : Tab.sorted v.signs = true := by
      have hvs : v.signs = Tab.set (Tab.set s.signs slot g') slot (flagged g' f) := by rw [hv, hw]; rfl
      rw [hvs]
      exact Tab.sorted_set _ _ (Tab.sorted_set _ _ hsort)
    have hother : ∀ i, i ≠ slot → v.sign i = s.sign i := fun i hi => by
      rw [hv, hw]
      exact (Tab.get_set_of_ne _ _ hi).trans (Tab.get_set_of_ne _ _ hi)
    have hone := syncHealth_one (p := .engine n) hvsort hvs hother (replyRaises g.seen f mask)
    have hzx : ∃ e, z = (v.syncHealth s (.engine n) [slot] (raisesAt slot (replyRaises g.seen f mask))).setEngine n e :=
      ⟨_, by rw [← hz]; exact (settleEngine_eq _ n).trans (State.setEngine_setEngine _ _ _ _)⟩
    obtain ⟨e, hze⟩ := hzx
    rw [hone] at hze
    exact handsOne_hand (it := { producer := .engine n, record := .health slot, raises := replyRaises g.seen f mask }) nofun
      (by rw [hv, hw]; rfl) hvp (by rw [hze]; rfl) (by rw [hze]; rfl) (by
        have hsigns : z.signs = v.signs := h.posts.read State.signs fun _ => rfl
        show recordLayout z (.health slot) = recordLayout v (.health slot)
        unfold recordLayout
        unfold State.sign
        rw [hsigns])

/-! ## The replies that are good -/

/-- An engine whose outcome is ignored ends with its presses taken and its records entered (R144, R158). -/
theorem ignoreOutcome_eq (s : State) (n : Fin 4) : s.ignoreOutcome n = s.setEngine n { s.engine n with
    state := if (s.engine n).presses = [] ∧ s.producerBusy (.engine n) = false ∧ s.producerBusy (.ring n) = false then .idle
      else .finishing } := by
  have hw : s.ignoreOutcome n = (s.setEngine n { s.engine n with state := .finishing }).settleEngine n := endOutcome_same rfl
  have hst := settleEngine_state (s.setEngine n { s.engine n with state := .finishing }) n
  rw [State.engine_setEngine_self] at hst
  rw [hw, settleEngine_eq, hst, State.engine_setEngine_self, State.setEngine_setEngine]
  rw [producerBusy_settleEngine, producerBusy_settleEngine]
  exact congrArg (s.setEngine n) (by
    rw [Engine.mk.injEq]
    exact ⟨if_congr (and_iff_right rfl) rfl rfl, rfl, rfl, rfl, rfl, rfl, rfl⟩)

theorem onStatus_acted {mask : ClearMask} {last : Byte} (hn : (s.engine n).state ≠ .finishing) (hg : s.sign slot = some g) :
    s.actedOn (s.onStatus n slot address mask f last) n slot address g { settled g last with failures := 0 } f mask s.lists
      (confirms g last = true) True := by
  have hseen : (settled g last).seen = g.seen := by
    unfold settled
    split <;> rfl
  have heq : s.onStatus n slot address mask f last =
      (((if confirms g last then (s.setSign slot { settled g last with failures := 0 }).markDirty slot else
        s.setSign slot { settled g last with failures := 0 }).handleFlags n slot address mask f).1.endOutcome s n [slot]
          (raisesAt slot (((if confirms g last then (s.setSign slot { settled g last with failures := 0 }).markDirty slot else
        s.setSign slot { settled g last with failures := 0 }).handleFlags n slot address mask f).2))) := by
    unfold State.onStatus
    rw [hg]
  have hdefined : Tab.has (s.setSign slot { settled g last with failures := 0 }).signs slot = true :=
    Tab.has_iff.2 ⟨_, Tab.get_set_self _ _ _⟩
  rw [heq]
  generalize hw : (if confirms g last then (s.setSign slot { settled g last with failures := 0 }).markDirty slot else
    s.setSign slot { settled g last with failures := 0 }) = w
  have h := reply_acted (n := n) (address := address) (mask := mask) (f := f) (al := [slot]) (w := w)
    (g' := { settled g last with failures := 0 }) (lists := s.lists) (settles := confirms g last = true) hn hseen
    (by rw [← hw]
        split
        · obtain ⟨d, hd⟩ := markDirty_eq (s.setSign slot { settled g last with failures := 0 }) slot
          rw [hd]; rfl
        · rfl)
    (fun i => by
      rw [← hw]
      split
      next hc =>
        rw [mem_markDirty]
        exact or_congr_right (and_congr_right fun _ => iff_of_true hdefined hc)
      next hc => exact ⟨.inl, fun h => h.resolve_right fun h => hc h.2⟩)
  exact { h with handed := fun _ => h.handed rfl }

theorem settled_none {last : Byte} (h : g.unconfirmed = none) : settled g last = g ∧ confirms g last = false := by
  unfold settled confirms
  rw [h]
  exact ⟨rfl, rfl⟩

theorem settled_some {last q : Byte} {record : FaceRecord} (h : g.unconfirmed = some (q, record)) :
    settled g last =
      { g with unconfirmed := none, shown := if q = last then { record with resync := false } else g.shown }
      ∧ confirms g last = decide (q = last) := by
  unfold settled confirms
  rw [h]
  exact ⟨rfl, rfl⟩

/-- The sign as ACCEPT leaves it, but for the reply's flags (R155). -/
def acceptedSign (k : SetupLogic) (g : Sign) (record : FaceRecord) : Sign :=
  { g with
    failures := 0
    credits := g.credits - 1
    shown := { record with resync := false }
    unconfirmed := none
    timer := some (k.kinds.get g.defn.kind).refresh
    state := .refreshing }

/-- The sign as BUSY leaves it, but for the reply's flags (R156). -/
def busySign (k : SetupLogic) (g : Sign) : Sign :=
  { g with failures := 0, timer := some (k.kinds.get g.defn.kind).refresh, state := .refreshing }

theorem onAccept_acted {record : FaceRecord} (hn : (s.engine n).state ≠ .finishing) (hg : s.sign slot = some g) :
    s.actedOn (s.onAccept n slot address record f) n slot address g
      (acceptedSign s.setup g record) f .query s.lists (false = true) (false = true) := by
  unfold State.onAccept
  rw [hg]
  dsimp only
  have h := reply_acted (n := n) (address := address) (mask := .query) (f := f) (al := []) 
    (w := s.setSign slot (acceptedSign s.setup g record)) (g := g) (g' := acceptedSign s.setup g record) (settles := false = true) hn rfl rfl (fun i => by simp [State.setSign])
  exact { h with handed := nofun }

theorem onBusy_acted {rank : Rank} (hn : (s.engine n).state ≠ .finishing) (hg : s.sign slot = some g) :
    s.actedOn (s.onBusy n slot address rank f) n slot address g
      (busySign s.setup g) f .query (s.lists.set g.defn.line (((s.lists.get g.defn.line).without slot).set rank
        (slot :: ((s.lists.get g.defn.line).without slot).get rank))) (false = true) (false = true) := by
  unfold State.onBusy
  rw [hg]
  dsimp only
  have h := reply_acted (n := n) (address := address) (mask := .query) (f := f) (al := [])
    (w := (s.setSign slot (busySign s.setup g)).returnToHead g.defn.line slot rank) (g := g) (g' := busySign s.setup g) (settles := false = true) hn rfl rfl
    (fun i => by simp [State.setSign, State.returnToHead, State.setLists])
  exact { h with handed := nofun }

/-- Settles O47. -/
theorem goodRepliesAreActedOn : Obligations.GoodRepliesAreActedOn := by
  unfold Obligations.GoodRepliesAreActedOn
  intro n x ignored r s ha hx hp
  dsimp only
  let u := s.portQuiet n .afterGood
  have hn : (u.engine n).state ≠ .finishing := by
    rw [show u.engine n = s.engine n from rfl, hx]
    exact EngineState.noConfusion
  have hgood : judgeReply x r ≠ .bad → exec (.reply n r) s = .next (u.onOutcome n x ignored (judgeReply x r)) := fun hb => by
    rw [exec_reply ha, takeReply_eq hx hp, if_neg hb]
  refine ⟨fun hi hr => ?_, fun hi slot address g hg => ?_⟩ <;> subst hi
  · rw [hgood fun hb => judgeReply_bad.1 hb hr]
    exact congrArg Host.Outcome.next (ignoreOutcome_eq u n)
  have hgu : u.sign slot = some g := hg
  have status : ∀ mask, u.actedOn (u.onStatus n slot address mask (replyShows r) r.sequence) n slot address g
      { settled g r.sequence with failures := 0 } (replyShows r) mask s.lists (confirms g r.sequence = true) True :=
    fun mask => onStatus_acted hn hgu
  refine ⟨fun hq hr => ?_, fun mask hq hr => ?_, fun q k rec body hq hseq => ⟨fun hr => ?_, fun hr => ?_⟩⟩ <;> subst hq
  · have hj := (judgeReply_query (i := slot)).1 hr
    have hx := hgood (by rw [hj]; exact ReplyOutcome.noConfusion)
    rw [hj] at hx
    have h := status .query
    refine ⟨fun hu => ?_, fun q record hu => ?_⟩
    · rw [(settled_none hu).1, (settled_none hu).2] at h
      exact ⟨_, hx, h.press, h.noPress, h.jams, h.noJams, h.ended, h.dirty, h.posts, h.raises, fun _ => h.handed trivial⟩
    · rw [(settled_some hu).1, (settled_some hu).2] at h
      exact ⟨_, hx, h.press, h.noPress, h.jams, h.noJams, h.ended, h.dirty, h.posts, h.raises, fun _ => h.handed trivial⟩
  · have hj := (judgeReply_clear (i := slot) (m := mask)).1 hr
    have hx := hgood (by rw [hj]; exact ReplyOutcome.noConfusion)
    rw [hj] at hx
    have h := status mask
    refine ⟨fun hu => ?_, fun q record hu => ?_⟩
    · rw [(settled_none hu).1, (settled_none hu).2] at h
      exact ⟨_, hx, h.press, h.noPress, h.jams, h.noJams, h.ended, h.dirty, h.posts, h.raises, fun _ => h.handed trivial⟩
    · rw [(settled_some hu).1, (settled_some hu).2] at h
      exact ⟨_, hx, h.press, h.noPress, h.jams, h.noJams, h.ended, h.dirty, h.posts, h.raises, fun _ => h.handed trivial⟩
  · have hj := (judgeReply_face (i := slot) (k := k) (rec := rec) (b := body)).1 hseq hr
    have hx := hgood (by rw [hj]; exact ReplyOutcome.noConfusion)
    rw [hj] at hx
    have h := onAccept_acted (n := n) (address := address) (record := rec) (f := replyShows r) hn hgu
    exact ⟨_, hx, h.press, h.noPress, h.jams, h.noJams, h.ended, h.dirty, h.posts, h.raises, h.handed⟩
  · have hj := (judgeReply_face (i := slot) (k := k) (rec := rec) (b := body)).2.1 hseq hr
    have hx := hgood (by rw [hj]; exact ReplyOutcome.noConfusion)
    rw [hj] at hx
    have h := onBusy_acted (n := n) (address := address) (rank := k) (f := replyShows r) hn hgu
    exact ⟨_, hx, h.press, h.noPress, h.jams, h.noJams, h.ended, h.dirty, h.posts, h.raises, h.handed⟩

end Sys2Proof.Machine
end

section
/-! A slot map gone through (R148). -/

namespace Sys2Proof.Machine

variable {s t x : State} {n : Fin 4} {presence : Bool} {marks : BitVec 128} {g : Sign} {a i : Nat}

/-- A LOST sign of the line that a presence sweep brings back. -/
def Sign.returns (n : Fin 4) (presence : Bool) (marks : BitVec 128) (g : Sign) : Bool :=
  g.defn.line = n && g.state = .lost && presence && marks.getLsbD g.defn.address

/-- A sign of the line that a sweep owes a QUERY. -/
def Sign.queried (n : Fin 4) (presence : Bool) (marks : BitVec 128) (g : Sign) : Bool :=
  g.defn.line = n && g.state ≠ .lost && (presence || marks.getLsbD g.defn.address)

theorem Sign.returns_iff : g.returns n presence marks = true
    ↔ g.defn.line = n ∧ g.state = .lost ∧ presence = true ∧ marks.getLsbD g.defn.address = true := by
  simp only [Sign.returns, Bool.and_eq_true, decide_eq_true_eq, and_assoc]

theorem Sign.queried_iff : g.queried n presence marks = true
    ↔ g.defn.line = n ∧ g.state ≠ .lost ∧ (presence = true ∨ marks.getLsbD g.defn.address = true) := by
  simp only [Sign.queried, Bool.and_eq_true, decide_eq_true_eq, Bool.or_eq_true, and_assoc]

theorem get_owedWith (l : Tab ClearMask) (a b : Nat) : Tab.get (owedWith l a .query) b =
    if b = a then some ((Tab.get l a).getD { btn := false, jam := false }) else Tab.get l b := by
  unfold owedWith
  rw [Tab.get_set]
  split
  · simp [ClearMask.query]
  · rfl

/-! ## The sign of an address -/

theorem signAt_none (h : s.signAt n a = none) (hg : s.sign i = some g) : ¬ (g.defn.line = n ∧ g.defn.address = a) := by
  have := List.find?_eq_none.1 h (i, g) (Tab.mem_of_get hg)
  simpa using this

theorem signAt_some (hs : Tab.sorted s.signs = true) (h : s.signAt n a = some (i, g)) :
    s.sign i = some g ∧ g.defn.line = n ∧ g.defn.address = a := by
  obtain ⟨hmem, h1, h2⟩ := signAt_spec h
  exact ⟨Tab.get_of_mem hs hmem, h1, h2⟩

/-- Distinct addresses (R139): an address of a line has one sign. -/
theorem sign_unique (hs : signDefsOk s.signDefs = true) {j : Nat} {h : Sign} (hi : s.sign i = some g) (hj : s.sign j = some h)
    (hline : g.defn.line = h.defn.line) (haddr : g.defn.address = h.defn.address) : j = i := by
  by_contra hne
  rcases ((signDefsOk_iff _).1 hs).2.2 i j g.defn h.defn (by rw [get_signDefs, hi]; rfl) (by rw [get_signDefs, hj]; rfl)
    (Ne.symm hne) with h | h
  · exact h hline
  · exact h haddr

/-! ## The addresses gone through -/

/-- `r` is what the addresses `l` of a slot map leave of `s`: the signs they bring back, the work they owe, the raises. -/
structure State.mapped (s : State) (n : Fin 4) (presence : Bool) (marks : BitVec 128) (l : List Nat)
    (r : State × Tab (BitVec 13)) : Prop where
  defs : r.1.signDefs = s.signDefs
  signs : ∀ i, r.1.sign i = (s.sign i).map fun g =>
    if g.returns n presence marks && l.contains g.defn.address then backSign s.setup.styles g else g
  dirty : ∀ i, i ∈ r.1.comp.dirty ↔ i ∈ s.comp.dirty
    ∨ ∃ g, s.sign i = some g ∧ g.returns n presence marks = true ∧ g.defn.address ∈ l
  raises : ∀ i, Tab.get r.2 i = some Event.back.mask ↔ ∃ g, s.sign i = some g ∧ g.returns n presence marks = true ∧ g.defn.address ∈ l
  raised : ∀ i f, Tab.get r.2 i = some f → f = Event.back.mask
  owed : ∀ b, (∃ i g, s.sign i = some g ∧ g.defn.address = b ∧ g.queried n presence marks = true ∧ b ∈ l) →
    Tab.get (r.1.engine n).owed b = some ((Tab.get (s.engine n).owed b).getD { btn := false, jam := false })
  kept : ∀ b, (∀ i g, s.sign i = some g → g.defn.address = b → ¬ (g.queried n presence marks = true ∧ b ∈ l)) →
    Tab.get (r.1.engine n).owed b = Tab.get (s.engine n).owed b
  frame : r.1 = { s.setEngine n { s.engine n with owed := (r.1.engine n).owed } with
    signs := r.1.signs, comp := { s.comp with dirty := r.1.comp.dirty } }

theorem mapped_nil (s : State) : s.mapped n presence marks [] (s, []) where
  defs := rfl
  signs i := by simp
  dirty i := by simp
  raises i := by simp [Tab.get]
  raised i f h := by cases h
  owed b h := by obtain ⟨_, _, _, _, _, h⟩ := h; cases h
  kept b _ := rfl
  frame := by rw [show ({ s.engine n with owed := (s.engine n).owed } : Engine) = s.engine n from rfl, State.setEngine_engine_self]

/-- An address that neither brings a sign back nor owes a QUERY. -/
theorem State.mapped.skip {l : List Nat} {r : State × Tab (BitVec 13)} (h : s.mapped n presence marks l r)
    (hnone : ∀ i g, s.sign i = some g → g.defn.address = a → g.returns n presence marks = false ∧ g.queried n presence marks = false) :
    s.mapped n presence marks (l ++ [a]) r := by
  have returns : ∀ i g, s.sign i = some g → g.returns n presence marks = true → (g.defn.address ∈ l ++ [a] ↔ g.defn.address ∈ l) :=
    fun i g hg hr => by
      rw [List.mem_append, List.mem_singleton, or_iff_left]
      intro ha
      rw [(hnone i g hg ha).1] at hr
      cases hr
  have found : ∀ i, (∃ g, s.sign i = some g ∧ g.returns n presence marks = true ∧ g.defn.address ∈ l ++ [a])
      ↔ ∃ g, s.sign i = some g ∧ g.returns n presence marks = true ∧ g.defn.address ∈ l := fun i =>
    exists_congr fun g => and_congr_right fun hg => and_congr_right fun hr => returns i g hg hr
  exact
    { h with
      signs := fun i => by
        rw [h.signs]
        cases hg : s.sign i with
        | none => rfl
        | some g =>
          cases hr : g.returns n presence marks with
          | false => simp [hr]
          | true => simp only [Option.map_some, hr, Bool.true_and, List.contains_iff_mem, returns i g hg hr]
      dirty := fun i => by rw [h.dirty, found]
      raises := fun i => by rw [h.raises, found]
      owed := fun b ⟨i, g, hg, hb, hq, hl⟩ => h.owed b ⟨i, g, hg, hb, hq, by
        rcases List.mem_append.1 hl with hl | hl
        · exact hl
        · rw [(hnone i g hg (hb.trans (List.mem_singleton.1 hl))).2] at hq
          cases hq⟩
      kept := fun b hb => h.kept b fun i g hg ha hq => hb i g hg ha ⟨hq.1, List.mem_append_left _ hq.2⟩ }

/-- The sign of an address not yet gone through is the one that stood there before. -/
theorem State.mapped.sign_eq {l : List Nat} {r : State × Tab (BitVec 13)} (h : s.mapped n presence marks l r)
    (hs : signDefsOk s.signDefs = true) (ha : a ∉ l) {slot : Nat} (hat : r.1.signAt n a = some (slot, g)) :
    s.sign slot = some g ∧ g.defn.line = n ∧ g.defn.address = a := by
  have hsorted : Tab.sorted r.1.signs = true := by
    rw [← sorted_signDefs, h.defs]
    exact ((signDefsOk_iff _).1 hs).1
  obtain ⟨hg, hline, haddr⟩ := signAt_some hsorted hat
  rw [h.signs] at hg
  obtain ⟨g0, hg0, heq⟩ := Option.map_eq_some_iff.1 hg
  have hdefn : g.defn = g0.defn := by
    rw [← heq]
    split <;> rfl
  rw [if_neg (by simp [← hdefn, haddr, ha])] at heq
  exact ⟨heq ▸ hg0, hline, haddr⟩

/-- An address whose LOST sign comes back. -/
theorem State.mapped.back {l : List Nat} {r : State × Tab (BitVec 13)} (h : s.mapped n presence marks l r)
    (hs : signDefsOk s.signDefs = true) {slot : Nat} (hg : s.sign slot = some g) (hr : g.returns n presence marks = true)
    (ha : g.defn.address ∉ l) : s.mapped n presence marks (l ++ [g.defn.address])
      ((r.1.setSign slot (backSign s.setup.styles g)).markDirty slot, Tab.set r.2 slot Event.back.mask) := by
  obtain ⟨hline, hlost, -, -⟩ := Sign.returns_iff.1 hr
  obtain ⟨d, hd⟩ := markDirty_eq (r.1.setSign slot (backSign s.setup.styles g)) slot
  have hrsign : r.1.sign slot = some g := by
    rw [h.signs, hg]
    simp [ha]
  have hquery : g.queried n presence marks = false := by simp [Sign.queried, hlost]
  have other : ∀ i g', s.sign i = some g' → g'.returns n presence marks = true → g'.defn.address = g.defn.address → i = slot :=
    fun i g' hi hr' he => sign_unique hs hg hi (hline.trans (Sign.returns_iff.1 hr').1.symm) he.symm
  have found : ∀ i, (∃ g', s.sign i = some g' ∧ g'.returns n presence marks = true ∧ g'.defn.address ∈ l ++ [g.defn.address])
      ↔ (∃ g', s.sign i = some g' ∧ g'.returns n presence marks = true ∧ g'.defn.address ∈ l) ∨ i = slot := fun i => by
    constructor
    · rintro ⟨g', hg', hr', hl⟩
      rcases List.mem_append.1 hl with hl | hl
      · exact .inl ⟨g', hg', hr', hl⟩
      · exact .inr (other i g' hg' hr' (List.mem_singleton.1 hl))
    · rintro (⟨g', hg', hr', hl⟩ | rfl)
      · exact ⟨g', hg', hr', List.mem_append_left _ hl⟩
      · exact ⟨g, hg, hr, List.mem_append_right _ (List.mem_singleton_self _)⟩
  have hsigns : ((r.1.setSign slot (backSign s.setup.styles g)).markDirty slot).signs
      = Tab.set r.1.signs slot (backSign s.setup.styles g) := by rw [hd]; rfl
  have hengine : ((r.1.setSign slot (backSign s.setup.styles g)).markDirty slot).engine n = r.1.engine n := by rw [hd]; rfl
  constructor
  case defs =>
    rw [signDefs_congr (s := r.1.setSign slot (backSign s.setup.styles g)) hsigns, ← h.defs]
    exact signDefs_setSign_same (by rw [h.defs]; exact ((signDefsOk_iff _).1 hs).1) hrsign rfl
  case signs =>
    intro i
    show Tab.get ((r.1.setSign slot (backSign s.setup.styles g)).markDirty slot).signs i = _
    rw [hsigns, Tab.get_set]
    by_cases hi : i = slot
    · subst hi
      simp [hg, hr]
    · rw [if_neg hi, show Tab.get r.1.signs i = r.1.sign i from rfl, h.signs]
      cases hg' : s.sign i with
      | none => rfl
      | some g' =>
        cases hr' : g'.returns n presence marks with
        | false => simp [hr']
        | true =>
          have hne : g'.defn.address ≠ g.defn.address := fun he => hi (other i g' hg' hr' he)
          simp [hr', hne]
  case dirty =>
    intro i
    rw [mem_markDirty, found, ← or_assoc, ← h.dirty]
    exact or_congr_right (and_iff_left (Tab.has_iff.2 ⟨_, Tab.get_set_self _ _ _⟩))
  case raises =>
    intro i
    rw [found, ← h.raises, Tab.get_set]
    by_cases hi : i = slot <;> simp [hi]
  case raised =>
    intro i f hf
    rw [Tab.get_set] at hf
    split at hf
    · exact (Option.some.inj hf).symm
    · exact h.raised i f hf
  case owed =>
    intro b ⟨i, g', hg', hb, hq, hl⟩
    rw [hengine]
    rcases List.mem_append.1 hl with hl | hl
    · exact h.owed b ⟨i, g', hg', hb, hq, hl⟩
    · have hi : i = slot := sign_unique hs hg hg' (hline.trans (Sign.queried_iff.1 hq).1.symm)
        (hb.trans (List.mem_singleton.1 hl)).symm
      rw [hi, hg] at hg'
      cases hg'
      rw [hquery] at hq
      cases hq
  case kept =>
    intro b hb
    rw [hengine]
    exact h.kept b fun i g' hg' ha' hq => hb i g' hg' ha' ⟨hq.1, List.mem_append_left _ hq.2⟩
  case frame =>
    dsimp only
    rw [hengine, hsigns, hd]
    conv_lhs => rw [h.frame]
    rfl

theorem setEngine_frame {e0 : Engine} {sg : Tab Sign} {d : List Nat}
    (h : x = { s.setEngine n e0 with signs := sg, comp := { s.comp with dirty := d } }) (e : Engine) :
    x.setEngine n e = { s.setEngine n e with signs := sg, comp := { s.comp with dirty := d } } := by
  rw [h]
  exact congrArg (fun b : State => { b with signs := sg, comp := { s.comp with dirty := d } }) (State.setEngine_setEngine s n e0 e)

theorem State.mapped.engine {l : List Nat} {r : State × Tab (BitVec 13)} (h : s.mapped n presence marks l r) :
    r.1.engine n = { s.engine n with owed := (r.1.engine n).owed } := by
  conv_lhs => rw [h.frame]
  exact State.engine_setEngine_self _ _ _

/-- An address whose sign is owed a QUERY. -/
theorem State.mapped.query {l : List Nat} {r : State × Tab (BitVec 13)} (h : s.mapped n presence marks l r)
    (hs : signDefsOk s.signDefs = true) {slot : Nat} (hg : s.sign slot = some g) (hq : g.queried n presence marks = true)
    (ha : g.defn.address ∉ l) : s.mapped n presence marks (l ++ [g.defn.address]) (r.1.owe n g.defn.address .query, r.2) := by
  obtain ⟨hline, hlive, -⟩ := Sign.queried_iff.1 hq
  have other : ∀ i g', s.sign i = some g' → g'.returns n presence marks = true → g'.defn.address ≠ g.defn.address := by
    intro i g' hi hr' he
    have hslot : i = slot := sign_unique hs hg hi (hline.trans (Sign.returns_iff.1 hr').1.symm) he.symm
    rw [hslot, hg] at hi
    cases hi
    exact hlive (Sign.returns_iff.1 hr').2.1
  have found : ∀ i, (∃ g', s.sign i = some g' ∧ g'.returns n presence marks = true ∧ g'.defn.address ∈ l ++ [g.defn.address])
      ↔ ∃ g', s.sign i = some g' ∧ g'.returns n presence marks = true ∧ g'.defn.address ∈ l := fun i =>
    exists_congr fun g' => and_congr_right fun hg' => and_congr_right fun hr' => by
      rw [List.mem_append, List.mem_singleton, or_iff_left (other i g' hg' hr')]
  have hkeep : Tab.get (r.1.engine n).owed g.defn.address = Tab.get (s.engine n).owed g.defn.address :=
    h.kept _ fun _ _ _ _ hl => ha hl.2
  have howed : ((r.1.owe n g.defn.address .query).engine n).owed = owedWith (r.1.engine n).owed g.defn.address .query := by
    rw [owe_setEngine, State.engine_setEngine_self]
  constructor
  case defs => exact h.defs
  case signs =>
    intro i
    show r.1.sign i = _
    rw [h.signs]
    cases hg' : s.sign i with
    | none => rfl
    | some g' =>
      cases hr' : g'.returns n presence marks with
      | false => simp [hr']
      | true => simp [hr', other i g' hg' hr']
  case dirty => exact fun i => by rw [found]; exact h.dirty i
  case raises => exact fun i => by rw [found]; exact h.raises i
  case raised => exact h.raised
  case owed =>
    intro b ⟨i, g', hg', hb, hq', hl⟩
    dsimp only
    rw [howed, get_owedWith]
    split
    next he => rw [hkeep, he]
    next he =>
      refine h.owed b ⟨i, g', hg', hb, hq', ?_⟩
      rcases List.mem_append.1 hl with hl | hl
      · exact hl
      · exact absurd (List.mem_singleton.1 hl) he
  case kept =>
    intro b hb
    dsimp only
    rw [howed, get_owedWith, if_neg fun he => hb slot g hg he.symm ⟨hq, by rw [he]; exact List.mem_append_right _ (List.mem_singleton_self _)⟩]
    exact h.kept b fun i g' hg' ha' hq' => hb i g' hg' ha' ⟨hq'.1, List.mem_append_left _ hq'.2⟩
  case frame =>
    dsimp only
    rw [howed, owe_setEngine]
    rw [h.engine]
    exact setEngine_frame h.frame _

theorem State.mapped.step {l : List Nat} {r : State × Tab (BitVec 13)} (h : s.mapped n presence marks l r)
    (hs : signDefsOk s.signDefs = true) (ha : a ∉ l) : s.mapped n presence marks (l ++ [a]) (State.handleMark r n presence marks a) := by
  have hstyles : r.1.setup = s.setup := by rw [h.frame]; rfl
  unfold State.handleMark
  cases hat : r.1.signAt n a with
  | none =>
    refine h.skip fun i g hg haddr => ?_
    have hri := h.signs i
    rw [hg] at hri
    have hno := signAt_none hat hri
    have hdefn : (if g.returns n presence marks && l.contains g.defn.address then backSign s.setup.styles g else g).defn = g.defn := by
      split <;> rfl
    rw [hdefn] at hno
    have hline : g.defn.line ≠ n := fun hl => hno ⟨hl, haddr⟩
    exact ⟨by simp [Sign.returns, hline], by simp [Sign.queried, hline]⟩
  | some e =>
    obtain ⟨slot, g⟩ := e
    obtain ⟨hg, hline, rfl⟩ := h.sign_eq hs ha hat
    have only : ∀ i g', s.sign i = some g' → g'.defn.address = g.defn.address → g'.defn.line = n → g' = g := fun i g' hi he hl => by
      have := sign_unique hs hg hi (hline.trans hl.symm) he.symm
      rw [this, hg] at hi
      exact (Option.some.inj hi).symm
    have skip : g.returns n presence marks = false → g.queried n presence marks = false →
        s.mapped n presence marks (l ++ [g.defn.address]) r := fun h1 h2 => h.skip fun i g' hi he => by
      by_cases hl : g'.defn.line = n
      · rw [only i g' hi he hl]; exact ⟨h1, h2⟩
      · exact ⟨by simp [Sign.returns, hl], by simp [Sign.queried, hl]⟩
    dsimp only
    rw [hstyles]
    split
    next hlost =>
      split
      next hc => exact h.back hs hg (by simpa [Sign.returns, hline, hlost] using hc) ha
      next hc => exact skip (by simpa [Sign.returns, hline, hlost] using hc) (by simp [Sign.queried, hlost])
    next hlive =>
      split
      next hc => exact h.query hs hg (by simpa [Sign.queried, hline, hlive] using hc) ha
      next hc => exact skip (by simp [Sign.returns, hlive]) (by simpa [Sign.queried, hline, hlive] using hc)

theorem mapped_foldl (hs : signDefsOk s.signDefs = true) (l : List Nat) (hl : l.Nodup) :
    s.mapped n presence marks l (l.foldl (fun r a => State.handleMark r n presence marks a) (s, [])) := by
  induction l using List.reverseRecOn with
  | nil => exact mapped_nil s
  | append_singleton l a ih =>
    obtain ⟨hl, -, hd⟩ := List.nodup_append'.1 hl
    rw [List.foldl_append]
    exact (ih hl).step hs fun ha => hd ha (List.mem_singleton_self _)

/-! ## The end of the sweep -/

theorem sweptEngine_eq (presence : Bool) (e : Engine) : sweptEngine presence e =
    { e with presence := e.presence && !presence, routine := if presence then 0 else min 15 (e.routine + 1) } := by
  cases presence <;> simp [sweptEngine]

theorem exec_slotsEnd {mask polarity : SignFlags} {all ignored : Bool} (ha : s.active = true)
    (hx : (s.engine n).state = .running (.sweep presence mask polarity all) ignored) (hp : (s.port n).state = .slots) :
    exec (.slotsEnd n marks) s = .next ((s.portQuiet n .afterSweep).onMap n presence marks) := by
  have hs : (s.engine n).sweepPresence = some presence := by unfold Engine.sweepPresence; rw [hx]
  show execSlotsEnd n marks s = _
  unfold execSlotsEnd
  rw [hs]
  exact congrArg Host.Outcome.next (if_pos (by simp [ha, hp]))

/-- Settles O49. -/
theorem slotMapIsGoneThrough : Obligations.SlotMapIsGoneThrough := by
  unfold Obligations.SlotMapIsGoneThrough
  intro n marks presence ignored all mask polarity s ha hx hp hs
  dsimp only
  let u := s.portQuiet n .afterSweep
  have h := mapped_foldl (s := u) (n := n) (presence := presence) (marks := marks) hs (List.range 128) List.nodup_range
  rw [exec_slotsEnd ha hx hp]
  generalize hr : (List.range 128).foldl (fun r a => State.handleMark r n presence marks a) (u, []) = r at h
  let v := r.1.updateEngine n (sweptEngine presence)
  have hz : u.onMap n presence marks = v.endOutcome u n [] r.2 := by
    unfold State.onMap
    rw [hr]
  have hre : r.1.engine n = { s.engine n with owed := (r.1.engine n).owed } := h.engine
  have hve : v.engine n = sweptEngine presence (r.1.engine n) := State.engine_setEngine_self _ _ _
  have hvn : (v.engine n).state ≠ .finishing := by
    rw [hve, (sweptEngine_keeps _ _).1, hre]
    dsimp only
    rw [hx]
    exact EngineState.noConfusion
  obtain ⟨hposts, heng, hend, -⟩ := endOutcome_ends (old := u) hvn [] r.2
  rw [hz]
  generalize ht : v.endOutcome u n [] r.2 = t at hposts heng hend
  have hsigns : t.signs = r.1.signs := hposts.read State.signs fun _ => rfl
  have hcomp : t.comp = r.1.comp := hposts.read State.comp fun _ => rfl
  have howed : (t.engine n).owed = (r.1.engine n).owed := by rw [heng, hve, (sweptEngine_keeps _ _).2]
  have address : ∀ {i g}, s.sign i = some g → g.defn.address ∈ List.range 128 := fun {i g} hg => by
    have hok := ((signDefsOk_iff _).1 hs).2.1 (i, g.defn) (Tab.mem_of_get (by rw [get_signDefs, hg]; rfl))
    simp only [signDefOk, Bool.and_eq_true, decide_eq_true_eq] at hok
    exact List.mem_range.2 (by omega)
  have hsign : ∀ i, t.sign i = (s.sign i).map fun g =>
      if g.returns n presence marks then backSign s.setup.styles g else g := fun i => by
    show Tab.get t.signs i = _
    rw [hsigns]
    refine (h.signs i).trans ?_
    show (s.sign i).map _ = _
    cases hg : s.sign i with
    | none => rfl
    | some g => rw [Option.map_some, Option.map_some, List.contains_iff_mem.2 (address hg), Bool.and_true]; rfl
  refine ⟨t, rfl, fun i g hg => ⟨fun hb => ?_, fun hb => ?_⟩, fun i hg => ?_, fun e => ?_, fun i => ?_, fun a ha => ?_,
    fun a ha => ?_, hend, ?_⟩
  · rw [hsign, hg, Option.map_some, if_pos (Sign.returns_iff.2 hb)]; rfl
  · rw [hsign, hg, Option.map_some, if_neg (mt Sign.returns_iff.1 hb)]
  · rw [hsign, hg]; rfl
  · have hsync := raising_handHealth (p := .engine n) nofun v u r.2
      (fun i => decide (healthBody (v.sign i) ≠ healthBody (u.sign i)) || [].contains i || Tab.has r.2 i) e
    rw [← ht, raising_endOutcome]
    refine hsync.trans ?_
    have hpost : v.raising e.mask = s.raising e.mask := by
      have hvp : v.post = s.post := by
        show r.1.post = _
        rw [h.frame]; rfl
      unfold State.raising
      rw [hvp]
    rw [hpost]
    refine or_congr_right ⟨fun ⟨i, _, hf⟩ => ?_, fun ⟨he, i, g, hg, hb⟩ => ⟨i, List.mem_filter.2 ⟨?_, ?_⟩, ?_⟩⟩
    · cases hget : Tab.get r.2 i with
      | none => rw [hget, Option.getD_none, getLsbD_zero13] at hf; cases hf
      | some f =>
        rw [hget, Option.getD_some, h.raised i f hget, getLsbD_mask] at hf
        rw [h.raised i f hget] at hget
        obtain ⟨g, hg, hret, -⟩ := (h.raises i).1 hget
        exact ⟨hf, i, g, hg, Sign.returns_iff.1 hret⟩
    · have hvi : v.sign i = some (if g.returns n presence marks then backSign s.setup.styles g else g) := by
        have hti := hsign i
        rw [hg] at hti
        exact (show v.sign i = t.sign i from congrArg (Tab.get · i) hsigns.symm).trans hti
      exact mem_slotsOf_left (mem_keys_of_sign hvi)
    · rw [Tab.has_iff.2 ⟨_, (h.raises i).2 ⟨g, hg, Sign.returns_iff.2 hb, address hg⟩⟩, Bool.or_true]
    · rw [(h.raises i).2 ⟨g, hg, Sign.returns_iff.2 hb, address hg⟩, Option.getD_some, getLsbD_mask]
      exact he
  · rw [hcomp, h.dirty]
    exact or_congr_right (exists_congr fun g => and_congr_right fun hg =>
      (and_iff_left (address hg)).trans Sign.returns_iff)
  · obtain ⟨i, g, hg, hga, ho⟩ := ha
    rw [howed]
    exact h.owed a ⟨i, g, hg, hga, Sign.queried_iff.2 ho, hga ▸ address hg⟩
  · rw [howed]
    exact h.kept a fun i g hg hga hq => ha i g hg hga (Sign.queried_iff.1 hq.1)
  · rw [howed, hcomp, hsigns]
    have hv : v = { (s.setPort n { s.port n with state := .quiet, quiet := .afterSweep }).setEngine n
        { s.engine n with
          owed := (r.1.engine n).owed
          presence := (s.engine n).presence && !presence
          routine := if presence then 0 else min 15 ((s.engine n).routine + 1) } with
        signs := r.1.signs, comp := { s.comp with dirty := r.1.comp.dirty } } := by
      show r.1.setEngine n (sweptEngine presence (r.1.engine n)) = _
      rw [sweptEngine_eq, hre]
      exact setEngine_frame h.frame _
    rw [← hv]
    exact hposts

end Sys2Proof.Machine
end

section
/-! Records entering the post queue, in their layouts (R169, R170, R178, R193, R194, section 12.5). -/

namespace Sys2Proof.Machine

variable {s t u v x : State} {n : Fin 4} {it : Item} {rest : List Item} {f : BitVec 13}

/-! ## The codes of section 12.5 in their places -/

/-- A banner's code in its place in a style word. -/
def bannerPlace : Banner → Nat
  | .none => 0 | .stripe => 4 | .full => 8

/-- A policy's code in its place in a room record. -/
def policyPlace : Policy → Nat
  | .free => 0 | .strict => 0x100

theorem place_bannerCode (b : Banner) : place (bannerCode b) 2 = bannerPlace b := by cases b <;> rfl

theorem place_policyCode (p : Policy) : place (policyCode p) 8 = policyPlace p := by cases p <;> rfl

theorem place_bitOf (b : Bool) (k : Nat) : place (bitOf b) k = if b then 2 ^ k else 0 := by cases b <;> simp [place, bitOf]

theorem place_eq (v k : Nat) : place v k = 2 ^ k * v := Nat.mul_comm _ _

theorem bitOf_eq (b : Bool) : bitOf b = if b then 1 else 0 := rfl

theorem signFlagsCode_eq (f : SignFlags) : signFlagsCode f =
    (if f.btn then 1 else 0) + (if f.pwr then 2 else 0) + (if f.lowb then 4 else 0) + (if f.jam then 8 else 0) := by
  unfold signFlagsCode
  rw [place_bitOf, place_bitOf, place_bitOf]
  rfl

/-! ## A composition's end does not look at the records (R99) -/

/-- The state with other records on their way. -/
def State.withPosts (s : State) (p : PathUnit) (q : PostUnit) : State := { s with path := p, post := q }

theorem handToPort_busy {y : Exchange} (hx : (s.engine n).state = .ready y) (hp : (s.port n).state ≠ .idle) :
    s.handToPort n = s := by
  unfold State.handToPort
  rw [hx]
  exact if_neg hp

theorem handToPort_withPosts (s : State) (n : Fin 4) (p : PathUnit) (q : PostUnit) :
    (s.withPosts p q).handToPort n = (s.handToPort n).withPosts p q := by
  by_cases h : ∃ y, (s.engine n).state = .ready y
  · obtain ⟨y, hy⟩ := h
    by_cases hp : (s.port n).state = .idle
    · rw [handToPort_ready hy hp]
      exact handToPort_ready (s := s.withPosts p q) hy hp
    · rw [handToPort_busy hy hp]
      exact handToPort_busy (s := s.withPosts p q) hy hp
  · rw [handToPort_not_ready fun y hy => h ⟨y, hy⟩]
    exact handToPort_not_ready (s := s.withPosts p q) fun y hy => h ⟨y, hy⟩

theorem sendFace_withPosts (s : State) (n : Fin 4) (i : Nat) (g : Sign) (r : Rank) (record : FaceRecord) (body : List Byte)
    (p : PathUnit) (q : PostUnit) :
    (s.withPosts p q).sendFace n i g r record body = (s.sendFace n i g r record body).withPosts p q :=
  handToPort_withPosts (((s.setSign i { g with deferred := false, state := .sending, sequence := sendSequence g record }).leaveLists
    g.defn.line i).updateEngine n fun e =>
      { e with state := .ready (.face i g.defn.address (sendSequence g record) r record body) }) n p q

theorem judgeDirty_withPosts (s : State) (i : Nat) (g : Sign) (c : FaceClass) (p : PathUnit) (q : PostUnit) :
    (s.withPosts p q).judgeDirty i g c = (s.judgeDirty i g c).withPosts p q := by
  have h1 : (s.withPosts p q).affordsContent g = s.affordsContent g := rfl
  have h2 : (s.withPosts p q).affordsTick g = s.affordsTick g := rfl
  unfold State.judgeDirty
  rw [h1, h2]
  split
  · rfl
  · cases c with
    | equal => dsimp only; split <;> rfl
    | urgent => rfl
    | content => dsimp only; split <;> rfl
    | tick =>
      dsimp only
      split
      · rfl
      · split <;> rfl

theorem judgeSend_withPosts (s : State) (n : Fin 4) (i : Nat) (g : Sign) (c : FaceClass) (record : FaceRecord) (body : List Byte)
    (p : PathUnit) (q : PostUnit) :
    (s.withPosts p q).judgeSend n i g c record body = (s.judgeSend n i g c record body).withPosts p q := by
  have h1 : (s.withPosts p q).affordsContent g = s.affordsContent g := rfl
  have h2 : (s.withPosts p q).affordsTick g = s.affordsTick g := rfl
  have h3 : (s.withPosts p q).engine n = s.engine n := rfl
  unfold State.judgeSend
  rw [h1, h2, h3]
  split
  · rfl
  · cases c with
    | equal => rfl
    | urgent => exact sendFace_withPosts s n i g _ record body p q
    | content =>
      dsimp only
      split
      · exact sendFace_withPosts s n i g _ record body p q
      · rfl
    | tick =>
      dsimp only
      split
      · exact sendFace_withPosts s n i g _ record body p q
      · rfl

theorem endComposition_withPosts (s : State) (c : Composition) (p : PathUnit) (q : PostUnit) :
    (s.withPosts p q).endComposition c = (s.endComposition c).withPosts p q := by
  have h1 : (s.withPosts p q).setComposition none = (s.setComposition none).withPosts p q := rfl
  have h2 : ((s.setComposition none).withPosts p q).sign c.slot = (s.setComposition none).sign c.slot := rfl
  unfold State.endComposition
  rw [h1]
  dsimp only
  rw [h2]
  split
  · rfl
  · split
    · rfl
    · split
      · exact judgeDirty_withPosts _ _ _ _ p q
      · exact judgeSend_withPosts _ _ _ _ _ _ _ p q

theorem State.postsOnly.endComposition (h : State.postsOnly s t) (c : Composition) :
    State.postsOnly (s.endComposition c) (t.endComposition c) := by
  have ht : t = s.withPosts t.path t.post := by
    have hb : t.bare = s.bare := h
    exact congrArg (fun y : State => { y with path := t.path, post := t.post }) hb
  have hpath : (s.endComposition c).path = s.path := by rw [(signsOnly_endComposition s c).eq]
  have hpost : (s.endComposition c).post = s.post := by rw [(signsOnly_endComposition s c).eq]
  have hbare : (s.endComposition c).bare = { s.endComposition c with path := s.bare.path, post := s.bare.post } := by
    unfold State.bare
    rw [hpath, hpost]
  have hb : t.bare = s.bare := h
  show (t.endComposition c).bare = _
  rw [ht, endComposition_withPosts, hbare]
  exact congrArg (fun y : State => { s.endComposition c with path := y.path, post := y.post }) hb

/-! ## What is on its way stays so -/

/-- From `s` to `t` no flags on their way are lost. -/
def State.keepsRaises (s t : State) : Prop := ∀ f, s.raising f = true → t.raising f = true

theorem keepsRaises_same (h : t.post = s.post) : s.keepsRaises t := fun f hf => by
  unfold State.raising at hf ⊢
  rw [h]
  exact hf

theorem State.keepsRaises.trans (h1 : s.keepsRaises t) (h2 : t.keepsRaises u) : s.keepsRaises u := fun f hf => h2 f (h1 f hf)

theorem keepsRaises_foldl {β : Type} {f : State → β → State} (h : ∀ (s : State) b, s.keepsRaises (f s b)) (l : List β)
    (s : State) : s.keepsRaises (l.foldl f s) := by
  induction l generalizing s with
  | nil => exact fun _ => id
  | cons b l ih => exact (h s b).trans (ih _)

theorem keepsRaises_append (s : State) (l : List Item) : s.keepsRaises (s.setWaiting (s.post.waiting ++ l)) := fun f hf => by
  unfold State.raising at hf ⊢
  simp only [State.setWaiting_post, List.any_append, Bool.or_eq_true] at hf ⊢
  tauto

theorem joinRaise_keeps {l w : List Item} (h : joinRaise f l = some w) {g : BitVec 13} :
    (l.any (fun it => it.carries g) = true → w.any (fun it => it.carries g) = true)
      ∧ (g &&& f = g → w.any (fun it => it.carries g) = true) := by
  induction l generalizing w with
  | nil => cases h
  | cons it l ih =>
    rw [joinRaise] at h
    split at h
    next k hk =>
      cases h
      have hand : ∀ a b : BitVec 13, a &&& g = g ∨ b &&& g = g → (a ||| b) &&& g = g := fun a b h => by
        apply BitVec.eq_of_getLsbD_eq
        intro i hi
        rcases h with h | h <;>
        · have hbit := congrArg (fun y : BitVec 13 => y.getLsbD i) h
          simp only [BitVec.getLsbD_and, BitVec.getLsbD_or] at hbit ⊢
          revert hbit
          cases a.getLsbD i <;> cases b.getLsbD i <;> cases g.getLsbD i <;> simp
      simp only [List.any_cons, Bool.or_eq_true, Item.carries, hk, decide_eq_true_eq]
      refine ⟨fun h => ?_, fun h => .inl (.inr (hand _ _ (.inr (by rwa [BitVec.and_comm] at h))))⟩
      rcases h with (h | h) | h
      · exact .inl (.inl h)
      · exact .inl (.inr (hand _ _ (.inl h)))
      · exact .inr h
    next =>
      cases hj : joinRaise f l with
      | none => rw [hj] at h; cases h
      | some y =>
        rw [hj] at h
        cases h
        obtain ⟨h1, h2⟩ := ih hj
        simp only [List.any_cons, Bool.or_eq_true]
        exact ⟨Or.imp_right h1, fun h => .inr (h2 h)⟩

theorem handRaise_raises (s : State) (f : BitVec 13) : s.keepsRaises (s.handRaise f) ∧ (f ≠ 0 → (s.handRaise f).raising f = true) := by
  unfold State.handRaise
  split
  next h => exact ⟨fun _ => id, fun hn => absurd h hn⟩
  next h =>
    split
    next w hw =>
      refine ⟨fun g hg => ?_, fun _ => ?_⟩
      · unfold State.raising at hg ⊢
        simp only [State.setWaiting_post, List.any_append, Bool.or_eq_true] at hg ⊢
        exact hg.imp_left (joinRaise_keeps hw).1
      · unfold State.raising
        simp only [State.setWaiting_post, List.any_append, Bool.or_eq_true]
        exact .inl ((joinRaise_keeps hw).2 (BitVec.and_self))
    next =>
      refine ⟨keepsRaises_append s _, fun _ => ?_⟩
      unfold State.raising
      simp [State.setWaiting_post, Item.carries]

theorem keepsRaises_handNext (s : State) (p : Producer) : s.keepsRaises (s.handNext p) := fun f hf => by
  rwa [raising_handNext]

theorem keepsRaises_settleEngine (s : State) (n : Fin 4) : s.keepsRaises (s.settleEngine n) := fun f hf => by
  rwa [raising_settleEngine]

theorem keepsRaises_enqueue (s : State) (r : Rec) : s.keepsRaises (s.enqueue r) := fun _ => id

theorem keepsRaises_hand (s : State) (hp : it.producer ≠ .fill) : s.keepsRaises (s.hand it) := by
  rcases hand_cases s it with ⟨-, -, -, h⟩ | ⟨-, -, h⟩ | h <;> rw [h]
  · have h2 := ((keepsRaises_enqueue s it.record).trans (handRaise_raises _ it.raises).1).trans (keepsRaises_handNext _ it.producer)
    rw [enter_eq s hp]
    split
    · exact h2.trans (keepsRaises_settleEngine _ _)
    · exact h2
  · intro f hf
    unfold State.raising at hf ⊢
    simp only [List.any_append, Bool.or_eq_true] at hf ⊢
    tauto
  · exact keepsRaises_append s _

theorem keepsRaises_handHealth (s old : State) {p : Producer} (hp : p ≠ .fill) (raises : Tab (BitVec 13)) (changed : Nat → Bool) :
    s.keepsRaises (s.handHealth old p raises changed) := by
  unfold State.handHealth
  exact keepsRaises_foldl (fun u i => keepsRaises_hand u (it := { producer := p, record := .health i, raises := _ }) hp) _ s

/-! ## The queue grows only by records handed -/

/-- From `s` to `t` the post queue and the stamps stay. -/
def State.sameQueue (s t : State) : Prop := t.path.postQueue = s.path.postQueue ∧ t.post.stamps = s.post.stamps

theorem State.sameQueue.trans (h1 : s.sameQueue t) (h2 : t.sameQueue u) : s.sameQueue u :=
  ⟨h2.1.trans h1.1, h2.2.trans h1.2⟩

theorem sameQueue_handRaise (s : State) (f : BitVec 13) : s.sameQueue (s.handRaise f) := by
  rw [handRaise_eq]
  exact ⟨rfl, rfl⟩

theorem sameQueue_handNext (s : State) (p : Producer) : s.sameQueue (s.handNext p) :=
  ⟨by rw [path_handNext], post_handNext_stamps s p⟩

theorem sameQueue_settleEngine (s : State) (n : Fin 4) : s.sameQueue (s.settleEngine n) := by
  rw [settleEngine_eq]
  exact ⟨rfl, rfl⟩

/-- A record handed may join the tail of the queue; nothing leaves it (R169). -/
theorem hand_extends (s : State) (hp : it.producer ≠ .fill) : ∃ more, (s.hand it).path.postQueue = s.path.postQueue ++ more := by
  rcases hand_cases s it with ⟨-, -, -, h⟩ | ⟨-, -, h⟩ | h <;> rw [h]
  · exact ⟨_, congrArg PathUnit.postQueue (path_enter hp)⟩
  · exact ⟨[], (List.append_nil _).symm⟩
  · exact ⟨[], (List.append_nil _).symm⟩

theorem handHealth_extends (s old : State) {p : Producer} (hp : p ≠ .fill) (raises : Tab (BitVec 13)) (changed : Nat → Bool) :
    ∃ more, (s.handHealth old p raises changed).path.postQueue = s.path.postQueue ++ more := by
  unfold State.handHealth
  generalize (slotsOf s old).filter changed = l
  induction l generalizing s with
  | nil => exact ⟨[], (List.append_nil _).symm⟩
  | cons i l ih =>
    obtain ⟨m1, h1⟩ := hand_extends s (it := { producer := p, record := .health i, raises := (Tab.get raises i).getD 0 }) hp
    obtain ⟨m2, h2⟩ := ih (s.hand { producer := p, record := .health i, raises := (Tab.get raises i).getD 0 })
    exact ⟨m1 ++ m2, by rw [List.foldl_cons, h2, h1, List.append_assoc]⟩

/-! ## A composition closed (R99, R185) -/

theorem syncClosed_none (s old : State) : s.syncClosed old none =
    s.handHealth old .credit [] fun i => listedBody (s.sign i) ≠ listedBody (old.sign i) := rfl

theorem syncClosed_some (s old : State) (n : Fin 4) : s.syncClosed old (some n) =
    (s.handHealth old .credit [] fun i => listedBody (s.sign i) ≠ listedBody (old.sign i)).handHealth old (.engine n) []
      fun i => (s.sign i).map (·.sequence) ≠ (old.sign i).map (·.sequence) := rfl

theorem syncClosed_extends (s old : State) (e : Option (Fin 4)) :
    ∃ more, (s.syncClosed old e).path.postQueue = s.path.postQueue ++ more := by
  obtain ⟨m1, h1⟩ := handHealth_extends s old (p := .credit) nofun [] fun i => listedBody (s.sign i) ≠ listedBody (old.sign i)
  cases e with
  | none => exact ⟨m1, h1⟩
  | some n =>
    obtain ⟨m2, h2⟩ := handHealth_extends (s.handHealth old .credit [] fun i => listedBody (s.sign i) ≠ listedBody (old.sign i))
      old (p := .engine n) nofun [] fun i => (s.sign i).map (·.sequence) ≠ (old.sign i).map (·.sequence)
    exact ⟨m1 ++ m2, by rw [syncClosed_some, h2, h1, List.append_assoc]⟩

theorem keepsRaises_syncClosed (s old : State) (e : Option (Fin 4)) : s.keepsRaises (s.syncClosed old e) := by
  have h1 := keepsRaises_handHealth s old (p := .credit) nofun [] fun i => listedBody (s.sign i) ≠ listedBody (old.sign i)
  cases e with
  | none => exact h1
  | some n => exact h1.trans (keepsRaises_handHealth _ old (p := .engine n) nofun [] _)

theorem raisesAlso_syncClosed (s old : State) (e : Option (Fin 4)) : s.raisesAlso (s.syncClosed old e) 0 := by
  have h1 := raisesAlso_handHealth s old (p := .credit) nofun fun i => listedBody (s.sign i) ≠ listedBody (old.sign i)
  cases e with
  | none => exact h1
  | some n => exact h1.quiet (raisesAlso_handHealth _ old (p := .engine n) nofun _)

/-- An engine whose sign's face sequence a send-time composition has advanced holds the FACE (R154). -/
theorem endComposition_sequences {c : Composition} (hc : c.engine = some n) :
    (∀ i, ((s.endComposition c).sign i).map (·.sequence) = (s.sign i).map (·.sequence))
      ∨ ((s.endComposition c).engine n).state ≠ .finishing := by
  have keep : ∀ (g g' : Sign) (y : State), s.sign c.slot = some g → g'.sequence = g.sequence → y.signs = Tab.set s.signs c.slot g' →
      ∀ i, (y.sign i).map (·.sequence) = (s.sign i).map (·.sequence) := fun g g' y hg hq hy i => by
    unfold State.sign at hg ⊢
    rw [hy, Tab.get_set]
    split
    next hi => rw [hi, hg, Option.map_some, Option.map_some, hq]
    next => rfl
  rcases endComposition_cases s c with h | ⟨g, hg, ⟨he, -, -⟩ | ⟨m, he, -, h | ⟨r, rec, b, h⟩ | h⟩⟩
  · exact .inl fun i => by rw [h]; rfl
  · rw [hc] at he; cases he
  · exact .inl (keep g { g with deferred := false, state := .synced } _ hg rfl (by rw [h]; rfl))
  · obtain rfl : n = m := Option.some.inj (hc.symm.trans he)
    refine .inr ?_
    rw [h]
    unfold State.sendFace
    dsimp only
    generalize hy : State.updateEngine _ n _ = y
    obtain ⟨e, p, hz, -, -, hst⟩ := handToPort_eq y n
    have hye : ∃ x, (y.engine n).state = .ready x := by rw [← hy]; exact ⟨_, congrArg Engine.state (State.engine_setEngine_self _ _ _)⟩
    obtain ⟨x, hx⟩ := hye
    rw [hz, show ((y.setEngine n e).setPort n p).engine n = e from State.engine_setEngine_self _ _ _]
    rcases hst with rfl | ⟨x', -, rfl⟩
    · rw [hx]; exact EngineState.noConfusion
    · exact EngineState.noConfusion
  · exact .inl (keep g { g with deferred := true, state := if g.state = .refreshing then .refreshing else .deferred } _ hg rfl
      (by rw [h]; rfl))

theorem handHealth_none {old : State} {p : Producer} {raises : Tab (BitVec 13)} {changed : Nat → Bool}
    (h : ∀ i, changed i = false) : s.handHealth old p raises changed = s := by
  unfold State.handHealth
  rw [List.filter_eq_nil_iff.2 fun i _ => by rw [h i]; exact Bool.false_ne_true]
  rfl

theorem postsOnly_credit (s old : State) (changed : Nat → Bool) : State.postsOnly s (s.handHealth old .credit [] changed) :=
  (Hands.health (P := False) (p := .credit) nofun nofun nofun nofun [] changed).postsOnly

/-- The records of a composition closed change nothing but the post queue and what is on its way to it. -/
theorem postsOnly_closeComposition (s : State) (c : Composition) : State.postsOnly (s.endComposition c) (s.closeComposition c) := by
  have h1 := postsOnly_credit (s.endComposition c) s fun i => listedBody ((s.endComposition c).sign i) ≠ listedBody (s.sign i)
  unfold State.closeComposition
  cases hc : c.engine with
  | none => exact h1
  | some n =>
    rw [syncClosed_some]
    refine h1.trans ?_
    rcases endComposition_sequences (s := s) hc with h | h
    · rw [handHealth_none (p := .engine n) (changed := fun i => decide (((s.endComposition c).sign i).map (·.sequence)
        ≠ (s.sign i).map (·.sequence))) fun i => by simp [h i]]
      exact .refl _
    · refine (Hands.health (P := False) (p := .engine n) nofun nofun nofun (fun m hm => ?_) [] _).postsOnly
      cases hm
      rw [h1.read (·.engine n) fun _ => rfl]
      exact h

theorem post_endComposition (s : State) (c : Composition) : (s.endComposition c).post = s.post := by
  rw [(signsOnly_endComposition s c).eq]

theorem path_endComposition (s : State) (c : Composition) : (s.endComposition c).path = s.path := by
  rw [(signsOnly_endComposition s c).eq]

/-! ## What blocks still have to hand -/

theorem producerBusy_handNext (s : State) (p q : Producer) : (s.handNext p).producerBusy q = s.producerBusy q := by
  unfold State.handNext
  split
  next it h =>
    have hp := (List.perm_cons_erase (List.mem_of_find?_eq_some h)).any_eq (f := fun it : Item => decide (it.producer = q))
    simp only [State.producerBusy, List.any_append, List.any_cons, List.any_nil, Bool.or_false] at hp ⊢
    rw [hp]; ac_rfl
  next => rfl

theorem joinRaise_producers {l w : List Item} (h : joinRaise f l = some w) (q : Producer) :
    w.any (fun it => decide (it.producer = q)) = l.any fun it => decide (it.producer = q) := by
  induction l generalizing w with
  | nil => cases h
  | cons it l ih =>
    rw [joinRaise] at h
    split at h
    next => cases h; rfl
    next =>
      cases hj : joinRaise f l with
      | none => rw [hj] at h; cases h
      | some y =>
        rw [hj] at h
        cases h
        rw [List.any_cons, List.any_cons, ih hj]

/-- A raise is the post unit's own. -/
theorem producerBusy_handRaise (s : State) (f : BitVec 13) {q : Producer} (hq : q ≠ .post) :
    (s.handRaise f).producerBusy q = s.producerBusy q := by
  unfold State.handRaise
  split
  · rfl
  · split
    next w hw => simp only [State.producerBusy, State.setWaiting_post, joinRaise_producers hw q]
    next => simp [State.producerBusy, State.setWaiting_post, Ne.symm hq]

/-! ## Waiting raises and records at the head -/

theorem exec_flagRaise (ha : s.active = true) (hw : s.post.waiting = it :: rest) (hr : it.record = .raise f) :
    exec .flagRaise s = .next (if f &&& ~~~s.post.flags = 0 then s.setWaiting rest
      else if s.hasPlaces 1 then (s.setWaiting rest).takeRaise f else s) := by
  have hf : s.waitingRaise = some (f, rest) := by
    unfold State.waitingRaise
    rw [hw]
    dsimp only
    rw [hr]
  show execFlagRaise s = _
  unfold execFlagRaise
  rw [show s.working _ = _ from if_pos ha, hf]

theorem exec_recordEnqueue (ha : s.active = true) (hw : s.post.waiting = it :: rest) (hp : it.plain = true) :
    exec .recordEnqueue s = .next (if s.hasPlaces (recordSize it.record) then
      ((s.setWaiting rest).enter it).afterCredit it.producer else s) := by
  have hf : s.waitingPlain = some (it, rest) := by
    unfold State.waitingPlain
    rw [hw]
    exact if_pos hp
  show execRecordEnqueue s = _
  unfold execRecordEnqueue
  rw [show s.working _ = _ from if_pos ha, hf]

theorem plain_carries (hp : it.plain = true) (e : Event) : it.carries e.mask = true ↔ it.raises.getLsbD e.bit = true := by
  rw [carries_iff]
  refine ⟨fun h => h.resolve_right fun ⟨g, hg, _⟩ => ?_, .inl⟩
  unfold Item.plain at hp
  rw [hg] at hp
  cases hp

theorem raising_head (hw : s.post.waiting = it :: rest) (hp : it.plain = true) (e : Event) :
    (s.setWaiting rest).raising e.mask = true ∨ it.raises.getLsbD e.bit = true ↔ s.raising e.mask = true := by
  rw [raising_iff, raising_iff, ← plain_carries hp]
  simp only [State.setWaiting_post, hw, List.cons_append, List.mem_cons, exists_eq_or_imp]
  exact or_comm

/-- The flags that tell of a waiting record are on their way before it enters and after (R179). -/
theorem raising_enter (hw : s.post.waiting = it :: rest) (hp : it.plain = true) (hf : it.producer ≠ .fill) (e : Event) :
    ((s.setWaiting rest).enter it).raising e.mask = true ↔ s.raising e.mask = true := by
  rw [raisesAlso_enter (s.setWaiting rest) hf e, raising_head hw hp]

/-- What a record that enters leaves of the queue and its stamps (R169, R170). -/
theorem enqueue_stamp (s : State) (r : Rec) (h : (recordLayout s r).2.2 = true) :
    (s.enqueue r).stamp (recordLayout s r).1 = s.stamp (recordLayout s r).1 + 2 := by
  unfold State.stamp State.enqueue
  dsimp only
  rw [if_pos h, Tab.get_set_self]
  rfl

theorem sameQueue_enter (hf : it.producer ≠ .fill) : (s.enqueue it.record).sameQueue (s.enter it) := by
  have h := (sameQueue_handRaise (s.enqueue it.record) it.raises).trans (sameQueue_handNext _ it.producer)
  rw [enter_eq s hf]
  split
  · exact h.trans (sameQueue_settleEngine _ _)
  · exact h

theorem enter_raises (hf : it.producer ≠ .fill) (h : it.raises ≠ 0) : (s.enter it).raising it.raises = true := by
  have h1 := keepsRaises_handNext _ it.producer _ ((handRaise_raises (s.enqueue it.record) it.raises).2 h)
  rw [enter_eq s hf]
  split
  · exact keepsRaises_settleEngine _ _ _ h1
  · exact h1

/-! ## The start-up fill (R193, R194) -/

/-- The held result of a lane as a record (R33). -/
def State.heldItem (s : State) (n : Fin 4) : Option Item :=
  (s.laneAt n).heldResult.map fun r => { producer := .post, record := .laneResult n r false, raises := (Event.lane n).mask }

theorem handHeld_eq (s : State) (n : Fin 4) : s.handHeld n = { s with
    lane := (s.setLane n { s.laneAt n with heldResult := none }).lane
    post := { s.post with waiting := s.post.waiting ++ (s.heldItem n).toList } } := by
  unfold State.handHeld State.heldItem
  cases h : (s.laneAt n).heldResult with
  | some r => rfl
  | none =>
    have hl : s.setLane n { s.laneAt n with heldResult := none } = s := setLane_same (by rw [← h])
    dsimp only [Option.map_none, Option.toList_none]
    rw [hl, List.append_nil]

theorem heldItem_congr (h : s.laneAt n = t.laneAt n) : s.heldItem n = t.heldItem n := by
  unfold State.heldItem
  rw [h]

/-- The held results are handed in turn, and are then absent (R33). -/
theorem foldl_handHeld (l : List (Fin 4)) (hl : l.Nodup) (s : State) :
    l.foldl State.handHeld s = { s with
      lane := (l.foldl State.handHeld s).lane
      post := { s.post with waiting := s.post.waiting ++ l.filterMap s.heldItem } }
    ∧ (l.foldl State.handHeld s).lane.commit = s.lane.commit
    ∧ ∀ m, (l.foldl State.handHeld s).laneAt m = if m ∈ l then { s.laneAt m with heldResult := none } else s.laneAt m := by
  induction l generalizing s with
  | nil => exact ⟨by simp, rfl, fun m => (if_neg List.not_mem_nil).symm⟩
  | cons n l ih =>
    obtain ⟨hn, hl⟩ := List.nodup_cons.1 hl
    obtain ⟨h1, h2, h3⟩ := ih hl (s.handHeld n)
    have hlane : ∀ m, (s.handHeld n).laneAt m = if m = n then { s.laneAt n with heldResult := none } else s.laneAt m := fun m => by
      rw [handHeld_eq]
      exact laneAt_setLane s n m _
    have hitems : l.filterMap (s.handHeld n).heldItem = l.filterMap s.heldItem :=
      List.filterMap_congr fun m hm => heldItem_congr (by
        rw [hlane, if_neg]
        rintro rfl
        exact hn hm)
    rw [List.foldl_cons]
    refine ⟨?_, ?_, fun m => ?_⟩
    · refine h1.trans ?_
      generalize (l.foldl State.handHeld (s.handHeld n)).lane = ll
      have hfm : (n :: l).filterMap s.heldItem = (s.heldItem n).toList ++ l.filterMap s.heldItem := by
        rw [List.filterMap_cons]
        cases s.heldItem n <;> rfl
      rw [hitems, hfm, handHeld_eq, ← List.append_assoc]
    · rw [h2, handHeld_eq]; rfl
    · rw [h3, hlane]
      by_cases hm : m = n
      · subst hm
        simp
      · by_cases hml : m ∈ l <;> simp [hm, hml]

theorem mem_allFour (n : Fin 4) : n ∈ allFour := by revert n; decide

/-- The start-up fill ends (R33, R35, R194). -/
theorem endFill_spec (s : State) :
    s.endFill = { s with
      setup := { s.setup with phase := .running }, lane := s.endFill.lane
      post := { s.post with waiting := raised Event.ready.mask s.post.waiting ++ allFour.filterMap s.heldItem } }
    ∧ (∀ m, (s.endFill.laneAt m).heldResult = none)
    ∧ ∀ m, s.lane.commit.head? = some m → (s.laneAt m).state = .queued → (s.endFill.laneAt m).state = .applying := by
  obtain ⟨h1, h2, h3⟩ := foldl_handHeld allFour (by decide)
    ({ s with setup := { s.setup with phase := .running } }.handRaise Event.ready.mask)
  have hq : s.endFill = (allFour.foldl State.handHeld
    ({ s with setup := { s.setup with phase := .running } }.handRaise Event.ready.mask)).promoteHead := rfl
  rw [handRaise_eq] at h1 h2 h3 hq
  generalize allFour.foldl State.handHeld _ = y at h1 h2 h3 hq
  have hitems : allFour.filterMap ({ s with setup := { s.setup with phase := .running } }.setWaiting
      (raised Event.ready.mask s.post.waiting)).heldItem = allFour.filterMap s.heldItem :=
    List.filterMap_congr fun m _ => heldItem_congr rfl
  have hlane : ∀ m, y.laneAt m = { s.laneAt m with heldResult := none } := fun m => by
    rw [h3, if_pos (mem_allFour m)]
    rfl
  have hrun : y.setup.phase = .running := by rw [h1]; rfl
  have hcommit : y.lane.commit = s.lane.commit := h2
  rw [hq]
  refine ⟨?_, fun m => ?_, fun m hm hqueued => ?_⟩
  · rw [promoteHead_frame]
    generalize y.promoteHead.lane = ll
    rw [h1]
    show { s with setup := _, lane := ll, post := _ } = _
    rw [← hitems]
    rfl
  · cases hc : y.lane.commit with
    | nil =>
      rw [promoteHead_same (by rw [hc]; nofun), hlane]
    | cons k l =>
      by_cases hk : (y.laneAt k).state = .queued
      · rw [promoteHead_queued hrun hc hk, laneAt_setLane]
        split
        · rw [hlane]
        · rw [hlane]
      · rw [promoteHead_same (by rw [hc]; rintro j hj; cases hj; exact .inl hk), hlane]
  · obtain ⟨l, hl⟩ := List.head?_eq_some_iff.1 hm
    have hk : (y.laneAt m).state = .queued := by rw [hlane]; exact hqueued
    rw [promoteHead_queued hrun (hcommit.trans hl) hk, laneAt_setLane, if_pos rfl]

theorem advanceFill_next {k : Nat} (hp : s.setup.phase = .fill k) (hk : k < 813) : s.advanceFill = s.handFill (k + 1) := by
  unfold State.advanceFill
  rw [hp]
  exact if_pos hk

theorem advanceFill_ends {k : Nat} (hp : s.setup.phase = .fill k) (hk : ¬ k < 813) : s.advanceFill = s.endFill := by
  unfold State.advanceFill
  rw [hp]
  exact if_neg hk

theorem advanceFill_other (hp : ∀ k, s.setup.phase ≠ .fill k) : s.advanceFill = s := by
  unfold State.advanceFill
  split
  next k hk => exact absurd hk (hp k)
  next => rfl

theorem keepsRaises_endFill (s : State) : s.keepsRaises s.endFill := fun f hf => by
  rw [(endFill_spec s).1]
  have h1 := (handRaise_raises s Event.ready.mask).1 f hf
  rw [handRaise_eq] at h1
  unfold State.raising at h1 ⊢
  simp only [State.setWaiting_post, List.any_append, Bool.or_eq_true] at h1 ⊢
  exact h1.imp_left .inl

theorem advanceFill_keeps (s : State) : s.sameQueue s.advanceFill ∧ s.keepsRaises s.advanceFill := by
  by_cases h : ∃ k, s.setup.phase = .fill k
  · obtain ⟨k, hk⟩ := h
    by_cases hlt : k < 813
    · rw [advanceFill_next hk hlt]
      exact ⟨⟨rfl, rfl⟩, keepsRaises_append s _⟩
    · rw [advanceFill_ends hk hlt]
      refine ⟨?_, keepsRaises_endFill s⟩
      rw [(endFill_spec s).1]
      exact ⟨rfl, rfl⟩
  · rw [advanceFill_other fun k hk => h ⟨k, hk⟩]
    exact ⟨⟨rfl, rfl⟩, fun _ => id⟩

theorem enter_fill (hf : it.producer = .fill) :
    s.enter it = (((s.readyForLast .fill).enqueue it.record).handRaise it.raises).advanceFill := by
  unfold State.enter State.afterEnter
  rw [hf]

theorem readyForLast_if (s : State) (p : Producer) : s.readyForLast p =
    if p = .fill ∧ s.setup.phase = .fill 813 then { s with setup := { s.setup with ready := true } } else s := by
  unfold State.readyForLast
  exact if_congr (by rw [Bool.and_eq_true, decide_eq_true_eq, decide_eq_true_eq]; rfl) rfl rfl

theorem readyForLast_setWaiting (s : State) (p : Producer) (w : List Item) :
    (s.setWaiting w).readyForLast p = (s.readyForLast p).setWaiting w := by
  rw [readyForLast_if, readyForLast_if]
  show (if p = .fill ∧ s.setup.phase = .fill 813 then _ else _) = _
  split <;> rfl

theorem recordLayout_setWaiting (s : State) (w : List Item) (r : Rec) : recordLayout (s.setWaiting w) r = recordLayout s r := by
  cases r with
  | echo sec => cases sec <;> rfl
  | _ => rfl

/-- A record that heads the waiting ones enters at the tail of the queue, whole (R169, R170). -/
theorem enter_queue (s : State) (it : Item) (rest : List Item) :
    (((s.readyForLast it.producer).setWaiting rest).enqueue it.record).sameQueue ((s.setWaiting rest).enter it) := by
  rw [← readyForLast_setWaiting]
  by_cases hf : it.producer = .fill
  · rw [enter_fill hf, hf]
    exact (sameQueue_handRaise _ _).trans (advanceFill_keeps _).1
  · rw [postsOnly_readyForLast _ hf]
    exact sameQueue_enter hf

theorem enter_carries (s : State) (h : it.raises ≠ 0) : (s.enter it).raising it.raises = true := by
  by_cases hf : it.producer = .fill
  · rw [enter_fill hf]
    exact (advanceFill_keeps _).2 _ ((handRaise_raises _ _).2 h)
  · exact enter_raises hf h

/-- A record of the fill but the last is followed by the next (R193). -/
theorem enter_fill_next {k : Nat} (hf : it.producer = .fill) (hp : s.setup.phase = .fill k) (hk : k < 813) :
    (s.setWaiting rest).enter it =
      (((s.setWaiting rest).enqueue it.record).handRaise it.raises).handFill (k + 1) := by
  have hl : (s.setWaiting rest).readyForLast .fill = s.setWaiting rest := by
    rw [readyForLast_if]
    exact if_neg fun h => by
      have hphase : s.setup.phase = .fill 813 := h.2
      rw [hp] at hphase
      cases hphase
      omega
  rw [enter_fill hf, hl, handRaise_eq]
  exact advanceFill_next (k := k) hp hk

/-- The last record of the fill shows ready word 1, and the fill ends (R193, R194). -/
theorem enter_fill_last (hf : it.producer = .fill) (hp : s.setup.phase = .fill 813) :
    (s.setWaiting rest).enter it =
      ((({ s with setup := { s.setup with ready := true } }.setWaiting rest).enqueue it.record).handRaise it.raises).endFill := by
  have hl : (s.setWaiting rest).readyForLast .fill = { s with setup := { s.setup with ready := true } }.setWaiting rest := by
    rw [readyForLast_if]
    exact if_pos ⟨rfl, hp⟩
  rw [enter_fill hf, hl, handRaise_eq]
  exact advanceFill_ends (k := 813) hp (by omega)

/-! ## The credit logic's last record -/

/-- A composition waits to end for this record of the credit logic, the last (R185). -/
def State.endsWith (s : State) (it : Item) (rest : List Item) (c : Composition) : Prop :=
  it.producer = .credit ∧ s.comp.composition = some c ∧ c.wanted = [] ∧ (s.setWaiting rest).producerBusy .credit = false

theorem producerBusy_enter_credit (hf : it.producer = .credit) : (s.enter it).producerBusy .credit = s.producerBusy .credit := by
  rw [enter_silent (by rw [hf]; nofun) (by rw [hf]; rfl), producerBusy_handNext,
    producerBusy_handRaise _ _ (q := .credit) nofun]
  rfl

theorem postsOnly_enter_silent (h1 : it.producer ≠ .fill) (h2 : it.producer.settles = none) : State.postsOnly s (s.enter it) := by
  rw [enter_silent h1 h2]
  exact ((postsOnly_enqueue _ _).trans (postsOnly_handRaise _ _)).trans (postsOnly_handNext _ _)

theorem afterCredit_ends {c : Composition} (h : s.endsWith it rest c) :
    ((s.setWaiting rest).enter it).afterCredit it.producer = ((s.setWaiting rest).enter it).closeComposition c := by
  obtain ⟨hf, hc, hwant, hb⟩ := h
  have hcomp : ((s.setWaiting rest).enter it).comp.composition = some c :=
    ((postsOnly_enter_silent (s := s.setWaiting rest) (by rw [hf]; nofun) (by rw [hf]; rfl)).read (·.comp.composition)
      fun _ => rfl).trans hc
  rw [hf]
  show State.resumeComposition _ = _
  unfold State.resumeComposition
  rw [hcomp]
  exact if_pos (by rw [hwant, producerBusy_enter_credit hf, hb]; rfl)

theorem afterCredit_same (h : ∀ c, ¬ s.endsWith it rest c) :
    ((s.setWaiting rest).enter it).afterCredit it.producer = (s.setWaiting rest).enter it := by
  by_cases hf : it.producer = .credit
  · have hcomp : ((s.setWaiting rest).enter it).comp.composition = s.comp.composition :=
      (postsOnly_enter_silent (s := s.setWaiting rest) (by rw [hf]; nofun) (by rw [hf]; rfl)).read (·.comp.composition) fun _ => rfl
    have hb := producerBusy_enter_credit (s := s.setWaiting rest) hf
    rw [hf]
    show State.resumeComposition _ = _
    unfold State.resumeComposition
    rw [hcomp, hb]
    split
    next c hc =>
      refine if_neg fun hend => h c ⟨hf, hc, ?_⟩
      simpa using hend
    next => rfl
  · exact if_neg hf

/-! ## What the head record raises -/

theorem heldItem_carries (e : Event) : (∃ x ∈ allFour.filterMap s.heldItem, x.carries e.mask = true)
    ↔ ∃ n r, (s.laneAt n).heldResult = some r ∧ e = .lane n := by
  have hc : ∀ n r, Item.carries { producer := .post, record := .laneResult n r false, raises := (Event.lane n).mask } e.mask = true
      ↔ e = .lane n := fun n r => by
    rw [carries_iff, getLsbD_mask]
    exact ⟨fun h => h.resolve_right fun ⟨g, hg, _⟩ => (by cases hg), .inl⟩
  simp only [List.mem_filterMap, mem_allFour, true_and, State.heldItem, Option.map_eq_some_iff]
  constructor
  · rintro ⟨x, ⟨n, r, hr, rfl⟩, hx⟩
    exact ⟨n, r, hr, (hc n r).1 hx⟩
  · rintro ⟨n, r, hr, he⟩
    exact ⟨_, ⟨n, r, hr, rfl⟩, (hc n r).2 he⟩

/-- The end of the fill raises READY and what the held results tell (R33, R194). -/
theorem raising_endFill (s : State) (e : Event) : s.endFill.raising e.mask = true ↔
    s.raising e.mask = true ∨ e = .ready ∨ ∃ n r, (s.laneAt n).heldResult = some r ∧ e = .lane n := by
  have h1 := raising_handRaise s Event.ready.mask e
  rw [handRaise_eq, getLsbD_mask, raising_iff] at h1
  rw [(endFill_spec s).1, raising_iff, ← heldItem_carries, ← or_assoc, ← h1]
  simp only [State.setWaiting_post, List.mem_append, or_and_right, exists_or]
  exact or_right_comm

theorem raising_handFill (s : State) (k : Nat) (e : Event) : (s.handFill k).raising e.mask = true ↔ s.raising e.mask = true := by
  have hc : ¬ Item.carries { producer := .fill, record := fillRecord k, raises := 0 } e.mask = true := by
    rw [carries_iff, getLsbD_zero13]
    rintro (h | ⟨g, hg, -⟩)
    · cases h
    · exact fillRecord_ne_raise k g hg
  rw [raising_iff, raising_iff]
  unfold State.handFill
  simp only [List.mem_append, List.mem_singleton, or_and_right, exists_or, exists_eq_left, hc, Bool.false_eq_true, or_false]

/-- What a record of the fill raises besides the flags that tell of it (R33, R194). -/
theorem raising_enter_fill (hw : s.post.waiting = it :: rest) (hp : it.plain = true) (hf : it.producer = .fill)
    (hk : ∀ k, s.setup.phase = .fill k → k ≤ 813) (e : Event) : ((s.setWaiting rest).enter it).raising e.mask = true ↔
      s.raising e.mask = true ∨ (s.setup.phase = .fill 813
        ∧ (e = .ready ∨ ∃ n r, (s.laneAt n).heldResult = some r ∧ e = .lane n)) := by
  rw [← raising_head hw hp]
  by_cases h : ∃ k, s.setup.phase = .fill k
  · obtain ⟨k, hphase⟩ := h
    by_cases hlt : k < 813
    · rw [enter_fill_next hf hphase hlt, raising_handFill, raising_handRaise]
      refine ⟨.inl, fun h => h.resolve_right fun h => ?_⟩
      rw [hphase] at h
      cases h.1
      omega
    · have h813 : k = 813 := by have := hk k hphase; omega
      subst h813
      rw [enter_fill_last hf hphase, raising_endFill, raising_handRaise]
      refine or_congr Iff.rfl ?_
      rw [handRaise_eq]
      exact (and_iff_right hphase).symm
  · have hne : ∀ k, s.setup.phase ≠ .fill k := fun k hk => h ⟨k, hk⟩
    have hl : (s.setWaiting rest).readyForLast .fill = s.setWaiting rest := by
      rw [readyForLast_if]
      exact if_neg fun h => hne _ h.2
    rw [enter_fill hf, hl, advanceFill_other (by rw [handRaise_eq]; exact hne), raising_handRaise]
    exact ⟨.inl, fun h => h.resolve_right fun h => hne _ h.1⟩

/-- Settles O56. -/
theorem recordsEnterInOrder : Obligations.RecordsEnterInOrder := by
  unfold Obligations.RecordsEnterInOrder
  intro s
  refine ⟨?_, ?_⟩
  · refine ⟨rfl, ?_, ?_, ?_, rfl, rfl, ?_, ?_, ?_, ?_, ?_, ?_, ?_, ?_, ?_, ?_⟩
    · dsimp only [recordLayout, echoBody, styleCode]
      simp only [place_bannerCode, place_bitOf]
      rfl
    · dsimp only [recordLayout, echoBody, kindWord]
      rw [place_bitOf]
      simp only [place_eq, signFlagsCode_eq]
      rfl
    · dsimp only [recordLayout, echoBody, lineWord]
      simp only [place_eq]
      rfl
    · dsimp only [recordLayout]
      rw [place_bitOf]
      rfl
    · intro n r ends
      dsimp only [recordLayout, laneResultBody]
      simp only [place_eq]
      rfl
    · exact fun _ => rfl
    · exact fun _ => rfl
    · exact fun _ _ _ _ _ => rfl
    · exact fun _ _ => rfl
    · intro i h
      dsimp only [recordLayout]
      rw [h]
      rfl
    · intro i r h
      dsimp only [recordLayout]
      rw [h]
      dsimp only [roomBody]
      rw [place_policyCode, place_bitOf, place_eq]
      rfl
    · intro i h
      dsimp only [recordLayout]
      rw [h]
      rfl
    · intro i g h
      dsimp only [recordLayout]
      rw [h]
      dsimp only [healthBody]
      rw [place_bitOf, place_bitOf]
      simp only [place_eq, signFlagsCode_eq]
      rfl
  · intro it rest ha hw
    dsimp only
    refine ⟨fun f hr => ?_, fun hp => ?_⟩
    · have hexec := exec_flagRaise ha hw hr
      have hsize : recordSize it.record = 1 := by rw [hr]; rfl
      rw [hsize]
      refine ⟨fun h => ?_, fun h hfit => ?_, fun h hfit => ?_⟩
      · rw [hexec, if_pos h]
      · rw [hexec, if_neg h, if_pos ((hasPlaces_iff 1).2 hfit)]
        rfl
      · rw [hexec, if_neg h, if_neg (mt (hasPlaces_iff 1).1 hfit)]
    · have hexec := exec_recordEnqueue ha hw hp
      refine ⟨fun hfit => ?_, fun hfit => ?_⟩
      · rw [hexec, if_neg (mt (hasPlaces_iff _).1 hfit)]
      rw [if_pos ((hasPlaces_iff _).2 hfit)] at hexec
      rw [← readyForLast_if]
      have hqueue := enter_queue s it rest
      have hcarries := enter_carries (it := it) (s.setWaiting rest)
      have hlast : ∀ c, s.endsWith it rest c → (s.readyForLast it.producer) = s := fun c hc =>
        postsOnly_readyForLast s (by rw [hc.1]; nofun)
      have hsh : (s.readyForLast it.producer).path = s.path ∧ ∀ k, (s.readyForLast it.producer).stamp k = s.stamp k := by
        obtain ⟨b, hb⟩ := readyForLast_eq s it.producer
        rw [hb]
        exact ⟨rfl, fun _ => rfl⟩
      have hentered : ((s.setWaiting rest).enter it).path.postQueue = s.path.postQueue
          ++ entriesFrom (recordLayout (s.readyForLast it.producer) it.record).1
            (if (recordLayout (s.readyForLast it.producer) it.record).2.2 then
              [s.stamp (recordLayout (s.readyForLast it.producer) it.record).1 + 1]
                ++ (recordLayout (s.readyForLast it.producer) it.record).2.1
                ++ [s.stamp (recordLayout (s.readyForLast it.producer) it.record).1 + 2]
            else (recordLayout (s.readyForLast it.producer) it.record).2.1) := by
        rw [hqueue.1, ← hsh.1, ← hsh.2, ← recordLayout_setWaiting _ rest]
        rfl
      have hstamp : (recordLayout (s.readyForLast it.producer) it.record).2.2 = true →
          ((s.setWaiting rest).enter it).stamp (recordLayout (s.readyForLast it.producer) it.record).1
            = s.stamp (recordLayout (s.readyForLast it.producer) it.record).1 + 2 := fun hst => by
        have h := enqueue_stamp ((s.readyForLast it.producer).setWaiting rest) it.record (by rw [recordLayout_setWaiting]; exact hst)
        rw [recordLayout_setWaiting] at h
        rw [← hsh.2]
        refine Eq.trans ?_ h
        unfold State.stamp
        rw [hqueue.2]
      by_cases hends : ∃ c, s.endsWith it rest c
      · obtain ⟨c, hc⟩ := hends
        have hfill : it.producer ≠ .fill := by rw [hc.1]; nofun
        rw [afterCredit_ends hc] at hexec
        have hposts : State.postsOnly s ((s.setWaiting rest).enter it) :=
          postsOnly_enter_silent (s := s.setWaiting rest) hfill (by rw [hc.1]; rfl)
        obtain ⟨more, hmore⟩ := syncClosed_extends (((s.setWaiting rest).enter it).endComposition c) ((s.setWaiting rest).enter it) c.engine
        refine ⟨_, hexec, fun h => ?_, fun _ e => ?_, fun c' hc' => ?_, fun h => absurd hc (h c), fun _ _ h => absurd hc (h c),
          fun n h => ?_, fun k h => absurd h hfill, fun h => absurd h.1 hfill⟩
        · refine keepsRaises_syncClosed _ _ c.engine _ ?_
          exact keepsRaises_same (post_endComposition _ c) _ (hcarries h)
        · have h1 := (raisesAlso_same (post_endComposition ((s.setWaiting rest).enter it) c)).quiet
            (raisesAlso_syncClosed _ ((s.setWaiting rest).enter it) c.engine)
          refine (h1 e).trans ?_
          rw [getLsbD_zero13, raising_enter hw hp hfill]
          exact or_congr Iff.rfl ⟨nofun, fun h => absurd h.1.1 hfill⟩
        · obtain rfl : c = c' := Option.some.inj (hc.2.1.symm.trans hc'.2.1)
          refine ⟨(hposts.endComposition c).trans (postsOnly_closeComposition _ c), more, ?_⟩
          rw [← hentered]
          exact hmore.trans (congrArg (fun p : PathUnit => p.postQueue ++ more) (path_endComposition _ c))
        · rcases h with h | h <;> (rw [hc.1] at h; cases h)
      · have hno : ∀ c, ¬ s.endsWith it rest c := fun c hc => hends ⟨c, hc⟩
        rw [afterCredit_same hno] at hexec
        refine ⟨_, hexec, hcarries, fun hk e => ?_, fun c hc => absurd hc (hno c), fun _ => ⟨hentered, hstamp⟩, fun hf hn _ => ?_,
          fun n hn => ?_, fun k hf hphase hk hr => ?_, fun ⟨hf, hphase⟩ => ?_⟩
        · by_cases hf : it.producer = .fill
          · rw [raising_enter_fill hw hp hf hk]
            exact or_congr Iff.rfl ⟨fun ⟨h1, h2⟩ => ⟨⟨hf, h1⟩, h2⟩, fun ⟨⟨_, h1⟩, h2⟩ => ⟨h1, h2⟩⟩
          · rw [raising_enter hw hp hf]
            exact ⟨.inl, fun h => h.resolve_right fun h => hf h.1.1⟩
        · refine postsOnly_enter_silent (s := s.setWaiting rest) hf ?_
          unfold Producer.settles
          split
          next m hm => exact absurd hm (hn m).1
          next m hm => exact absurd hm (hn m).2
          next => rfl
        · have hset : it.producer.settles = some n := by rcases hn with hn | hn <;> rw [hn] <;> rfl
          have hf : it.producer ≠ .fill := by rcases hn with hn | hn <;> rw [hn] <;> nofun
          refine ⟨(settlesTo_enter (s.setWaiting rest) hset).1, ?_⟩
          rw [enter_eq _ hf, hset]
          refine (settleEngine_state _ n).trans ?_
          have he : (((s.setWaiting rest).enqueue it.record).handRaise it.raises |>.handNext it.producer).engine n = s.engine n :=
            (((postsOnly_enqueue _ _).trans (postsOnly_handRaise _ _)).trans (postsOnly_handNext _ _)).read (·.engine n) fun _ => rfl
          rw [he]
        · rw [enter_fill_next hf hphase hk, hr]
          exact ⟨rfl, rfl⟩
        · rw [enter_fill_last hf hphase]
          generalize hy : (State.handRaise _ it.raises) = y
          obtain ⟨h1, h2, h3⟩ := endFill_spec y
          have hylane : y.lane = s.lane := by rw [← hy, handRaise_eq]; rfl
          have hysetup : y.setup = { s.setup with ready := true } := by rw [← hy, handRaise_eq]; rfl
          refine ⟨(raising_endFill y _).2 (.inr (.inl rfl)), ?_, fun n r hr => ⟨h2 n, ?_⟩, fun n hh hq => ?_⟩
          · rw [h1, hysetup]
          · rw [h1]
            refine List.mem_append_right _ (List.mem_filterMap.2 ⟨n, mem_allFour n, ?_⟩)
            unfold State.heldItem
            rw [laneAt_congr hylane, hr]
            rfl
          · exact h3 n (by rw [hylane]; exact hh) (by rw [laneAt_congr hylane]; exact hq)

end Sys2Proof.Machine
end

section
/-! The text cache and the course of a composition: lines taken, places yielded, fills issued (R68 to R73). -/

namespace Sys2Proof.Machine

variable {s t u v : State} {c k : TextCache} {l m : Nat} {ls : List Nat}

/-! ## The bytes of a line -/

/-- The bytes of a line that are available: those of its cached entry, else those a HOLDING fill has read (R70). -/
def TextCache.bytes (c : TextCache) (l : Nat) : Option (List Byte) :=
  match c.entry l with
  | some e => some e.data
  | none => c.held l

/-- The cache once a line is taken: its entry is the most recent, or its fill has left the set (R70, R73). -/
def TextCache.after (c : TextCache) (l : Nat) : TextCache :=
  { lines := (c.entry l).toList ++ c.lines.filter fun e => e.line ≠ l
    fills := c.fills.filter fun f => !(decide (f.line = l) && (c.entry l).isNone) }

theorem entry_some {e : CacheLine} (h : c.entry l = some e) : e ∈ c.lines ∧ e.line = l :=
  ⟨List.mem_of_find?_eq_some h, by simpa using List.find?_some h⟩

theorem entry_none (h : c.entry l = none) : ∀ e ∈ c.lines, e.line ≠ l := fun e he => by
  simpa using List.find?_eq_none.1 h e he

theorem find?_filter_ne {α : Type} (p q : α → Bool) (L : List α) (h : ∀ x ∈ L, p x = true → q x = true) :
    (L.filter q).find? p = L.find? p := by
  induction L with
  | nil => rfl
  | cons x L ih =>
    have ih := ih fun y hy => h y (List.mem_cons_of_mem _ hy)
    by_cases hp : p x = true
    · rw [List.filter_cons_of_pos (h x List.mem_cons_self hp), List.find?_cons_of_pos hp, List.find?_cons_of_pos hp]
    · rw [List.find?_cons_of_neg hp]
      by_cases hq : q x = true
      · rw [List.filter_cons_of_pos hq, List.find?_cons_of_neg hp, ih]
      · rw [List.filter_cons_of_neg hq, ih]

theorem moveFront_lines (c : TextCache) (l : Nat) :
    (c.moveFront l).lines = (c.entry l).toList ++ c.lines.filter fun e => e.line ≠ l := by
  unfold TextCache.moveFront
  cases h : c.entry l with
  | some e => rfl
  | none => exact (List.filter_eq_self.2 fun e he => by simpa using entry_none h e he).symm

theorem entry_moved (h : c.lines = (k.entry l).toList ++ k.lines.filter fun e => e.line ≠ l) (hm : m ≠ l) :
    c.entry m = k.entry m := by
  unfold TextCache.entry
  rw [h, List.find?_append]
  have hf := find?_filter_ne (fun e : CacheLine => decide (e.line = m)) (fun e => decide (e.line ≠ l)) k.lines
    fun x _ hx => by simpa using fun he : x.line = l => hm ((of_decide_eq_true hx).symm.trans he)
  rw [hf]
  cases hl : k.entry l with
  | none => simp
  | some e =>
    have := (entry_some hl).2
    simp [this, Ne.symm hm]

theorem take_eq (c : TextCache) (l : Nat) : c.take l = (c.bytes l).map fun d => (d, c.after l) := by
  unfold TextCache.take TextCache.bytes
  cases h : c.entry l with
  | some e =>
    have ha : c.after l = c.moveFront l := by
      unfold TextCache.after TextCache.moveFront
      rw [h]
      simp [TextCache.without]
    rw [ha]
    rfl
  | none =>
    cases hh : c.held l with
    | none => rfl
    | some d =>
      have ha : c.after l = c.dropFill l := by
        unfold TextCache.after TextCache.dropFill
        rw [h, List.filter_eq_self.2 fun e he => by simpa using entry_none h e he]
        simp
      rw [ha]
      rfl

theorem entry_after (hm : m ≠ l) : (c.after l).entry m = c.entry m := entry_moved rfl hm

theorem fill_after (hm : m ≠ l) : (c.after l).fill m = c.fill m := by
  refine find?_filter_ne _ _ _ fun x _ hx => ?_
  have : x.line ≠ l := fun he => hm ((of_decide_eq_true hx).symm.trans he)
  simp [this]

theorem held_congr (h : c.fill l = k.fill l) : c.held l = k.held l := by
  unfold TextCache.held
  rw [h]

theorem bytes_after (hm : m ≠ l) : (c.after l).bytes m = c.bytes m := by
  unfold TextCache.bytes
  rw [entry_after hm, held_congr (fill_after hm)]

/-! ## Lines taken in order -/

/-- What a run of taken lines leaves (R70): `pre` are the lines taken, `post` those left. -/
structure Taken (c : TextCache) (got : Tab (List Byte)) (pre post : List Nat) (k : TextCache) (got' : Tab (List Byte)) : Prop where
  available : ∀ l ∈ pre, (c.bytes l).isSome = true
  stops : ∀ l, post.head? = some l → c.bytes l = none
  lines : k.lines = pre.reverse.filterMap c.entry ++ c.lines.filter fun e => !pre.contains e.line
  fills : k.fills = c.fills.filter fun f => !(pre.contains f.line && (c.entry f.line).isNone)
  taken : ∀ l, Tab.get got' l = if l ∈ pre then c.bytes l else Tab.get got l

theorem takeLines_taken (ls : List Nat) (hls : ls.Nodup) (c : TextCache) (got : Tab (List Byte)) :
    ∃ pre, ls = pre ++ (takeLines ls c got).1
      ∧ Taken c got pre (takeLines ls c got).1 (takeLines ls c got).2.1 (takeLines ls c got).2.2 := by
  induction ls generalizing c got with
  | nil =>
    refine ⟨[], rfl, nofun, nofun, ?_, ?_, fun l => rfl⟩
    · exact (List.filter_eq_self.2 fun e _ => rfl).symm
    · exact (List.filter_eq_self.2 fun e _ => rfl).symm
  | cons l ls ih =>
    obtain ⟨hl, hnd⟩ := List.nodup_cons.1 hls
    cases hb : c.bytes l with
    | none =>
      have ht : takeLines (l :: ls) c got = (l :: ls, c, got) := by
        rw [takeLines, take_eq, hb]
        rfl
      rw [ht]
      refine ⟨[], rfl, nofun, fun m hm => ?_, ?_, ?_, fun m => rfl⟩
      · cases hm; exact hb
      · exact (List.filter_eq_self.2 fun e _ => rfl).symm
      · exact (List.filter_eq_self.2 fun e _ => rfl).symm
    | some d =>
      have ht : takeLines (l :: ls) c got = takeLines ls (c.after l) (Tab.set got l d) := by
        rw [takeLines, take_eq, hb]
        rfl
      rw [ht]
      obtain ⟨pre, hpre, h⟩ := ih hnd (c.after l) (Tab.set got l d)
      have hlpre : l ∉ pre := fun hm => hl (by rw [hpre]; exact List.mem_append_left _ hm)
      have hne : ∀ m ∈ pre, m ≠ l := fun m hm he => hlpre (he ▸ hm)
      have hentries : pre.reverse.filterMap (c.after l).entry = pre.reverse.filterMap c.entry :=
        List.filterMap_congr fun m hm => entry_after (hne m (List.mem_reverse.1 hm))
      refine ⟨l :: pre, by rw [List.cons_append, ← hpre], ?_, ?_, ?_, ?_, ?_⟩
      · rintro m hm
        rcases List.mem_cons.1 hm with rfl | hm
        · rw [hb]; rfl
        · rw [← bytes_after (hne m hm)]
          exact h.available m hm
      · intro m hm
        have hml : m ≠ l := by
          rintro rfl
          refine hl ?_
          rw [hpre]
          exact List.mem_append_right _ (List.mem_of_mem_head? hm)
        rw [← bytes_after hml]
        exact h.stops m hm
      · rw [h.lines, hentries, List.reverse_cons, List.filterMap_append, List.append_assoc]
        congr 1
        show List.filter _ ((c.entry l).toList ++ _) = _
        rw [List.filter_append, List.filter_filter]
        congr 1
        · cases he : c.entry l with
          | none => simp [he]
          | some e =>
            have hel := (entry_some he).2
            simp [he, hel, hlpre]
        · refine List.filter_congr fun e _ => ?_
          by_cases he : e.line = l <;> simp [he]
      · rw [h.fills]
        show List.filter _ (c.fills.filter _) = _
        rw [List.filter_filter]
        refine List.filter_congr fun f _ => ?_
        by_cases hf : f.line = l
        · simp [hf, hlpre]
        · simp [hf, entry_after hf]
      · intro m
        rw [h.taken, Tab.get_set]
        by_cases hml : m = l
        · subst hml
          simp [hlpre, hb]
        · by_cases hmp : m ∈ pre
          · simp [hmp, bytes_after hml]
          · simp [hmp, hml]

/-! ## A fill yields its place (R73) -/

theorem fill_none_iff (c : TextCache) (l : Nat) : (c.fill l).isSome = false ↔ ∀ f ∈ c.fills, f.line ≠ l := by
  unfold TextCache.fill
  rw [Option.isSome_eq_false_iff, Option.isNone_iff_eq_none, List.find?_eq_none]
  simp

theorem held_isSome_iff (c : TextCache) (l : Nat) :
    (c.held l).isSome = true ↔ ∃ f, c.fill l = some f ∧ f.state = .holding := by
  unfold TextCache.held
  cases c.fill l with
  | none => simp
  | some f =>
    dsimp only
    split
    next h => simp [h]
    next h => simp [h]

theorem latestHolding_none (h : latestHolding c ls = none) : ∀ l ∈ ls, (c.held l).isSome = false := by
  induction ls with
  | nil => nofun
  | cons l ls ih =>
    rw [latestHolding] at h
    cases hl : latestHolding c ls with
    | some k => rw [hl] at h; cases h
    | none =>
      rw [hl] at h
      dsimp only at h
      split at h
      next => cases h
      next hh =>
        intro k hk
        rcases List.mem_cons.1 hk with rfl | hk
        · exact Bool.eq_false_iff.2 hh
        · exact ih hl k hk

theorem latestHolding_some (h : latestHolding c ls = some m) : ∃ between later, ls = between ++ m :: later
    ∧ (c.held m).isSome = true ∧ ∀ l ∈ later, (c.held l).isSome = false := by
  induction ls with
  | nil => cases h
  | cons l ls ih =>
    rw [latestHolding] at h
    cases hl : latestHolding c ls with
    | some k =>
      rw [hl] at h
      cases h
      obtain ⟨b, r, hls, hm, hr⟩ := ih hl
      exact ⟨l :: b, r, by rw [hls, List.cons_append], hm, hr⟩
    | none =>
      rw [hl] at h
      dsimp only at h
      split at h
      next hh =>
        cases h
        exact ⟨[], ls, rfl, hh, latestHolding_none hl⟩
      next => cases h

theorem latestHolding_last {between later : List Nat} (hm : (c.held m).isSome = true)
    (hl : ∀ l ∈ later, (c.held l).isSome = false) : latestHolding c (between ++ m :: later) = some m := by
  have hlater : latestHolding c later = none := by
    cases h : latestHolding c later with
    | none => rfl
    | some j =>
      obtain ⟨b, r, hls, hj, -⟩ := latestHolding_some h
      rw [hl j (by rw [hls]; exact List.mem_append_right _ List.mem_cons_self)] at hj
      cases hj
  have hhead : latestHolding c (m :: later) = some m := by
    rw [latestHolding, hlater]
    exact if_pos hm
  induction between with
  | nil => exact hhead
  | cons b between ih => rw [List.cons_append, latestHolding, ih]

/-- The HOLDING fill that yields its place to the first absent line of a list that has none (R73). -/
def TextCache.yields (k : TextCache) (ls : List Nat) (m : Nat) : Prop :=
  ∃ present first between later, ls = present ++ first :: between ++ m :: later
    ∧ (∀ l ∈ present, k.entry l ≠ none) ∧ k.entry first = none ∧ (∀ f ∈ k.fills, f.line ≠ first)
    ∧ 4 ≤ k.fills.length ∧ (k.held m).isSome = true ∧ ∀ l ∈ later, (k.held l).isSome = false

theorem yieldPlace_yields (h : k.yields ls m) : yieldPlace ls k = k.dropFill m := by
  obtain ⟨present, first, between, later, rfl, hpresent, hfirst, hfree, hfull, hm, hlater⟩ := h
  have hd : (present ++ first :: between ++ m :: later).dropWhile k.present = first :: (between ++ m :: later) := by
    rw [List.append_assoc, List.dropWhile_append_of_pos (p := k.present) fun l hl =>
      Option.isSome_iff_ne_none.2 (hpresent l hl)]
    exact List.dropWhile_cons_of_neg (by simp [TextCache.present, hfirst])
  unfold yieldPlace
  rw [hd]
  dsimp only
  rw [if_neg, latestHolding_last hm hlater]
  rw [(fill_none_iff k first).2 hfree, Bool.false_or, decide_eq_true_eq]
  exact Nat.not_lt.2 hfull

theorem yieldPlace_keeps (h : ∀ m, ¬ k.yields ls m) : yieldPlace ls k = k := by
  unfold yieldPlace
  split
  next => rfl
  next l t hd =>
    split
    next => rfl
    next hfull =>
      split
      next m hm =>
        obtain ⟨between, later, rfl, hheld, hlater⟩ := latestHolding_some hm
        simp only [Bool.or_eq_true, decide_eq_true_eq, not_or, Bool.not_eq_true, Nat.not_lt] at hfull
        refine absurd ⟨ls.takeWhile k.present, l, between, later, ?_, fun j hj => ?_, ?_, (fill_none_iff k l).1 hfull.1, hfull.2,
          hheld, hlater⟩ (h m)
        · rw [List.append_assoc, List.cons_append, ← hd, List.takeWhile_append_dropWhile]
        · exact Option.isSome_iff_ne_none.1 (List.mem_takeWhile_imp (p := k.present) hj)
        · have := List.head?_dropWhile_not k.present ls
          rw [hd] at this
          simpa [TextCache.present] using this
      next => rfl

theorem yieldPlace_lines (ls : List Nat) (k : TextCache) : (yieldPlace ls k).lines = k.lines := by
  rcases yieldPlace_cases ls k with h | ⟨m, -, -, h⟩ <;> rw [h]
  rfl

/-! ## Fills issued (R71) -/

/-- A line is absent and has no pending fill. -/
def TextCache.lacks (k : TextCache) (l : Nat) : Bool := (k.entry l).isNone && k.fills.all fun f => f.line ≠ l

/-- The lines a fill is issued for: the absent ones with no pending fill, in list order, until four are pending. -/
def TextCache.wants (k : TextCache) (ls : List Nat) : List Nat :=
  (ls.filter k.lacks).take (4 - k.fills.length)

theorem issueFills_eq (ls : List Nat) (hls : ls.Nodup) (k : TextCache) (q : List Nat) : issueFills ls k q =
    ({ k with fills := k.fills ++ (k.wants ls).map newFill }, q ++ k.wants ls) := by
  induction ls generalizing k q with
  | nil => simp [issueFills, TextCache.wants]
  | cons l ls ih =>
    obtain ⟨hl, hnd⟩ := List.nodup_cons.1 hls
    have hcond : (k.present l || (k.fill l).isSome) = !k.lacks l := by
      have hall : (k.fills.all fun f => decide (f.line ≠ l)) = !(k.fill l).isSome := by
        rw [Bool.eq_iff_iff, Bool.not_eq_true', fill_none_iff]
        simp
      unfold TextCache.lacks
      rw [hall]
      cases h1 : k.entry l <;> cases h2 : (k.fill l).isSome <;> simp [TextCache.present, h1]
    rw [issueFills]
    by_cases hw : k.lacks l = true
    · rw [if_neg (by rw [hcond, hw]; exact Bool.false_ne_true)]
      split
      next hroom =>
        have hroom : k.fills.length < 4 := hroom
        have hnext : (({ k with fills := k.fills ++ [newFill l] } : TextCache)).wants ls =
            (ls.filter k.lacks).take (4 - k.fills.length - 1) := by
          unfold TextCache.wants
          rw [List.length_append, List.length_singleton, Nat.sub_add_eq]
          congr 1
          refine List.filter_congr fun j hj => ?_
          have hne : l ≠ j := fun he => hl (he ▸ hj)
          show ((k.entry j).isNone && (k.fills ++ [newFill l]).all fun f => f.line ≠ j) = _
          rw [List.all_append]
          simp [newFill, hne, TextCache.lacks]
        have hwants : k.wants (l :: ls) = l :: (({ k with fills := k.fills ++ [newFill l] } : TextCache)).wants ls := by
          rw [hnext]
          unfold TextCache.wants
          rw [List.filter_cons_of_pos hw]
          obtain ⟨n, hn⟩ := Nat.exists_eq_succ_of_ne_zero (Nat.sub_ne_zero_of_lt hroom)
          rw [hn]
          rfl
        rw [ih hnd, hwants]
        simp
      next hfull =>
        have hzero : 4 - k.fills.length = 0 := Nat.sub_eq_zero_of_le (Nat.not_lt.1 hfull)
        have hwants : k.wants (l :: ls) = [] := by
          unfold TextCache.wants
          rw [hzero]
          rfl
        rw [hwants]
        simp
    · rw [if_pos (by rw [hcond, Bool.eq_false_iff.2 hw]; rfl), ih hnd]
      have hwants : k.wants (l :: ls) = k.wants ls := by
        unfold TextCache.wants
        rw [List.filter_cons_of_neg hw]
      rw [hwants]

/-! ## A composition goes on -/

theorem Taken.entry {got got' : Tab (List Byte)} {pre post : List Nat} (h : Taken c got pre post k got') (hl : l ∉ pre) :
    k.entry l = c.entry l := by
  unfold TextCache.entry
  rw [h.lines, List.find?_append]
  have hnone : (pre.reverse.filterMap c.entry).find? (fun e => decide (e.line = l)) = none := by
    rw [List.find?_eq_none]
    intro e he
    obtain ⟨j, hj, hje⟩ := List.mem_filterMap.1 he
    have hline := (entry_some hje).2
    simpa [hline] using fun hjl : j = l => hl (hjl ▸ List.mem_reverse.1 hj)
  rw [hnone, Option.none_or]
  refine find?_filter_ne _ _ _ fun x _ hx => ?_
  have hxl : x.line = l := of_decide_eq_true hx
  simp [hxl, hl]

/-- The composition with the lines taken, the place yielded and the fills issued. -/
theorem coursed_eq (s : State) (c : Composition) (h : c.wanted.Nodup) : s.coursed c =
    { s with
      comp := { s.comp with composition := some { c with
        wanted := (takeLines c.wanted s.cache c.taken).1, taken := (takeLines c.wanted s.cache c.taken).2.2 } }
      cache :=
        { lines := (takeLines c.wanted s.cache c.taken).2.1.lines
          fills := (yieldPlace (takeLines c.wanted s.cache c.taken).1 (takeLines c.wanted s.cache c.taken).2.1).fills
            ++ ((yieldPlace (takeLines c.wanted s.cache c.taken).1 (takeLines c.wanted s.cache c.taken).2.1).wants
              (takeLines c.wanted s.cache c.taken).1).map newFill }
      path := { s.path with
        fillQueue := s.path.fillQueue
          ++ (yieldPlace (takeLines c.wanted s.cache c.taken).1 (takeLines c.wanted s.cache c.taken).2.1).wants
            (takeLines c.wanted s.cache c.taken).1 } } := by
  unfold State.coursed
  dsimp only
  rw [issueFills_eq _ ((takeLines_suffix _ _ _).sublist.nodup h), yieldPlace_lines]
  rfl

theorem advance_eq {c : Composition} (h : s.comp.composition = some c) : s.advance =
    if (takeLines c.wanted s.cache c.taken).1.isEmpty && !s.producerBusy .credit then
      (s.coursed c).closeComposition
        { c with wanted := (takeLines c.wanted s.cache c.taken).1, taken := (takeLines c.wanted s.cache c.taken).2.2 }
    else s.coursed c := by
  unfold State.advance
  rw [h]
  rfl

/-- Which fill yields is told by the entries of the list's lines and the pending fills. -/
theorem yields_iff {post : List Nat} {entry : Nat → Option CacheLine} {fills : List Fill} (he : ∀ l ∈ post, k.entry l = entry l)
    (hf : k.fills = fills) : k.yields post m ↔ ∃ present first between later, post = present ++ first :: between ++ m :: later
      ∧ (∀ l ∈ present, entry l ≠ none) ∧ entry first = none ∧ (∀ f ∈ fills, f.line ≠ first) ∧ 4 ≤ fills.length
      ∧ (∃ f, (fills.find? fun x => x.line = m) = some f ∧ f.state = .holding)
      ∧ ∀ l ∈ later, ¬ ∃ f, (fills.find? fun x => x.line = l) = some f ∧ f.state = .holding := by
  subst hf
  have hh : ∀ l, (k.held l).isSome = true ↔ ∃ f, (k.fills.find? fun x => x.line = l) = some f ∧ f.state = .holding :=
    held_isSome_iff k
  refine exists_congr fun present => exists_congr fun first => exists_congr fun between => exists_congr fun later =>
    and_congr_right fun hpost => ?_
  have hmem : ∀ l, l ∈ present ∨ l = first → l ∈ post := fun l hl => by
    rw [hpost]
    rcases hl with hl | rfl <;> simp [*]
  refine and_congr (forall₂_congr fun l hl => by rw [he l (hmem l (.inl hl))]) (and_congr (by rw [he first (hmem _ (.inr rfl))])
    (and_congr Iff.rfl (and_congr Iff.rfl (and_congr (hh m) (forall₂_congr fun l _ => ?_)))))
  rw [← hh l, Bool.not_eq_true]

/-- Settles O40. -/
theorem compositionTakesItsLinesInOrder : Obligations.CompositionTakesItsLinesInOrder := by
  unfold Obligations.CompositionTakesItsLinesInOrder
  intro s c hc hw
  rw [noRepeat_iff] at hw
  obtain ⟨pre, hpre, h⟩ := takeLines_taken c.wanted hw s.cache c.taken
  have hadv := advance_eq hc
  have hcourse := coursed_eq s c hw
  generalize (takeLines c.wanted s.cache c.taken).1 = post at hpre h hadv hcourse
  generalize (takeLines c.wanted s.cache c.taken).2.1 = k at hpre h hadv hcourse
  generalize (takeLines c.wanted s.cache c.taken).2.2 = got at hpre h hadv hcourse
  have hdisj : ∀ l ∈ post, l ∉ pre := fun l hl hlp => by
    rw [hpre] at hw
    exact (List.nodup_append'.1 hw).2.2 hlp hl
  have hentry : ∀ l ∈ post, k.entry l = s.cache.entry l := fun l hl => h.entry (hdisj l hl)
  have hentry' : ∀ l ∈ post, (yieldPlace post k).entry l = s.cache.entry l := fun l hl => by
    unfold TextCache.entry
    rw [yieldPlace_lines]
    exact hentry l hl
  have hwants : (yieldPlace post k).wants post = (post.filter fun l => (s.cache.entry l).isNone
      && (yieldPlace post k).fills.all fun f => f.line ≠ l).take (4 - (yieldPlace post k).fills.length) := by
    unfold TextCache.wants
    rw [List.filter_congr fun l hl => show (yieldPlace post k).lacks l = _ from congrArg (fun e : Option CacheLine =>
      e.isNone && (yieldPlace post k).fills.all fun f => f.line ≠ l) (hentry' l hl)]
  rw [hwants, h.lines] at hcourse
  refine ⟨pre, post, { c with wanted := post, taken := got }, (yieldPlace post k).fills, ?_⟩
  dsimp only
  refine ⟨hpre, h.available, h.stops, rfl, h.taken, fun m hm => ?_, fun hno => ?_, fun hpost hb => ?_, fun hstay => ?_⟩
  · rw [yieldPlace_yields ((yields_iff hentry h.fills).2 hm), ← h.fills]
    rfl
  · rw [yieldPlace_keeps fun m hm => hno m ((yields_iff hentry h.fills).1 hm)]
    exact h.fills
  · rw [hadv, if_pos (by rw [hpost, hb]; rfl)]
    refine State.postsOnly.trans ?_ (postsOnly_closeComposition _ _)
    rw [hcourse]
    exact .refl _
  · rw [hadv, if_neg, hcourse]
    · rfl
    · rcases hstay with hne | hb
      · simp [hne]
      · simp [hb]

end Sys2Proof.Machine
end

section
/-! Compositions begun: requests round the lines, and the dirty signs in turn (R69, R88, R95, R98, R100). -/

namespace Sys2Proof.Machine

variable {s t u : State} {n : Fin 4} {slot i j : Nat} {g : Sign} {c : TextCache} {ls : List Nat}

/-! ## A line list taken (R69) -/

theorem moveFront_entry {l m : Nat} (hm : m ≠ l) : (c.moveFront l).entry m = c.entry m := entry_moved (moveFront_lines c l) hm

theorem touchList_eq (hls : ls.Nodup) (c : TextCache) : c.touchList ls =
    { c with lines := ls.filterMap c.entry ++ c.lines.filter fun e => !ls.contains e.line } := by
  have hspec : (c.touchList ls).lines = ls.filterMap c.entry ++ (c.lines.filter fun e => !ls.contains e.line)
      ∧ ∀ m, m ∉ ls → (c.touchList ls).entry m = c.entry m := by
    induction ls with
    | nil => exact ⟨(List.filter_eq_self.2 fun e _ => rfl).symm, fun _ _ => rfl⟩
    | cons l ls ih =>
      obtain ⟨hl, hnd⟩ := List.nodup_cons.1 hls
      obtain ⟨h1, h2⟩ := ih hnd
      have ht : c.touchList (l :: ls) = (c.touchList ls).moveFront l := rfl
      rw [ht]
      refine ⟨?_, fun m hm => ?_⟩
      · rw [moveFront_lines, h2 l hl, h1, List.filter_append, List.filter_filter, ← List.append_assoc]
        have hkeep : (ls.filterMap c.entry).filter (fun e => decide (e.line ≠ l)) = ls.filterMap c.entry :=
          List.filter_eq_self.2 fun e he => by
            obtain ⟨m, hm, hme⟩ := List.mem_filterMap.1 he
            rw [(entry_some hme).2]
            simpa using fun hml : m = l => hl (hml ▸ hm)
        rw [hkeep]
        congr 1
        · rw [List.filterMap_cons]
          cases c.entry l <;> rfl
        · refine List.filter_congr fun e _ => ?_
          by_cases he : e.line = l <;> simp [he]
      · rw [moveFront_entry (m := m) (l := l) fun he => hm (by rw [he]; exact List.mem_cons_self), h2 m fun hmem => hm (List.mem_cons_of_mem _ hmem)]
  rw [← hspec.1, ← touchList_fills c ls]

/-- A composition begins: the sign leaves the dirty set, its present lines move to the recent end, and it goes on (R69, R95). -/
theorem beginComposition_eq (s : State) (slot : Nat) (g : Sign) (e : Option (Fin 4)) : s.beginComposition slot g e = State.advance
    { s with
      comp := { s.comp with
        composition := some
          { slot := slot, engine := e, orphan := false, face := composeFace s.selection g.defn
            wanted := textLinesOf (composeFace s.selection g.defn), taken := [] }
        dirty := s.comp.dirty.filter (· ≠ slot) }
      cache := { s.cache with
        lines := (textLinesOf (composeFace s.selection g.defn)).filterMap s.cache.entry
          ++ s.cache.lines.filter fun e => !(textLinesOf (composeFace s.selection g.defn)).contains e.line } } := by
  unfold State.beginComposition
  dsimp only
  rw [touchList_eq]
  · rfl
  · exact nodup_distinct _

/-! ## Requests (R100) -/

theorem requestOf_none (h : ∀ i, (s.engine n).state ≠ .requesting i) : s.requestOf n = none := by
  unfold State.requestOf
  split
  next i hi => exact absurd hi (h i)
  next => rfl

theorem requestOf_some (h : (s.engine n).state = .requesting slot) : s.requestOf n = some slot := by
  unfold State.requestOf
  rw [h]

/-- The lines the arbiter looks at before a line are those nearer to the line last served. -/
theorem linesAfter_split : ∀ last n : Fin 4,
    linesAfter last = (linesAfter last).take (n - last - 1).val ++ n :: (linesAfter last).drop ((n - last - 1).val + 1)
      ∧ ∀ m ∈ (linesAfter last).take (n - last - 1).val, (m - last - 1).val < (n - last - 1).val := by
  decide

theorem nextRequest_some (h : (s.engine n).state = .requesting slot)
    (hb : ∀ m : Fin 4, (m - s.comp.lastServed - 1).val < (n - s.comp.lastServed - 1).val → ∀ i, (s.engine m).state ≠ .requesting i) :
    s.nextRequest = some (n, slot) := by
  obtain ⟨h1, h2⟩ := linesAfter_split s.comp.lastServed n
  unfold State.nextRequest
  rw [List.findSome?_eq_some_iff]
  exact ⟨_, n, _, h1, by rw [requestOf_some h]; rfl, fun m hm => by rw [requestOf_none (hb m (h2 m hm))]; rfl⟩

theorem nextRequest_none (h : ∀ n i, (s.engine n).state ≠ .requesting i) : s.nextRequest = none := by
  unfold State.nextRequest
  rw [List.findSome?_eq_none_iff]
  exact fun m _ => by rw [requestOf_none (h m)]; rfl

theorem mayCompose_iff : s.mayCompose = true
    ↔ s.comp.composition = none ∧ s.applyPending = false ∧ s.clock.state ≠ .unset := by
  unfold State.mayCompose
  simp [and_assoc]

/-- Settles O39. -/
theorem requestsAreServedRoundRobin : Obligations.RequestsAreServedRoundRobin := by
  unfold Obligations.RequestsAreServedRoundRobin
  intro s ha
  refine ⟨fun h => ?_, fun h1 h2 h3 n slot g hr hg hb => ?_⟩
  · have hno : s.mayCompose = false := by
      rw [← Bool.not_eq_true, mayCompose_iff]
      rintro ⟨h1, h2, h3⟩
      rcases h with h | h | h
      · exact h h1
      · rw [h2] at h; cases h
      · exact h3 h
    constructor
    · show execSendTimeComposition s = _
      unfold execSendTimeComposition
      rw [hno]
      split
      · rw [if_neg (by simp)]
      · rfl
    · show execDirtyComposition s = _
      unfold execDirtyComposition
      rw [hno, if_neg (by simp)]
  · have hmay := mayCompose_iff.2 ⟨h1, h2, h3⟩
    have hnext := nextRequest_some hr hb
    dsimp only
    refine ⟨?_, _, _, ?_, State.postsOnly.refl _, rfl⟩
    · show execDirtyComposition s = _
      unfold execDirtyComposition
      rw [hnext, if_neg (by simp)]
    · show execSendTimeComposition s = _
      unfold execSendTimeComposition
      rw [hnext]
      dsimp only
      rw [if_pos (by rw [ha, hmay]; rfl)]
      unfold State.serveRequest
      rw [hg]
      dsimp only
      rw [beginComposition_eq]
      rfl

/-! ## Dirty work (R98) -/

/-- A dirty sign the search meets and goes by. -/
def State.goesBy (s : State) (j : Nat) : Prop := ∀ h, s.sign j = some h → h.state = .sending ∨ h.state = .lost

/-- A sign is SENDING. -/
def State.isSending (s : State) (j : Nat) : Bool := (s.sign j).any fun g => g.state = .sending

/-- The dirty set once the search has gone by some slots: those not SENDING have left it (R98). -/
def State.goneBy (s : State) (l : List Nat) : State :=
  { s with comp := { s.comp with dirty := s.comp.dirty.filter fun j => !l.contains j || s.isSending j } }

theorem goneBy_nil (s : State) : s.goneBy [] = s :=
  congrArg (fun d => ({ s with comp := { s.comp with dirty := d } } : State)) (List.filter_eq_self.2 fun _ _ => rfl)

theorem goneBy_sending {l : List Nat} (h : s.isSending i = true) : s.goneBy l = s.goneBy (i :: l) := by
  unfold State.goneBy
  rw [List.filter_congr fun j _ => ?_]
  by_cases hj : j = i
  · subst hj; simp [h]
  · simp [hj]

theorem goneBy_clean {l : List Nat} (h : s.isSending i = false) : (s.clean i).goneBy l = s.goneBy (i :: l) := by
  have hs : ∀ j, (s.clean i).isSending j = s.isSending j := fun _ => rfl
  unfold State.goneBy
  rw [show (s.clean i).comp.dirty = s.comp.dirty.filter (· ≠ i) from rfl, List.filter_filter, List.filter_congr fun j _ => ?_]
  · rfl
  · rw [hs]
    by_cases hj : j = i
    · subst hj; simp [h]
    · simp [hj]

/-- The search goes by the signs that are SENDING, LOST or gone. -/
theorem searchDirty_append {pre rest : List Nat} (h : ∀ j ∈ pre, s.goesBy j) :
    searchDirty (pre ++ rest) s = searchDirty rest (s.goneBy pre) := by
  induction pre generalizing s with
  | nil => rw [goneBy_nil]; rfl
  | cons j pre ih =>
    have hpre : ∀ k ∈ pre, s.goesBy k := fun k hk => h k (List.mem_cons_of_mem _ hk)
    rw [List.cons_append, searchDirty]
    cases hj : s.sign j with
    | none =>
      dsimp only
      rw [ih (s := s.clean j) hpre, goneBy_clean (by simp [State.isSending, hj])]
    | some g =>
      dsimp only
      by_cases hs : g.state = .sending
      · rw [if_pos hs, ih hpre, goneBy_sending (i := j) (by simp [State.isSending, hj, hs])]
      · rw [if_neg hs, if_pos ((h j List.mem_cons_self g hj).resolve_left hs), ih (s := s.clean j) hpre,
          goneBy_clean (by simp [State.isSending, hj, hs])]

theorem searchDirty_found {pre rest : List Nat} (h : ∀ j ∈ pre, s.goesBy j) (hg : s.sign slot = some g)
    (h1 : g.state ≠ .sending) (h2 : g.state ≠ .lost) :
    searchDirty (pre ++ slot :: rest) s = (s.goneBy pre, some (slot, g)) := by
  have hg' : (s.goneBy pre).sign slot = some g := hg
  rw [searchDirty_append h, searchDirty, hg']
  dsimp only
  rw [if_neg h1, if_neg h2]

theorem searchDirty_none {l : List Nat} (h : ∀ j ∈ l, s.goesBy j) : searchDirty l s = (s.goneBy l, none) := by
  have h1 := searchDirty_append (rest := []) h
  rwa [List.append_nil] at h1

/-- One slot comes before another in the search from the service position (R98). -/
def searchedBefore (service j i : Nat) : Prop := if service < j then i ≤ service ∨ j < i else i ≤ service ∧ j < i

theorem searchOrder_pairwise {d : List Nat} (service : Nat) (h : sortedIndices d = true) :
    (searchOrder service d).Pairwise (searchedBefore service) := by
  have hd := (sortedIndices_iff d).1 h
  unfold searchOrder
  refine List.pairwise_append.2 ⟨?_, ?_, fun a ha b hb => ?_⟩
  · refine (hd.filter _).imp_of_mem fun {a b} ha _ hab => ?_
    have : service < a := by simpa using (List.mem_filter.1 ha).2
    unfold searchedBefore
    rw [if_pos this]
    exact .inr hab
  · refine (hd.filter _).imp_of_mem fun {a b} ha hb hab => ?_
    have h1 : a ≤ service := by simpa using (List.mem_filter.1 ha).2
    have h2 : b ≤ service := by simpa using (List.mem_filter.1 hb).2
    unfold searchedBefore
    rw [if_neg (by omega)]
    exact ⟨h2, hab⟩
  · have h1 : service < a := by simpa using (List.mem_filter.1 ha).2
    have h2 : b ≤ service := by simpa using (List.mem_filter.1 hb).2
    unfold searchedBefore
    rw [if_pos h1]
    exact .inl h2

theorem mem_searchOrder {service : Nat} {d : List Nat} : j ∈ searchOrder service d ↔ j ∈ d := by
  unfold searchOrder
  rw [List.mem_append, List.mem_filter, List.mem_filter, ← and_or_left]
  exact and_iff_left (by simpa using lt_or_ge service j)

theorem searchedBefore_asymm {service : Nat} (h : searchedBefore service i j) : ¬ searchedBefore service j i := by
  unfold searchedBefore at h ⊢
  split at h <;> split <;> omega

/-- The slots before one in the search are those that come before it round from the service position. -/
theorem searchOrder_split {service : Nat} {d : List Nat} (hd : sortedIndices d = true) (h : slot ∈ d) :
    ∃ pre rest, searchOrder service d = pre ++ slot :: rest ∧ ∀ j ∈ d, j ∈ pre ↔ searchedBefore service j slot := by
  obtain ⟨pre, rest, hsplit⟩ := List.append_of_mem (mem_searchOrder (service := service).2 h)
  have hp := searchOrder_pairwise service hd
  rw [hsplit, List.pairwise_append, List.pairwise_cons] at hp
  obtain ⟨-, ⟨hrest, -⟩, hpre⟩ := hp
  refine ⟨pre, rest, hsplit, fun j hj => ⟨fun hm => hpre j hm slot List.mem_cons_self, fun hb => ?_⟩⟩
  have hm := mem_searchOrder (service := service).2 hj
  rw [hsplit] at hm
  rcases List.mem_append.1 hm with hm | hm
  · exact hm
  · rcases List.mem_cons.1 hm with rfl | hm
    · exact absurd hb (searchedBefore_asymm hb)
    · exact absurd hb (searchedBefore_asymm (hrest j hm))

theorem exec_dirtyComposition (ha : s.active = true) (h1 : s.comp.composition = none) (h2 : s.applyPending = false)
    (h3 : s.clock.state ≠ .unset) (hr : ∀ n i, (s.engine n).state ≠ .requesting i) :
    exec .dirtyComposition s = .next s.serveDirty := by
  show execDirtyComposition s = _
  unfold execDirtyComposition
  rw [ha, mayCompose_iff.2 ⟨h1, h2, h3⟩, nextRequest_none hr]
  rfl

/-- Settles O38. -/
theorem dirtySignIsComposedInTurn : Obligations.DirtySignIsComposedInTurn := by
  unfold Obligations.DirtySignIsComposedInTurn
  intro s ha h1 h2 h3 hr hd
  rw [exec_dirtyComposition ha h1 h2 h3 hr]
  refine ⟨fun slot g hslot hg hs hl hpassed => ?_, fun hpassed => ?_⟩
  · obtain ⟨pre, rest, hsplit, hpre⟩ := searchOrder_split (service := s.comp.servicePos) hd hslot
    have hpres : ∀ j ∈ pre, s.goesBy j := fun j hj => by
      have hjd : j ∈ s.comp.dirty := (mem_searchOrder (service := s.comp.servicePos)).1 (by rw [hsplit]; exact List.mem_append_left _ hj)
      exact hpassed j hjd ((hpre j hjd).1 hj)
    have hserve : s.serveDirty =
        { s.goneBy pre with comp := { (s.goneBy pre).comp with servicePos := slot } }.beginComposition slot g none := by
      unfold State.serveDirty
      rw [hsplit, searchDirty_found hpres hg hs hl]
    dsimp only
    rw [hserve, beginComposition_eq]
    refine ⟨_, _, rfl, State.postsOnly.refl _, fun j => ?_, rfl⟩
    show j ∈ (s.comp.dirty.filter fun j => !pre.contains j || s.isSending j).filter (· ≠ slot) ↔ _
    rw [List.mem_filter, List.mem_filter, and_assoc]
    refine and_congr_right fun hj => ?_
    show _ ∧ _ ↔ j ≠ slot ∧ (searchedBefore s.comp.servicePos j slot → s.isSending j = true)
    rw [← hpre j hj, Bool.or_eq_true, Bool.not_eq_true', decide_eq_true_eq, and_comm, ← Bool.not_eq_true, List.contains_iff_mem,
      ← imp_iff_not_or]
  · have hall : ∀ j ∈ searchOrder s.comp.servicePos s.comp.dirty, s.goesBy j := fun j hj => hpassed j (mem_searchOrder.1 hj)
    have hserve : s.serveDirty = s.goneBy (searchOrder s.comp.servicePos s.comp.dirty) := by
      unfold State.serveDirty
      rw [searchDirty_none hall]
    refine ⟨_, rfl, fun j => ?_, ?_⟩
    · rw [hserve]
      show j ∈ s.comp.dirty.filter _ ↔ _
      rw [List.mem_filter]
      refine and_congr_right fun hj => ?_
      rw [List.contains_iff_mem.2 (mem_searchOrder.2 hj)]
      rfl
    · rw [hserve]; rfl

end Sys2Proof.Machine
end

section
/-! A composition's class meets the budget (R94, R99, R109 to R116, R154). -/

namespace Sys2Proof.Machine

variable {s t u : State} {n : Fin 4} {slot i : Nat} {g : Sign} {c : Composition} {shown new : FaceRecord}

/-! ## Classes (R94) -/

/-- The candidate shows what is shown. -/
def FaceRecord.equals (shown new : FaceRecord) : Prop := shown.resync = false ∧ shown.fullDigest = new.fullDigest

/-- The candidate differs so that it cannot wait. -/
def FaceRecord.urges (shown new : FaceRecord) : Prop :=
  ¬ shown.equals new ∧ (shown.resync = true ∨ shown.style ≠ new.style ∨ ¬ ∀ x, x ∈ shown.noted ↔ x ∈ new.noted)

/-- The candidate differs in its content. -/
def FaceRecord.changes (shown new : FaceRecord) : Prop :=
  ¬ shown.equals new ∧ ¬ shown.urges new ∧ shown.structDigest ≠ new.structDigest

/-- The candidate differs in a time it shows. -/
def FaceRecord.ticks (shown new : FaceRecord) : Prop := ¬ shown.equals new ∧ ¬ shown.urges new ∧ ¬ shown.changes new

theorem sameNoted_iff (a b : List (Nat × Note)) : sameNoted a b = true ↔ ∀ x, x ∈ a ↔ x ∈ b := by
  unfold sameNoted
  simp only [Bool.and_eq_true, List.all_eq_true, List.contains_iff_mem]
  exact ⟨fun ⟨h1, h2⟩ x => ⟨h1 x, h2 x⟩, fun h => ⟨fun x => (h x).1, fun x => (h x).2⟩⟩

theorem equals_iff : (!shown.resync && decide (shown.fullDigest = new.fullDigest)) = true ↔ shown.equals new := by
  simp [FaceRecord.equals]

theorem urges_iff (h : ¬ shown.equals new) : (shown.resync || decide (shown.style ≠ new.style)
    || !sameNoted shown.noted new.noted) = true ↔ shown.urges new := by
  rw [Bool.or_eq_true, Bool.or_eq_true, decide_eq_true_eq, Bool.not_eq_true', ← Bool.not_eq_true, sameNoted_iff, or_assoc]
  exact (and_iff_right h).symm

theorem classify_equal (h : shown.equals new) : classify shown new = .equal := if_pos (equals_iff.2 h)

theorem classify_urgent (h : shown.urges new) : classify shown new = .urgent := by
  unfold classify
  rw [if_neg (mt equals_iff.1 h.1), if_pos ((urges_iff h.1).2 h)]

theorem classify_content (h : shown.changes new) : classify shown new = .content := by
  unfold classify
  rw [if_neg (mt equals_iff.1 h.1), if_neg (mt (urges_iff h.1).1 h.2.1), if_pos h.2.2]

theorem classify_tick (h : shown.ticks new) : classify shown new = .tick := by
  unfold classify
  rw [if_neg (mt equals_iff.1 h.1), if_neg (mt (urges_iff h.1).1 h.2.1), if_neg fun hd => h.2.2 ⟨h.1, h.2.1, hd⟩]

section Candidate

variable {taken : Tab (List Byte)} {f : Face} {r : Bool}

theorem recordOf_fullDigest : (recordOf taken f r).fullDigest = crc (faceBody taken f) := by dsimp only [recordOf]

theorem recordOf_structDigest : (recordOf taken f r).structDigest = crc (structBody taken f) := by dsimp only [recordOf]

theorem equals_recordOf : shown.equals (recordOf taken f r)
    ↔ shown.resync = false ∧ shown.fullDigest = crc (faceBody taken f) := by
  unfold FaceRecord.equals
  rw [recordOf_fullDigest]

theorem urges_recordOf : shown.urges (recordOf taken f r)
    ↔ ¬ (shown.resync = false ∧ shown.fullDigest = crc (faceBody taken f))
      ∧ (shown.resync = true ∨ shown.style ≠ f.style ∨ ¬ ∀ x, x ∈ shown.noted ↔ x ∈ notedOf f) := by
  unfold FaceRecord.urges
  rw [equals_recordOf]
  exact Iff.rfl

theorem changes_recordOf : shown.changes (recordOf taken f r)
    ↔ ¬ (shown.resync = false ∧ shown.fullDigest = crc (faceBody taken f))
      ∧ ¬ (¬ (shown.resync = false ∧ shown.fullDigest = crc (faceBody taken f))
        ∧ (shown.resync = true ∨ shown.style ≠ f.style ∨ ¬ ∀ x, x ∈ shown.noted ↔ x ∈ notedOf f))
      ∧ shown.structDigest ≠ crc (structBody taken f) := by
  unfold FaceRecord.changes
  rw [equals_recordOf, urges_recordOf, recordOf_structDigest]

theorem ticks_recordOf : shown.ticks (recordOf taken f r)
    ↔ ¬ (shown.resync = false ∧ shown.fullDigest = crc (faceBody taken f))
      ∧ ¬ (¬ (shown.resync = false ∧ shown.fullDigest = crc (faceBody taken f))
        ∧ (shown.resync = true ∨ shown.style ≠ f.style ∨ ¬ ∀ x, x ∈ shown.noted ↔ x ∈ notedOf f))
      ∧ ¬ (¬ (shown.resync = false ∧ shown.fullDigest = crc (faceBody taken f))
        ∧ ¬ (¬ (shown.resync = false ∧ shown.fullDigest = crc (faceBody taken f))
          ∧ (shown.resync = true ∨ shown.style ≠ f.style ∨ ¬ ∀ x, x ∈ shown.noted ↔ x ∈ notedOf f))
        ∧ shown.structDigest ≠ crc (structBody taken f)) := by
  unfold FaceRecord.ticks
  rw [equals_recordOf, urges_recordOf, changes_recordOf]

end Candidate

/-! ## Enqueuing (R114) -/

/-- The sign stands on a list of the rank or of a higher one. -/
def FaceLists.stands (l : FaceLists) (i : Nat) : Rank → Prop
  | .urgent => i ∈ l.urgent
  | .content => i ∈ l.urgent ∨ i ∈ l.content
  | .tick => i ∈ l.urgent ∨ i ∈ l.content ∨ i ∈ l.tick

theorem stands_iff (l : FaceLists) (i : Nat) (r : Rank) :
    l.stands i r ↔ ∃ old, l.rankOf i = some old ∧ rankLevel r ≤ rankLevel old := by
  unfold FaceLists.rankOf
  simp only [List.contains_iff_mem]
  by_cases hu : i ∈ l.urgent
  · rw [if_pos hu]
    cases r <;> simp [FaceLists.stands, rankLevel, hu]
  · rw [if_neg hu]
    by_cases hc : i ∈ l.content
    · rw [if_pos hc]
      cases r <;> simp [FaceLists.stands, rankLevel, hu, hc]
    · rw [if_neg hc]
      by_cases ht : i ∈ l.tick
      · rw [if_pos ht]
        cases r <;> simp [FaceLists.stands, rankLevel, hu, hc, ht]
      · rw [if_neg ht]
        cases r <;> simp [FaceLists.stands, hu, hc, ht]

theorem join_stands {l : FaceLists} {r : Rank} (h : l.stands i r) : l.join i r = l := by
  obtain ⟨old, ho, hle⟩ := (stands_iff l i r).1 h
  unfold FaceLists.join
  rw [ho]
  exact if_neg (Nat.not_lt.2 hle)

theorem without_absent {l : FaceLists} (h : i ∉ l.all) : l.without i = l := by
  have hk : ∀ m : List Nat, i ∉ m → m.filter (fun j => decide (j ≠ i)) = m := fun m hm =>
    List.filter_eq_self.2 fun j hj => by simpa using fun he : j = i => hm (he ▸ hj)
  simp only [FaceLists.all, List.mem_append, not_or] at h
  unfold FaceLists.without
  rw [hk _ h.1.1, hk _ h.1.2, hk _ h.2]

theorem join_moves {l : FaceLists} {r : Rank} (h : ¬ l.stands i r) :
    l.join i r = (l.without i).set r ((l.without i).get r ++ [i]) := by
  unfold FaceLists.join
  cases hr : l.rankOf i with
  | none => rw [without_absent (FaceLists.rankOf_eq_none hr)]
  | some old => exact if_pos (Nat.not_le.1 fun hle => h ((stands_iff l i r).2 ⟨old, hr, hle⟩))

theorem enqueuedState_eq (x : SignState) :
    enqueuedState x = if x = .synced ∨ x = .deferred ∨ x = .unseen then .pending else x := by
  cases x <;> rfl

/-- A sign enqueued (R111, R114). -/
theorem enqueueFace_spec (s : State) (i : Nat) (g : Sign) (r : Rank) :
    ((s.lists.get g.defn.line).stands i r → (s.enqueueFace i g r).lists = s.lists)
      ∧ (¬ (s.lists.get g.defn.line).stands i r → (s.enqueueFace i g r).lists = s.lists.set g.defn.line
        (((s.lists.get g.defn.line).without i).set r (((s.lists.get g.defn.line).without i).get r ++ [i])))
      ∧ s.enqueueFace i g r = { s with
        signs := Tab.set s.signs i { g with
          deferred := false
          state := if g.state = .synced ∨ g.state = .deferred ∨ g.state = .unseen then .pending else g.state }
        lists := (s.enqueueFace i g r).lists } := by
  have hl : (s.enqueueFace i g r).lists = s.lists.set g.defn.line ((s.lists.get g.defn.line).join i r) := rfl
  refine ⟨fun h => ?_, fun h => ?_, ?_⟩
  · rw [hl, join_stands h, Quad.set_get_self]
  · rw [hl, join_moves h]
  · rw [← enqueuedState_eq]
    rfl

/-! ## A dirty composition's end (R99, R109) -/

theorem endComposition_dirty (he : c.engine = none) (ho : c.orphan = false) (hg : s.sign c.slot = some g) :
    s.endComposition c = (s.setComposition none).judgeDirty c.slot g
      (classify g.shown (recordOf c.taken c.face g.shown.resync)) := by
  have hg' : (s.setComposition none).sign c.slot = some g := hg
  unfold State.endComposition
  dsimp only
  rw [ho, if_neg Bool.false_ne_true, hg']
  dsimp only
  rw [he]

theorem judgeDirty_lost (h : g.state = .lost) (x : FaceClass) : s.judgeDirty slot g x = s := if_pos h

theorem judgeDirty_equal (h : g.state ≠ .lost) :
    s.judgeDirty slot g .equal = if g.deferred then s.setSign slot (unmarked g) else s := if_neg h

theorem judgeDirty_urgent (h : g.state ≠ .lost) : s.judgeDirty slot g .urgent = s.enqueueFace slot g .urgent := if_neg h

theorem judgeDirty_content (h : g.state ≠ .lost) : s.judgeDirty slot g .content =
    if s.affordsContent g then s.enqueueFace slot g .content else s.deferSign slot g := if_neg h

theorem judgeDirty_tick (h : g.state ≠ .lost) : s.judgeDirty slot g .tick =
    if s.affordsTick g then s.enqueueFace slot g .tick else if g.deferred then s.setSign slot (unmarked g) else s := if_neg h

theorem affordsContent_iff : s.affordsContent g = true ↔ s.setup.quiet = false ∧ 1 ≤ g.credits := by
  simp [State.affordsContent]

theorem affordsTick_iff : s.affordsTick g = true ↔ s.setup.quiet = false ∧ 2 ≤ g.credits := by
  simp [State.affordsTick]

/-- Settles O41. -/
theorem dirtyClassMeetsTheBudget : Obligations.DirtyClassMeetsTheBudget := by
  unfold Obligations.DirtyClassMeetsTheBudget
  intro s c g he ho hg
  have hend := endComposition_dirty he ho hg
  let w := s.setComposition none
  have content : w.affordsContent g = true ↔ s.setup.quiet = false ∧ 1 ≤ g.credits := affordsContent_iff
  have tick : w.affordsTick g = true ↔ s.setup.quiet = false ∧ 2 ≤ g.credits := affordsTick_iff
  dsimp only
  refine ⟨fun hl => ?_, fun hl => ⟨fun h => ?_, fun h => ?_, fun h hq hc => ?_, fun h hq => ?_, fun h hq hc => ?_, fun h hq => ?_⟩⟩
  · rw [hend, judgeDirty_lost hl]
  · rw [hend, classify_equal (equals_recordOf.2 h), judgeDirty_equal hl]
    rfl
  · rw [hend, classify_urgent (urges_recordOf.2 h), judgeDirty_urgent hl]
    exact enqueueFace_spec w c.slot g .urgent
  · rw [hend, classify_content (changes_recordOf.2 h), judgeDirty_content hl,
      if_pos (content.2 ⟨(Bool.not_eq_true _).mp hq, hc⟩)]
    exact enqueueFace_spec w c.slot g .content
  · rw [hend, classify_content (changes_recordOf.2 h), judgeDirty_content hl, if_neg]
    · rfl
    · rw [content]
      rintro ⟨h1, h2⟩
      rcases hq with hq | hq
      · rw [h1] at hq; cases hq
      · omega
  · rw [hend, classify_tick (ticks_recordOf.2 h), judgeDirty_tick hl, if_pos (tick.2 ⟨(Bool.not_eq_true _).mp hq, hc⟩)]
    exact enqueueFace_spec w c.slot g .tick
  · rw [hend, classify_tick (ticks_recordOf.2 h), judgeDirty_tick hl, if_neg]
    · rfl
    · rw [tick]
      rintro ⟨h1, h2⟩
      rcases hq with hq | hq
      · rw [h1] at hq; cases hq
      · omega

/-! ## A send-time composition's end (R116, R154) -/

theorem endComposition_orphan (h : c.orphan = true) : s.endComposition c = s.setComposition none := by
  unfold State.endComposition
  exact if_pos h

theorem endComposition_send (he : c.engine = some n) (ho : c.orphan = false) (hg : s.sign c.slot = some g) :
    s.endComposition c = (s.setComposition none).judgeSend n c.slot g
      (classify g.shown (recordOf c.taken c.face g.shown.resync)) (recordOf c.taken c.face g.shown.resync)
      (faceBody c.taken c.face) := by
  have hg' : (s.setComposition none).sign c.slot = some g := hg
  unfold State.endComposition
  dsimp only
  rw [ho, if_neg Bool.false_ne_true, hg']
  dsimp only
  rw [he]

section Judged

variable {record : FaceRecord} {body : List Byte} {x : FaceClass}

theorem judgeSend_withdrawn (h : (s.engine n).state ≠ .requesting slot) : s.judgeSend n slot g x record body = s := if_pos h

theorem judgeSend_equal (h : (s.engine n).state = .requesting slot) : s.judgeSend n slot g .equal record body = s.letGo n slot g :=
  if_neg (not_not_intro h)

theorem judgeSend_urgent (h : (s.engine n).state = .requesting slot) :
    s.judgeSend n slot g .urgent record body = s.sendFace n slot g .urgent record body := if_neg (not_not_intro h)

theorem judgeSend_content (h : (s.engine n).state = .requesting slot) : s.judgeSend n slot g .content record body =
    if s.affordsContent g then s.sendFace n slot g .content record body
    else (s.deferSign slot g).updateEngine n fun e => { e with state := .idle } := if_neg (not_not_intro h)

theorem judgeSend_tick (h : (s.engine n).state = .requesting slot) : s.judgeSend n slot g .tick record body =
    if s.affordsTick g then s.sendFace n slot g .tick record body else s.letGo n slot g := if_neg (not_not_intro h)

theorem sendSequence_eq (g : Sign) (record : FaceRecord) : sendSequence g record =
    if g.unconfirmed.any fun v => v.2.fullDigest = record.fullDigest then g.sequence else g.sequence + 1 := by
  unfold sendSequence
  split
  next h => rw [h, Option.any_some]; simp only [decide_eq_true_eq]
  next h => rw [h]; rfl

theorem byteOf_bit (b : Bool) : byteOf (bitOf b) = if b then 1 else 0 := by cases b <;> rfl

/-- A FACE sent: the sign is SENDING, the engine READY with it, and an IDLE port takes it at once (R116, R126, R144). -/
theorem sendFace_spec (s : State) (n : Fin 4) (slot : Nat) (g : Sign) (r : Rank) (record : FaceRecord) (body : List Byte) :
    ((s.port n).state ≠ .idle → s.sendFace n slot g r record body =
      ((s.setSign slot { g with deferred := false, state := .sending, sequence := sendSequence g record }).setLists g.defn.line
        ((s.lists.get g.defn.line).without slot)).setEngine n { s.engine n with
          state := .ready (.face slot g.defn.address (sendSequence g record) r record body) })
    ∧ ((s.port n).state = .idle → s.sendFace n slot g r record body =
      (((s.setSign slot { g with deferred := false, state := .sending, sequence := sendSequence g record }).setLists g.defn.line
        ((s.lists.get g.defn.line).without slot)).setEngine n { s.engine n with
          state := .running (.face slot g.defn.address (sendSequence g record) r record body) false }).setPort n { s.port n with
            state := .sending
            rate := (s.setup.lines.get n).rate
            frame := frameOf 0x53#8 (byteOf g.defn.address) (sendSequence g record) (if record.resync then 1 else 0) body }) := by
  let v := (s.setSign slot { g with deferred := false, state := .sending, sequence := sendSequence g record }).setLists g.defn.line
    ((s.lists.get g.defn.line).without slot)
  let y : Exchange := .face slot g.defn.address (sendSequence g record) r record body
  have hs : s.sendFace n slot g r record body = (v.setEngine n { s.engine n with state := .ready y }).handToPort n := rfl
  have hy : ((v.setEngine n { s.engine n with state := .ready y }).engine n) = { s.engine n with state := .ready y } :=
    State.engine_setEngine_self _ _ _
  have hready : ((v.setEngine n { s.engine n with state := .ready y }).engine n).state = .ready y := by rw [hy]
  rw [hs]
  refine ⟨fun hp => handToPort_busy hready hp, fun hp => ?_⟩
  rw [handToPort_ready hready hp, hy, State.setEngine_setEngine, ← byteOf_bit]
  rfl

/-- A FACE sent from the state without its composition, its record given field by field. -/
theorem sendFace_judged {r : Rank} {full struct : Word} {style : Style} {noted : List (Nat × Note)} {lines : List Nat} {resync : Bool}
    (ht : t = (s.setComposition none).sendFace n slot g r ⟨full, struct, style, noted, lines, resync⟩ body) :
    ((s.port n).state ≠ .idle → t = (((s.setComposition none).setSign slot { g with
        deferred := false
        state := .sending
        sequence := if g.unconfirmed.any fun v => v.2.fullDigest = full then g.sequence else g.sequence + 1 }).setLists g.defn.line
          ((s.lists.get g.defn.line).without slot)).setEngine n { s.engine n with
            state := .ready (.face slot g.defn.address
              (if g.unconfirmed.any fun v => v.2.fullDigest = full then g.sequence else g.sequence + 1) r
              ⟨full, struct, style, noted, lines, resync⟩
              body) })
    ∧ ((s.port n).state = .idle → t = ((((s.setComposition none).setSign slot { g with
        deferred := false
        state := .sending
        sequence := if g.unconfirmed.any fun v => v.2.fullDigest = full then g.sequence else g.sequence + 1 }).setLists g.defn.line
          ((s.lists.get g.defn.line).without slot)).setEngine n { s.engine n with
            state := .running (.face slot g.defn.address
              (if g.unconfirmed.any fun v => v.2.fullDigest = full then g.sequence else g.sequence + 1) r
              ⟨full, struct, style, noted, lines, resync⟩
              body) false }).setPort n { s.port n with
            state := .sending
            rate := (s.setup.lines.get n).rate
            frame := frameOf 0x53#8 (byteOf g.defn.address)
              (if g.unconfirmed.any fun v => v.2.fullDigest = full then g.sequence else g.sequence + 1)
              (if resync then 1 else 0) body }) := by
  have h := sendFace_spec (s.setComposition none) n slot g r ⟨full, struct, style, noted, lines, resync⟩ body
  rw [sendSequence_eq, ← ht] at h
  exact h

end Judged

/-- Settles O42. -/
theorem sendTimeClassDecidesTheSend : Obligations.SendTimeClassDecidesTheSend := by
  unfold Obligations.SendTimeClassDecidesTheSend
  intro s c g n he hg
  let w := s.setComposition none
  have content : w.affordsContent g = true ↔ s.setup.quiet = false ∧ 1 ≤ g.credits := affordsContent_iff
  have tick : w.affordsTick g = true ↔ s.setup.quiet = false ∧ 2 ≤ g.credits := affordsTick_iff
  have hE := equals_recordOf (shown := g.shown) (taken := c.taken) (f := c.face) (r := g.shown.resync)
  have hU := urges_recordOf (shown := g.shown) (taken := c.taken) (f := c.face) (r := g.shown.resync)
  have hC := changes_recordOf (shown := g.shown) (taken := c.taken) (f := c.face) (r := g.shown.resync)
  have hT := ticks_recordOf (shown := g.shown) (taken := c.taken) (f := c.face) (r := g.shown.resync)
  have hrec : recordOf c.taken c.face g.shown.resync = ⟨crc (faceBody c.taken c.face), crc (structBody c.taken c.face),
    c.face.style, notedOf c.face, textLinesOf c.face, g.shown.resync⟩ := by unfold recordOf; rfl
  have hend := fun ho => endComposition_send he ho hg
  dsimp only
  generalize faceBody c.taken c.face = body at *
  generalize crc body = full at *
  generalize crc (structBody c.taken c.face) = struct at *
  refine ⟨fun h => ?_, fun ho hr => ?_⟩
  · cases ho : c.orphan with
    | true => exact endComposition_orphan ho
    | false =>
      rw [hend ho]
      exact judgeSend_withdrawn (s := w) (h.resolve_left (by rw [ho]; exact Bool.false_ne_true))
  have hend := hend ho
  have hr' : (w.engine n).state = .requesting c.slot := hr
  refine ⟨fun h => ?_, fun h => ?_, fun h hq hc => ?_, fun h hq => ?_, fun h hq hc => ?_, fun h hq => ?_⟩
  · rw [hend, classify_equal (hE.2 h), judgeSend_equal hr']
    rfl
  · exact sendFace_judged (by rw [hend, classify_urgent (hU.2 h), judgeSend_urgent hr', hrec])
  · exact sendFace_judged (by rw [hend, classify_content (hC.2 h), judgeSend_content hr', if_pos (content.2 ⟨hq, hc⟩), hrec])
  · rw [hend, classify_content (hC.2 h), judgeSend_content hr', if_neg]
    · rfl
    · rw [content]
      rintro ⟨h1, h2⟩
      rcases hq with hq | hq
      · rw [h1] at hq; cases hq
      · omega
  · exact sendFace_judged (by rw [hend, classify_tick (hT.2 h), judgeSend_tick hr', if_pos (tick.2 ⟨hq, hc⟩), hrec])
  · rw [hend, classify_tick (hT.2 h), judgeSend_tick hr', if_neg]
    · rfl
    · rw [tick]
      rintro ⟨h1, h2⟩
      rcases hq with hq | hq
      · rw [h1] at hq; cases hq
      · omega

end Sys2Proof.Machine
end

section
/-! Fill reads, arrivals and writes in the pool (R72, R73, R75 to R77, R173). -/

namespace Sys2Proof.Machine

variable {s t u : State} {l : Nat} {rest : List Nat} {f : Fill} {c : TextCache} {w : Word}

/-! ## Fill reads (R72) -/

theorem ownChoice_fillRead (ha : s.active = true) (hr : s.reloading = false) (hh : s.path.hold ≠ .granted)
    (hf : s.path.fillQueue = l :: rest) (hq : s.path.postQueue = [] ∨ s.path.lastChoicePost = true) :
    s.ownChoice = some .fillRead := by
  rw [State.ownChoice_ready hh]
  unfold State.ownReady
  rw [ha, hr, hf]
  cases hp : s.path.postQueue with
  | nil => rfl
  | cons e q =>
    rw [hp] at hq
    rw [hq.resolve_left (List.cons_ne_nil _ _)]
    rfl

theorem noteChoice_false (hf : s.path.fillQueue = l :: rest) : s.noteChoice false =
    { s with path := { s.path with
        lastChoicePost := if s.path.postQueue = [] then s.path.lastChoicePost else false } } := by
  unfold State.noteChoice
  rw [hf]
  cases s.path.postQueue <;> rfl

/-- The state as a fill read begins: the choice remembered, the own access made. -/
def State.fillBegun (s : State) : State :=
  { s with path := { s.path with
    insist := 0
    stretchNext := false
    hold := if s.path.hold = .waiting then .granted else s.path.hold
    lastChoicePost := if s.path.postQueue = [] then s.path.lastChoicePost else false } }

theorem afterOwn_if (h : Hold) : h.afterOwn = if h = .waiting then .granted else h := by cases h <;> rfl

theorem fillBegun_eq (hf : s.path.fillQueue = l :: rest) : (s.noteChoice false).ownAccessMade = s.fillBegun := by
  rw [noteChoice_false hf]
  unfold State.ownAccessMade State.fillBegun
  rw [afterOwn_if]

theorem makeFillRead_eq (hf : s.path.fillQueue = l :: rest) (hc : s.cache.fill l = some f)
    (hw : readWord s.mem (s.regionAddress (0x4000 + 0x20 * l + 2 * f.data.length)) = w) : s.makeFillRead =
      if f.data.length < 15 then { s.fillBegun with cache := s.cache.readWord l w }
      else ({ s.fillBegun with cache := s.cache.readWord l w }.arrive { f with data := f.data ++ [w] }).advance := by
  unfold State.makeFillRead
  rw [hf]
  dsimp only
  rw [fillBegun_eq hf, show s.fillBegun.cache.fill l = some f from hc]
  dsimp only
  rw [show readWord s.fillBegun.mem (s.fillBegun.regionAddress (poolOffset l + 2 * f.data.length)) = w from hw]
  rfl

/-- What is done to a line's fill is not seen in the fills of the others. -/
theorem filter_onFill (l : Nat) {k : Fill → Fill} (hk : ∀ x, (k x).line = x.line) (L : List Fill) :
    (L.map fun x => if x.line = l then k x else x).filter (fun x => decide (x.line ≠ l)) = L.filter fun x => x.line ≠ l := by
  induction L with
  | nil => rfl
  | cons x L ih =>
    rw [List.map_cons]
    by_cases hx : x.line = l
    · rw [if_pos hx, List.filter_cons_of_neg (by simp [hk, hx]), List.filter_cons_of_neg (by simp [hx]), ih]
    · rw [if_neg hx, List.filter_cons_of_pos (by simp [hx]), List.filter_cons_of_pos (by simp [hx]), ih]

/-- A fill that arrives after its last word has been read. -/
theorem arrive_read (b : State) (c : TextCache) (l : Nat) (w : Word) (f : Fill) (hl : f.line = l) (hb : b.path.fillQueue = l :: rest)
    (hrest : l ∉ rest) : { b with cache := c.readWord l w }.arrive { f with data := f.data ++ [w] } =
      if f.spoiled then
        { b with
          path := { b.path with fillQueue := rest ++ [l] }
          cache := { c with fills := c.fills.map fun x =>
            if x.line = l then { line := l, state := .waiting, spoiled := false, data := [] } else x } }
      else if b.setup.cacheOff then
        { b with
          path := { b.path with fillQueue := rest }
          cache := { c with fills := c.fills.map fun x =>
            if x.line = l then { x with state := .holding, data := x.data ++ [w] } else x } }
      else
        { b with
          path := { b.path with fillQueue := rest }
          cache :=
            { lines := { line := l, data := (f.data ++ [w]).flatMap fun v => [loByte v, hiByte v] }
                :: (c.lines.filter fun e => e.line ≠ l).take 63
              fills := c.fills.filter fun x => x.line ≠ l } } := by
  have hq : b.path.fillQueue.filter (fun j => decide (j ≠ l)) = rest := by
    rw [hb, List.filter_cons_of_neg (by simp), List.filter_eq_self.2 fun j hj => by simpa using fun he : j = l => hrest (he ▸ hj)]
  have hmap : ∀ k : Fill → Fill, ((c.readWord l w).fills.map fun x => if x.line = l then k x else x)
      = c.fills.map fun x => if x.line = l then k { x with state := .reading, data := x.data ++ [w] } else x := fun k => by
    unfold TextCache.readWord
    rw [List.map_map]
    refine List.map_congr_left fun x _ => ?_
    show (if (if x.line = l then _ else x).line = l then k (if x.line = l then _ else x) else _) = _
    by_cases hx : x.line = l
    · simp only [if_pos hx]
    · simp only [if_neg hx]
  have hdrop : (c.readWord l w).fills.filter (fun x => decide (x.line ≠ l)) = c.fills.filter fun x => x.line ≠ l := by
    exact filter_onFill l (k := fun x => { x with state := .reading, data := x.data ++ [w] }) (fun _ => rfl) c.fills
  subst hl
  unfold State.arrive
  dsimp only
  rw [hq]
  split
  · unfold TextCache.reissue
    rw [hmap fun _ => newFill f.line]
    rfl
  · split
    · unfold TextCache.hold
      rw [hmap fun x => { x with state := .holding }]
      rfl
    · unfold TextCache.dropFill TextCache.join
      dsimp only
      rw [hdrop]
      rfl

/-- Settles O43. -/
theorem fillReadsWordsAndArrives : Obligations.FillReadsWordsAndArrives := by
  unfold Obligations.FillReadsWordsAndArrives
  intro l rest f s ha hr hh hf hrest hq hc
  have hline : f.line = l := by simpa using List.find?_some hc
  have hexec : exec .fillRead s = .next s.makeFillRead := by
    show execFillRead s = _
    unfold execFillRead
    rw [if_pos (ownChoice_fillRead ha hr hh hf hq)]
  have hmake := makeFillRead_eq (w := readWord s.mem (s.regionAddress (0x4000 + 0x20 * l + 2 * f.data.length))) hf hc rfl
  dsimp only
  refine ⟨fun hlt => ?_, fun hge => ?_⟩
  · rw [hexec, hmake, if_pos hlt]
    rfl
  · rw [hexec, hmake, if_neg (Nat.not_lt.2 hge), arrive_read s.fillBegun s.cache l _ f hline hf hrest]
    exact ⟨_, rfl, State.postsOnly.refl _⟩

/-! ## Writes in the pool (R75 to R77) -/

theorem fill_none (h : s.cache.fill l = none) : s.spoil l = s := by
  unfold State.spoil
  rw [h]

theorem spoil_reading (h : s.cache.fill l = some f) (hf : f.state ≠ .holding) : s.spoil l =
    { s with cache := { s.cache with
        fills := s.cache.fills.map fun g => if g.line = l then { g with spoiled := true } else g } } := by
  unfold State.spoil
  rw [h]
  exact if_neg hf

theorem spoil_holding (h : s.cache.fill l = some f) (hf : f.state = .holding) : s.spoil l =
    { s with cache := s.cache.reissue l, path := { s.path with fillQueue := s.path.fillQueue ++ [l] } } := by
  unfold State.spoil
  rw [h]
  exact if_pos hf

/-- A spoiled fill changes the fills and the fill queue alone. -/
theorem spoil_frame (s : State) (l : Nat) : s.spoil l =
    { s with
      cache := { s.cache with fills := (s.spoil l).cache.fills }
      path := { s.path with fillQueue := (s.spoil l).path.fillQueue } } := by
  cases h : s.cache.fill l with
  | none => rw [fill_none h]
  | some f =>
    by_cases hf : f.state = .holding
    · rw [spoil_holding h hf]; rfl
    · rw [spoil_reading h hf]

theorem composedFrom_iff {i : Nat} : s.composedFrom i l = true
    ↔ ∃ c, s.comp.composition = some c ∧ c.slot = i ∧ Tab.has c.taken l = true := by
  unfold State.composedFrom
  cases s.comp.composition with
  | none => simp
  | some c => simp

theorem inFlight_iff {i : Nat} : s.inFlight i l = true
    ↔ ∃ n r, (s.engine n).faceRecord = some (i, r) ∧ l ∈ r.textLines := by
  unfold State.inFlight
  rw [List.any_eq_true]
  refine exists_congr fun n => ?_
  cases (s.engine n).faceRecord with
  | none => simp
  | some e =>
    obtain ⟨j, r⟩ := e
    simp only [mem_allFour, true_and, Bool.and_eq_true, decide_eq_true_eq, List.contains_iff_mem, Option.some.injEq, Prod.mk.injEq]
    constructor
    · rintro ⟨rfl, h⟩
      exact ⟨r, ⟨rfl, rfl⟩, h⟩
    · rintro ⟨r', ⟨rfl, rfl⟩, h⟩
      exact ⟨rfl, h⟩

/-- The signs a written line marks (R77). -/
theorem mem_markText {i : Nat} : i ∈ (s.markText l).comp.dirty ↔ i ∈ s.comp.dirty ∨ ∃ g, (i, g) ∈ s.signs
    ∧ (l ∈ g.shown.textLines
      ∨ (∃ c, s.comp.composition = some c ∧ c.slot = i ∧ Tab.has c.taken l = true)
      ∨ (g.state = .sending ∧ ∃ n r, (s.engine n).faceRecord = some (i, r) ∧ l ∈ r.textLines)) := by
  unfold State.markText
  rw [mem_markWhere]
  refine or_congr_right (exists_congr fun g => and_congr_right fun _ => ?_)
  simp only [Bool.or_eq_true, Bool.and_eq_true, List.contains_iff_mem, decide_eq_true_eq, composedFrom_iff, inFlight_iff, or_assoc]

theorem poolWrite_snoop {d : Drive} (hd : d ≠ .neither) (b : State) (line : Fin 1536) (w : Fin 16) :
    b.poolWrite (poolWord line w) d = (b.forwardAt (poolWord line w) d).snoopLine line.val := by
  have hline : (poolWord line w - 0x4000) / 0x20 = line.val := by unfold poolWord poolOffset; omega
  unfold State.poolWrite
  rw [hline]
  cases d with
  | neither => exact absurd rfl hd
  | _ => rfl

/-- Settles O44. -/
theorem poolWritesAreSnooped : Obligations.PoolWritesAreSnooped := by
  unfold Obligations.PoolWritesAreSnooped
  intro line w d s ha hd
  dsimp only
  have hexec : exec (.snoop line w d) s = .next (s.hostWriteWith (s.regionAddress (poolWord line w)) d
    fun t => t.poolWrite (poolWord line w) d) := rfl
  have hcounts := hostWrite_counts ha (s.regionAddress (poolWord line w)) d fun t => t.poolWrite (poolWord line w) d
  rw [poolWrite_snoop hd] at hcounts
  let b := s.beginHost
  let x : State := { b with
    mem := writeDrive b.mem (s.regionAddress (0x4000 + 0x20 * line.val + 2 * w.val)) d, cache := b.cache.without line.val }
  have hx : (b.forwardAt (poolWord line w) d).snoopLine line.val = ((x.spoil line.val).markText line.val).advance := by
    show State.advance _ = _
    unfold State.forwardAt
    rw [beginHost_regionAddress]
    rfl
  rw [hx] at hcounts
  have hy := spoil_frame x line.val
  have hmark : (x.spoil line.val).markText line.val = { x.spoil line.val with
    comp := { (x.spoil line.val).comp with dirty := ((x.spoil line.val).markText line.val).comp.dirty } } := markWhere_dirty _ _
  have hcache : ((x.spoil line.val).markText line.val).cache = (x.spoil line.val).cache := by rw [hmark]
  have hpath : ((x.spoil line.val).markText line.val).path = (x.spoil line.val).path := by rw [hmark]
  refine ⟨_, _, hexec, hcounts, ?_, ?_, fun h => ?_, fun f h hf => ?_, fun f h hf => ?_, fun i => ?_⟩
  · rw [hcache, hpath]
    conv_lhs => rw [hmark, hy]
    rw [hy]
  · rw [hcache, hy]; rfl
  · rw [hcache, hpath, fill_none (s := x) h]
    exact ⟨rfl, rfl⟩
  · rw [hcache, hpath, spoil_reading (s := x) h hf]
    exact ⟨rfl, rfl⟩
  · rw [hcache, hpath, spoil_holding (s := x) h hf]
    exact ⟨rfl, rfl⟩
  · rw [mem_markText, hy]
    exact Iff.rfl

end Sys2Proof.Machine
end

section
/-! Faces by the candidate rules (R82 to R87). -/

namespace Sys2Proof.Machine

variable {v : Selection} {d : SignDef} {x y : Nat × Session} {room : Nat} {rooms : List Nat} {mask : Word}

/-! ## Distinct indices -/

theorem distinct_filter (p : Nat → Bool) (l : List Nat) : distinct (l.filter p) = (distinct l).filter p := by
  induction l with
  | nil => rfl
  | cons a l ih =>
    by_cases hp : p a = true
    · rw [List.filter_cons_of_pos hp, distinct, distinct, List.filter_cons_of_pos hp, ih, List.filter_filter, List.filter_filter]
      simp only [Bool.and_comm]
    · rw [List.filter_cons_of_neg hp, distinct, List.filter_cons_of_neg hp, ih, List.filter_filter]
      refine List.filter_congr fun b _ => ?_
      by_cases hb : b = a
      · subst hb; simp [hp]
      · simp [hb]

theorem distinct_eq (l : List Nat) : distinct l = l.eraseDups := by
  induction hn : l.length using Nat.strong_induction_on generalizing l with
  | _ n ih =>
    cases l with
    | nil => rfl
    | cons a l =>
      rw [List.eraseDups_cons, ← ih _ (by rw [← hn]; exact Nat.lt_succ_of_le (List.length_filter_le _ l)) _ rfl, distinct,
        distinct_filter]
      congr 1
      exact List.filter_congr fun b _ => by by_cases h : b = a <;> simp [h]

/-! ## Lines (R83 to R87) -/

theorem ownNote_eq (e : Session) : ownNote e =
    if e.cancelled then .cancelled else if e.movedFrom = none then .none else .movedHere := by
  unfold ownNote
  cases e.movedFrom <;> rfl

theorem doorLine_own (h : x.2.room = room) : doorLine v room x = lineRec v.now v.origin x.1 x.2 (ownNote x.2)
    (if x.2.cancelled = false ∧ x.2.start ≤ v.now then x.2.presenter else noText) := by
  unfold doorLine
  rw [if_pos h]
  unfold doorExtra ownNote
  cases hc : x.2.cancelled <;> cases hm : x.2.movedFrom <;> simp

theorem doorLine_away (h : x.2.room ≠ room) : doorLine v room x =
    if x.2.cancelled then lineRec v.now v.origin x.1 x.2 .cancelled noText
    else lineRec v.now v.origin x.1 x.2 .movedAway (nameOf v.rooms x.2.room) := by
  unfold doorLine
  rw [if_neg h]
  unfold awayNote doorExtra
  cases x.2.cancelled <;> rfl

theorem inUse_iff (rooms : Tab Room) (i : Nat) :
    inUse rooms i = true ↔ ∃ r, Tab.get rooms i = some r ∧ r.state ≠ .closed ∧ r.state ≠ .held := by
  unfold inUse
  cases Tab.get rooms i with
  | none => simp
  | some r => cases hr : r.state <;> simp [roomFixed, hr]

theorem inWindow_iff (now w : Nat) (e : Session) : inWindow now w e = true ↔ now < e.fin ∧ e.start ≤ now + w := by
  simp [inWindow]

theorem zone_iff (rooms : Tab Room) (i : Nat) (mask : Word) : (zoneOf rooms i).any (holdsZone mask) = true
    ↔ ∃ r, Tab.get rooms i = some r ∧ mask.getLsbD r.zone = true := by
  unfold zoneOf holdsZone
  cases Tab.get rooms i <;> simp

/-! ## Sorted candidates -/

theorem pairwise_chainSort (hs : Tab.sorted v.sessions = true) (p : Nat × Session → Bool) :
    (sortBy chainBefore (v.sessions.filter p)).Pairwise chainPrecedes := by
  have hkeys := (Tab.sorted_iff _).1 (Tab.sorted_filter p hs)
  refine (pairwise_sortBy (fun x y z hxy hyz => ?_) (hkeys.imp fun {x y} h => ?_)).imp fun {x y} h => (chainBefore_iff x y).1 h
  · simp only [chainBefore_iff] at *; exact chainPrecedes_trans hxy hyz
  · simpa only [chainBefore_iff] using chainPrecedes_of_ne h.ne

/-- Lobby order (R87). -/
def lobbyPrecedes (x y : Nat × Session) : Prop := x.2.start < y.2.start
  ∨ (x.2.start = y.2.start ∧ (x.2.room < y.2.room ∨ (x.2.room = y.2.room ∧ x.1 < y.1)))

theorem lobbyBefore_iff (x y : Nat × Session) : lobbyBefore x y = true ↔ lobbyPrecedes x y := by
  simp [lobbyBefore, lobbyPrecedes]

theorem pairwise_lobbySort (hs : Tab.sorted v.sessions = true) (p : Nat × Session → Bool) :
    (sortBy lobbyBefore (v.sessions.filter p)).Pairwise lobbyPrecedes := by
  have hkeys := (Tab.sorted_iff _).1 (Tab.sorted_filter p hs)
  refine (pairwise_sortBy (fun x y z hxy hyz => ?_) (hkeys.imp fun {x y} h => ?_)).imp fun {x y} h => (lobbyBefore_iff x y).1 h
  · simp only [lobbyBefore_iff, lobbyPrecedes] at *; omega
  · simp only [lobbyBefore_iff, lobbyPrecedes]; omega

/-! ## The first session of a room in the window (R86) -/

/-- A corridor's session of a room. -/
def corridorOf (v : Selection) (d : SignDef) (i : Nat) : Option (Nat × Session) :=
  if inUse v.rooms i then (chainOf v.sessions i).find? (fun x => inWindow v.now d.lookahead x.2) else none

theorem corridorOf_iff (hs : Tab.sorted v.sessions = true) {i : Nat} : corridorOf v d i = some x
    ↔ x.2.room = i ∧ inUse v.rooms i = true ∧ x ∈ v.sessions ∧ inWindow v.now d.lookahead x.2 = true
      ∧ ∀ y, y ∈ v.sessions → inWindow v.now d.lookahead y.2 = true → y.2.room = i → ¬ chainPrecedes y x := by
  unfold corridorOf
  constructor
  · intro h
    split at h
    next hu =>
      obtain ⟨hp, as, bs, hl, has⟩ := List.find?_eq_some_iff_append.1 h
      have hchain := pairwise_chainOf (i := i) hs
      have hx : x ∈ chainOf v.sessions i := by rw [hl]; simp
      obtain ⟨hmem, hroom⟩ := mem_chainOf.1 hx
      rw [hl, List.pairwise_append, List.pairwise_cons] at hchain
      refine ⟨hroom, hu, hmem, hp, fun y hy hw hyr hyx => ?_⟩
      have hyc : y ∈ chainOf v.sessions i := mem_chainOf.2 ⟨hy, hyr⟩
      rw [hl] at hyc
      rcases List.mem_append.1 hyc with hyc | hyc
      · have := has y hyc
        simp [hw] at this
      · rcases List.mem_cons.1 hyc with rfl | hyc
        · exact chainPrecedes_irrefl y hyx
        · exact chainPrecedes_asymm hyx (hchain.2.1.1 y hyc)
    next => cases h
  · rintro ⟨hroom, hu, hmem, hw, hleast⟩
    rw [if_pos hu]
    exact find?_eq_some_of_least (pairwise_chainOf hs) (mem_chainOf.2 ⟨hmem, hroom⟩) hw fun y hy hyw =>
      hleast y (mem_chainOf.1 hy).1 hyw (mem_chainOf.1 hy).2

theorem filterMap_keys {α : Type} {g : Nat → Option α} {k : α → Nat} (h : ∀ i a, g i = some a → k a = i) (l : List Nat) :
    (l.filterMap g).map k = l.filter fun i => (g i).isSome := by
  induction l with
  | nil => rfl
  | cons i l ih =>
    cases hg : g i with
    | none => rw [List.filterMap_cons_none hg, ih, List.filter_cons_of_neg (by rw [hg]; exact Bool.false_ne_true)]
    | some a => rw [List.filterMap_cons_some hg, List.map_cons, ih, List.filter_cons_of_pos (by rw [hg]; rfl), h i a hg]

/-! ## The faces -/

/-- The sessions a door may show (R85). -/
def doorCandidate (v : Selection) (d : SignDef) (room : Nat) (x : Nat × Session) : Bool :=
  (x.2.room = room || x.2.movedFrom = some room) && inWindow v.now d.lookahead x.2

/-- The sessions a lobby may show (R87). -/
def lobbyCandidate (v : Selection) (d : SignDef) (mask : Word) (x : Nat × Session) : Bool :=
  inWindow v.now d.lookahead x.2 && inUse v.rooms x.2.room && (zoneOf v.rooms x.2.room).any (holdsZone mask)

theorem doorCandidate_iff : doorCandidate v d room x = true
    ↔ (x.2.room = room ∨ x.2.movedFrom = some room) ∧ v.now < x.2.fin ∧ x.2.start ≤ v.now + d.lookahead := by
  unfold doorCandidate
  rw [Bool.and_eq_true, inWindow_iff, Bool.or_eq_true, decide_eq_true_eq, decide_eq_true_eq]

theorem lobbyCandidate_iff : lobbyCandidate v d mask x = true ↔ (v.now < x.2.fin ∧ x.2.start ≤ v.now + d.lookahead)
    ∧ (∃ r, Tab.get v.rooms x.2.room = some r ∧ r.state ≠ .closed ∧ r.state ≠ .held)
    ∧ ∃ r, Tab.get v.rooms x.2.room = some r ∧ mask.getLsbD r.zone = true := by
  unfold lobbyCandidate
  rw [Bool.and_eq_true, Bool.and_eq_true, inWindow_iff, inUse_iff, zone_iff, and_assoc]

theorem composeFace_door (h : d.targets = .door room) : composeFace v d = doorFace v d room := by unfold composeFace; rw [h]

theorem composeFace_corridor (h : d.targets = .corridor rooms) : composeFace v d = corridorFace v d rooms := by
  unfold composeFace; rw [h]

theorem composeFace_lobby (h : d.targets = .lobby mask) : composeFace v d = lobbyFace v d mask := by unfold composeFace; rw [h]

theorem doorFace_some {r : Room} (h : Tab.get v.rooms room = some r) : doorFace v d room =
    { style := v.styles.get r.state
      header := r.name
      lines := if roomFixed r.state then [] else
        ((sortBy chainBefore (v.sessions.filter (doorCandidate v d room))).take d.lines).map (doorLine v room) } := by
  unfold doorFace
  rw [h]
  rfl

theorem corridorFace_eq : corridorFace v d rooms =
    { style := v.styles.opened, header := noText
      lines := (((distinct rooms).filterMap (corridorOf v d)).take d.lines).map (boardLine v) } := rfl

/-- Every line of a face is of a session of the store (R83). -/
theorem mem_lines {l : LineRec} (h : l ∈ (composeFace v d).lines) :
    ∃ x ∈ v.sessions, ∃ note extra, l = lineRec v.now v.origin x.1 x.2 note extra := by
  cases hd : d.targets with
  | door room =>
    rw [composeFace_door hd] at h
    cases hr : Tab.get v.rooms room with
    | none =>
      unfold doorFace at h
      rw [hr] at h
      cases h
    | some r =>
      rw [doorFace_some hr] at h
      dsimp only at h
      split at h
      · cases h
      · obtain ⟨x, hx, rfl⟩ := List.mem_map.1 h
        exact ⟨x, (List.mem_filter.1 (mem_sortBy.1 (List.mem_of_mem_take hx))).1, _, _, rfl⟩
  | corridor rooms =>
    rw [composeFace_corridor hd, corridorFace_eq] at h
    obtain ⟨x, hx, rfl⟩ := List.mem_map.1 h
    obtain ⟨i, -, hi⟩ := List.mem_filterMap.1 (List.mem_of_mem_take hx)
    unfold corridorOf at hi
    split at hi
    · exact ⟨x, (mem_chainOf.1 (List.mem_of_find?_eq_some hi)).1, _, _, rfl⟩
    · cases hi
  | lobby mask =>
    rw [composeFace_lobby hd] at h
    obtain ⟨x, hx, rfl⟩ := List.mem_map.1 h
    exact ⟨x, (List.mem_filter.1 (mem_sortBy.1 (List.mem_of_mem_take hx))).1, _, _, rfl⟩

theorem timeOf_inMinutes {now origin start : Nat} (h : (timeOf now origin start).1 = .inMinutes) :
    now < start ∧ (timeOf now origin start).2.1 = 5 * ((start - now) / 5) := by
  unfold timeOf at h ⊢
  split at h
  · cases h
  next h1 =>
    rw [if_neg h1]
    dsimp only at h ⊢
    split at h
    · cases h
    next h2 =>
      rw [if_neg h2]
      split at h
      next h3 => rw [if_pos h3]; exact ⟨Nat.not_le.1 h1, rfl⟩
      · cases h

/-- Settles O36. -/
theorem facesFollowTheCandidateRules : Obligations.FacesFollowTheCandidateRules := by
  unfold Obligations.FacesFollowTheCandidateRules
  intro v d hs inW open_ absent name own line board f
  have hname : ∀ i, nameOf v.rooms i = name i := fun i => by
    show nameOf v.rooms i = _
    unfold nameOf
    cases h : Tab.get v.rooms i <;> simp only [name, h] <;> rfl
  have hline : ∀ x note extra, lineRec v.now v.origin x.1 x.2 note extra = line x note extra := fun _ _ _ => rfl
  have hboard : ∀ x, boardLine v x = board x := fun x => by
    show lineRec v.now v.origin x.1 x.2 (ownNote x.2) (nameOf v.rooms x.2.room) = line x (own x.2) (name x.2.room)
    rw [hline, hname, ownNote_eq]
  refine ⟨fun room r ht hr => ?_, fun rooms ht => ?_, fun mask ht => ?_, fun l hl htime => ?_⟩
  · have hf : f = _ := (composeFace_door ht).trans (doorFace_some hr)
    rw [hf]
    refine ⟨rfl, rfl, fun hf => if_pos (roomFixed_iff.2 hf), fun h1 h2 =>
      ⟨sortBy chainBefore (v.sessions.filter (doorCandidate v d room)), pairwise_chainSort hs _, fun x => ?_, ?_⟩⟩
    · rw [mem_sortBy, List.mem_filter, doorCandidate_iff]
      exact ⟨fun ⟨h1, h2, h3⟩ => ⟨⟨h1, h3⟩, h2⟩, fun ⟨⟨h1, h3⟩, h2⟩ => ⟨h1, h2, h3⟩⟩
    · dsimp only
      rw [if_neg fun hf => (roomFixed_iff.1 hf).elim h1 h2]
      refine List.map_congr_left fun x _ => ?_
      by_cases hx : x.2.room = room
      · rw [if_pos hx, doorLine_own hx, ownNote_eq]
        exact hline _ _ _
      · rw [if_neg hx, doorLine_away hx, hname]
        rfl
  · have hf : f = _ := (composeFace_corridor ht).trans corridorFace_eq
    rw [hf]
    refine ⟨rfl, rfl, (distinct rooms).filterMap (corridorOf v d), ?_, fun x => ?_, List.map_congr_left fun x _ => hboard x⟩
    · rw [← distinct_eq, filterMap_keys fun i x hx => ((corridorOf_iff hs).1 hx).1]
      exact List.filter_sublist
    · rw [List.mem_filterMap]
      simp only [mem_distinct, corridorOf_iff hs, inWindow_iff, inUse_iff]
      constructor
      · rintro ⟨i, hi, rfl, hu, hm, hw, hleast⟩
        exact ⟨hi, hu, ⟨hm, hw.1, hw.2⟩, fun y hy hyr => hleast y hy.1 ⟨hy.2.1, hy.2.2⟩ hyr⟩
      · rintro ⟨hi, hu, ⟨hm, hw⟩, hleast⟩
        exact ⟨x.2.room, hi, rfl, hu, hm, hw, fun y hy hyw hyr => hleast y ⟨hy, hyw⟩ hyr⟩
  · have hf : f = lobbyFace v d mask := composeFace_lobby ht
    rw [hf]
    refine ⟨rfl, rfl, sortBy lobbyBefore (v.sessions.filter (lobbyCandidate v d mask)), pairwise_lobbySort hs _, fun x => ?_,
      List.map_congr_left fun x _ => hboard x⟩
    rw [mem_sortBy, List.mem_filter, lobbyCandidate_iff]
    exact ⟨fun ⟨h1, h2, h3, h4⟩ => ⟨⟨h1, h2⟩, h3, h4⟩, fun ⟨⟨h1, h2⟩, h3, h4⟩ => ⟨h1, h2, h3, h4⟩⟩
  · obtain ⟨x, hx, note, extra, rfl⟩ := mem_lines hl
    obtain ⟨h1, h2⟩ := timeOf_inMinutes htime
    have ha : (lineRec v.now v.origin x.1 x.2 note extra).a = 5 * ((x.2.start - v.now) / 5) := h2
    rw [ha]
    exact ⟨x.2, hx, h1, by omega, by omega⟩

end Sys2Proof.Machine
end

section
/-! The bytes of a face (R67, R69, R89, R91, R123). -/

namespace Sys2Proof.Machine

variable {taken : Tab (List Byte)} {f : Face} {h : Handle} {l : LineRec}

/-! ## The lines of a face -/

/-- The handles of a face in reading order. -/
def Face.handles (f : Face) : List Handle := f.header :: f.lines.flatMap fun l => [l.title, l.extra]

theorem textLinesOf_eq (f : Face) : textLinesOf f = (f.handles.flatMap linesOf).eraseDups := by
  unfold textLinesOf Face.handles
  rw [distinct_eq, List.flatMap_cons, List.flatMap_assoc]
  simp only [List.flatMap_cons, List.flatMap_nil, List.append_nil]

theorem length_distinct_le (l : List Nat) : (distinct l).length ≤ l.length := by
  induction l with
  | nil => exact Nat.le_refl 0
  | cons a l ih =>
    rw [distinct, List.length_cons, List.length_cons]
    exact Nat.succ_le_succ ((List.length_filter_le _ _).trans ih)

theorem length_linesOf (h : Handle) : (linesOf h).length = (h.len + 31) / 32 := List.length_range'

theorem mem_handles_line (hl : l ∈ f.lines) : l.title ∈ f.handles ∧ l.extra ∈ f.handles :=
  ⟨List.mem_cons_of_mem _ (List.mem_flatMap.2 ⟨l, hl, List.mem_cons_self⟩),
    List.mem_cons_of_mem _ (List.mem_flatMap.2 ⟨l, hl, List.mem_cons_of_mem _ List.mem_cons_self⟩)⟩

theorem length_textLines (hn : f.lines.length ≤ 8) (hlen : ∀ h ∈ f.handles, h.len ≤ 64) : (textLinesOf f).length ≤ 34 := by
  have hlines : ∀ ls : List LineRec, (∀ l ∈ ls, l.title.len ≤ 64 ∧ l.extra.len ≤ 64) →
      (ls.flatMap fun l => linesOf l.title ++ linesOf l.extra).length ≤ 4 * ls.length := by
    intro ls hls
    induction ls with
    | nil => exact Nat.le_refl 0
    | cons l ls ih =>
      have h1 := ih fun k hk => hls k (List.mem_cons_of_mem _ hk)
      obtain ⟨h2, h3⟩ := hls l List.mem_cons_self
      rw [List.flatMap_cons, List.length_append, List.length_append, length_linesOf, length_linesOf, List.length_cons]
      omega
  have h1 := hlines f.lines fun l hl => ⟨hlen _ (mem_handles_line hl).1, hlen _ (mem_handles_line hl).2⟩
  have h2 := hlen f.header List.mem_cons_self
  unfold textLinesOf
  refine (length_distinct_le _).trans ?_
  rw [List.length_append, length_linesOf]
  omega

/-! ## Texts (R67) -/

/-- The lines a handle covers have been taken, 32 bytes each. -/
def Covered (taken : Tab (List Byte)) (h : Handle) : Prop := ∀ i ∈ linesOf h, ∃ b, Tab.get taken i = some b ∧ b.length = 32

theorem length_blocks {g : Nat → List Byte} {L : List Nat} (hg : ∀ i ∈ L, (g i).length = 32) : (L.flatMap g).length = 32 * L.length := by
  induction L with
  | nil => rfl
  | cons i L ih =>
    rw [List.flatMap_cons, List.length_append, ih fun k hk => hg k (List.mem_cons_of_mem _ hk), hg i List.mem_cons_self,
      List.length_cons]
    omega

/-- Byte `j` of a run of lines of 32 bytes. -/
theorem getElem?_blocks {g : Nat → List Byte} {L : List Nat} (hg : ∀ i ∈ L, (g i).length = 32) (j : Nat) :
    (L.flatMap g)[j]? = L[j / 32]?.bind fun i => (g i)[j % 32]? := by
  induction L generalizing j with
  | nil => rfl
  | cons i L ih =>
    have hi := hg i List.mem_cons_self
    rw [List.flatMap_cons]
    by_cases hj : j < 32
    · rw [List.getElem?_append_left (by rw [hi]; exact hj), Nat.div_eq_of_lt hj, Nat.mod_eq_of_lt hj]
      rfl
    · rw [List.getElem?_append_right (by rw [hi]; omega), ih (fun k hk => hg k (List.mem_cons_of_mem _ hk)), hi,
        show j / 32 = (j - 32) / 32 + 1 by omega, show (j - 32) % 32 = j % 32 by omega]
      rfl

theorem covered_blocks (hc : Covered taken h) : ∀ i ∈ linesOf h, ((Tab.get taken i).getD []).length = 32 := fun i hi => by
  obtain ⟨b, hb, hlen⟩ := hc i hi
  rw [hb]
  exact hlen

theorem length_textOf (hc : Covered taken h) : (textOf taken h).length = h.len := by
  unfold textOf
  rw [List.length_take, length_blocks (covered_blocks hc), length_linesOf]
  omega

/-- Byte `j` of a text is byte `j % 32` of its line `j / 32`. -/
theorem textOf_byte (hc : Covered taken h) {j : Nat} (hj : j < h.len) :
    ∃ b, Tab.get taken (h.line + j / 32) = some b ∧ (textOf taken h)[j]? = b[j % 32]? := by
  have hline : (linesOf h)[j / 32]? = some (h.line + j / 32) := by
    unfold linesOf coveredLines
    rw [List.getElem?_range' (by omega)]
    simp
  obtain ⟨b, hb, -⟩ := hc _ (List.mem_of_getElem? hline)
  refine ⟨b, hb, ?_⟩
  unfold textOf
  rw [List.getElem?_take_of_lt hj, getElem?_blocks (covered_blocks hc), hline]
  simp [hb]

/-! ## Bodies (R89) -/

theorem byteOf_toNat {n : Nat} (h : n < 256) : (byteOf n).toNat = n := by
  unfold byteOf
  rw [BitVec.toNat_ofNat]
  exact Nat.mod_eq_of_lt h

theorem loByte_wordOf (n : Nat) : loByte (wordOf n) = byteOf (n % 256) := by
  apply BitVec.eq_of_toNat_eq
  unfold loByte wordOf byteOf
  simp only [BitVec.extractLsb'_toNat, BitVec.toNat_ofNat]
  omega

theorem hiByte_wordOf (n : Nat) : hiByte (wordOf n) = byteOf (n / 256) := by
  apply BitVec.eq_of_toNat_eq
  unfold hiByte wordOf byteOf
  simp only [BitVec.extractLsb'_toNat, BitVec.toNat_ofNat, Nat.shiftRight_eq_div_pow]
  omega

theorem length_lineBytes (ht : Covered taken l.title) (he : Covered taken l.extra) (time a b k : Nat) :
    (lineBytes taken l time a b k).length = 10 + l.title.len + l.extra.len := by
  unfold lineBytes
  simp only [List.length_append, List.length_cons, List.length_nil, length_textOf ht, length_textOf he]
  omega

theorem length_faceBody (hc : ∀ h ∈ f.handles, Covered taken h) :
    (faceBody taken f).length = 3 + f.header.len + (f.lines.map fun l => 10 + l.title.len + l.extra.len).sum := by
  have hlines : (f.lines.flatMap fun l => lineBytes taken l (timeCode l.time) l.a l.b l.k).length
      = (f.lines.map fun l => 10 + l.title.len + l.extra.len).sum := by
    rw [List.length_flatMap, List.map_congr_left fun l hl =>
      length_lineBytes (hc _ (mem_handles_line hl).1) (hc _ (mem_handles_line hl).2) _ _ _ _]
  unfold faceBody headBytes
  rw [List.length_append, hlines]
  simp only [List.length_append, List.length_cons, List.length_nil, length_textOf (hc f.header List.mem_cons_self)]
  omega

theorem sum_lines_le {ls : List LineRec} (h : ∀ l ∈ ls, l.title.len ≤ 64 ∧ l.extra.len ≤ 64) :
    (ls.map fun l => 10 + l.title.len + l.extra.len).sum ≤ 138 * ls.length := by
  induction ls with
  | nil => exact Nat.le_refl 0
  | cons l ls ih =>
    have h1 := ih fun k hk => h k (List.mem_cons_of_mem _ hk)
    have h2 := h l List.mem_cons_self
    rw [List.map_cons, List.sum_cons, List.length_cons]
    omega

/-! ## A sign finds a body well formed (R123) -/

theorem skipText_text {lo : Nat} {text rest : List Byte} (h1 : lo ≤ text.length) (h2 : text.length ≤ 64) :
    skipText lo (byteOf text.length :: (text ++ rest)) = some rest := by
  unfold skipText
  dsimp only
  rw [byteOf_toNat (by omega), if_pos (by simp [h1, h2]), List.drop_left]

theorem skipLines_lines {ls : List LineRec} {fields : LineRec → Nat × Nat × Nat × Nat}
    (h : ∀ l ∈ ls, Covered taken l.title ∧ Covered taken l.extra ∧ 1 ≤ l.title.len ∧ l.title.len ≤ 64 ∧ l.extra.len ≤ 64) :
    skipLines ls.length (ls.flatMap fun l =>
      lineBytes taken l (fields l).1 (fields l).2.1 (fields l).2.2.1 (fields l).2.2.2) = some [] := by
  induction ls with
  | nil => rfl
  | cons l ls ih =>
    have ih := ih fun k hk => h k (List.mem_cons_of_mem _ hk)
    obtain ⟨ht, he, h1, h2, h3⟩ := h l List.mem_cons_self
    rw [List.length_cons, List.flatMap_cons, skipLines]
    generalize (ls.flatMap fun l => lineBytes taken l (fields l).1 (fields l).2.1 (fields l).2.2.1 (fields l).2.2.2) = rest at ih
    rw [if_neg]
    · have hdrop : (lineBytes taken l (fields l).1 (fields l).2.1 (fields l).2.2.1 (fields l).2.2.2 ++ rest).drop 8 =
          byteOf (textOf taken l.title).length :: (textOf taken l.title
            ++ (byteOf (textOf taken l.extra).length :: (textOf taken l.extra ++ rest))) := by
        rw [length_textOf ht, length_textOf he]
        unfold lineBytes
        simp
      rw [hdrop, skipText_text (by rw [length_textOf ht]; exact h1) (by rw [length_textOf ht]; exact h2), Option.bind_some,
        skipText_text (Nat.zero_le _) (by rw [length_textOf he]; exact h3), Option.bind_some]
      exact ih
    · rw [List.length_append, length_lineBytes ht he]
      omega

theorem faceBodyOk_faceBody (hc : ∀ h ∈ f.handles, Covered taken h) (hlen : ∀ h ∈ f.handles, h.len ≤ 64)
    (hn : f.lines.length ≤ 8) (ht : ∀ l ∈ f.lines, 1 ≤ l.title.len) : faceBodyOk (faceBody taken f) = true := by
  have hhead := hc f.header List.mem_cons_self
  have hdrop : (faceBody taken f).drop 1 = byteOf (textOf taken f.header).length :: (textOf taken f.header
      ++ (byteOf f.lines.length :: f.lines.flatMap fun l => lineBytes taken l (timeCode l.time) l.a l.b l.k)) := by
    rw [length_textOf hhead]
    unfold faceBody headBytes
    simp
  have hlines := skipLines_lines (taken := taken) (ls := f.lines) (fields := fun l => (timeCode l.time, l.a, l.b, l.k)) fun l hl =>
    ⟨hc _ (mem_handles_line hl).1, hc _ (mem_handles_line hl).2, ht l hl, hlen _ (mem_handles_line hl).1, hlen _ (mem_handles_line hl).2⟩
  unfold faceBodyOk
  rw [hdrop, skipText_text (Nat.zero_le _) (by rw [length_textOf hhead]; exact hlen _ List.mem_cons_self)]
  dsimp only at hlines ⊢
  rw [byteOf_toNat (by omega), hlines]
  simp [hn]

/-! ## The layout -/

theorem styleCode_eq (s : Style) : styleCode s = inkCode s.ink + bannerPlace s.banner + if s.invert then 16 else 0 := by
  unfold styleCode
  rw [place_bannerCode, place_bitOf, show 2 ^ 4 = 16 from rfl]

theorem byteOf_noteCode (n : Note) :
    byteOf (noteCode n) = (match n with | .none => 0 | .cancelled => 1 | .movedHere => 2 | .movedAway => 3 : Byte) := by
  cases n <;> rfl

theorem byteOf_timeCode (t : TimeKind) :
    byteOf (timeCode t) = (match t with | .now => 0 | .starting => 1 | .inMinutes => 2 | .at => 3 : Byte) := by
  cases t <;> rfl

theorem faceBody_eq : faceBody taken f = [byteOf (styleCode f.style), byteOf f.header.len] ++ textOf taken f.header
    ++ [byteOf f.lines.length] ++ f.lines.flatMap (fun l =>
      [byteOf (l.id % 256), byteOf (l.id / 256), byteOf l.room, byteOf (noteCode l.note), byteOf (timeCode l.time),
        byteOf l.a, byteOf l.b, byteOf l.k, byteOf l.title.len]
        ++ textOf taken l.title ++ [byteOf l.extra.len] ++ textOf taken l.extra) := by
  unfold faceBody headBytes lineBytes
  simp only [loByte_wordOf, hiByte_wordOf]

theorem structTime_eq (t : TimeKind) : structTime t = timeCode (if t = .now then .now else .inMinutes) := by cases t <;> rfl

theorem structBody_eq : structBody taken f = faceBody taken { f with lines := f.lines.map fun l =>
    { l with time := if l.time = .now then .now else .inMinutes, a := 0, b := 0, k := 0 } } := by
  unfold structBody faceBody headBytes
  simp only [List.flatMap_map, List.length_map]
  simp only [structTime_eq]
  rfl

theorem length_faceBody_le (hc : ∀ h ∈ f.handles, Covered taken h) (hlen : ∀ h ∈ f.handles, h.len ≤ 64)
    (hn : f.lines.length ≤ 8) : (faceBody taken f).length ≤ 1171 := by
  have h1 := sum_lines_le fun l (hl : l ∈ f.lines) => ⟨hlen _ (mem_handles_line hl).1, hlen _ (mem_handles_line hl).2⟩
  have h2 := hlen f.header List.mem_cons_self
  rw [length_faceBody hc]
  omega

/-- Settles O37. -/
theorem faceBodyCarriesTheFace : Obligations.FaceBodyCarriesTheFace := by
  intro taken f
  refine ⟨textLinesOf_eq f, length_textLines, fun hall => ?_, structBody_eq⟩
  have hc : ∀ h ∈ f.handles, Covered taken h := fun h hh => (hall h hh).2
  have hlen : ∀ h ∈ f.handles, h.len ≤ 64 := fun h hh => (hall h hh).1
  refine ⟨fun h hh => ⟨length_textOf (hc h hh), fun j hj => textOf_byte (hc h hh) hj⟩, ?_, length_faceBody hc,
    fun hn => ⟨length_faceBody_le hc hlen hn, faceBodyOk_faceBody hc hlen hn⟩⟩
  rw [faceBody_eq, styleCode_eq]
  simp only [byteOf_noteCode, byteOf_timeCode]
  rfl

end Sys2Proof.Machine
end

section
/-! A sign's side of the plate bus: characters, frames as a sign reads them, and its answers (R120 to R136). -/

namespace Sys2Proof.Machine

/-! ## Levels (R120, R121, R136) -/

theorem length_charLevels (b : Byte) : (charLevels b).length = 10 := rfl

theorem charLevels_stop (b : Byte) : (charLevels b)[9]? = some .mark := rfl

theorem charLevels_bit (b : Byte) {i : Nat} (hi : i < 8) : (charLevels b).getD (i + 1) .mark = bitLevel (b.getLsbD i) := by
  unfold charLevels
  rw [List.getD_append _ _ _ _ (by simp; omega), List.getD_append_right _ _ _ _ (by simp)]
  simp [hi]

theorem bitLevel_mark (v : Bool) : decide (bitLevel v = .mark) = v := by cases v <;> rfl

/-- The data bits read so far are the low bits of the byte. -/
theorem foldl_charLevels (b : Byte) {k : Nat} (hk : k ≤ 8) :
    (List.range k).foldl (fun n i => n + place (bitOf ((charLevels b).getD (i + 1) .mark = .mark)) i) 0 = b.toNat % 2 ^ k := by
  induction k with
  | zero => simp [Nat.mod_one]
  | succ k ih =>
    rw [List.range_succ, List.foldl_append, ih (by omega), List.foldl_cons, List.foldl_nil, charLevels_bit b (by omega),
      bitLevel_mark, place_bitOf, Nat.pow_succ, Nat.mod_mul, ← BitVec.testBit_toNat, Nat.testBit_eq_decide_div_mod_eq]
    rcases Nat.mod_two_eq_zero_or_one (b.toNat / 2 ^ k) with h | h <;> simp [h]

theorem readChar_charLevels (b : Byte) : readChar (charLevels b) = (b, false) := by
  unfold readChar
  rw [foldl_charLevels b (Nat.le_refl 8)]
  refine Prod.ext (BitVec.eq_of_toNat_eq ?_) rfl
  have hb := b.isLt
  dsimp only
  rw [Nat.mod_eq_of_lt hb, byteOf_toNat hb]

/-- The stop bit of each character of a frame. -/
theorem levels_stop {bytes : List Byte} {k : Nat} (hk : k < bytes.length) :
    (bytes.flatMap charLevels)[10 * k + 9]? = some .mark := by
  induction bytes generalizing k with
  | nil => exact absurd hk (Nat.not_lt_zero k)
  | cons b bytes ih =>
    rw [List.flatMap_cons]
    cases k with
    | zero => exact charLevels_stop b
    | succ k =>
      rw [List.getElem?_append_right (by rw [length_charLevels]; omega), length_charLevels,
        show 10 * (k + 1) + 9 - 10 = 10 * k + 9 by omega]
      exact ih (Nat.lt_of_succ_lt_succ hk)

theorem levels_mark_within (bytes : List Byte) (i : Nat) (hi : i + 10 ≤ 10 * bytes.length) :
    ∃ j, i ≤ j ∧ j < i + 10 ∧ (bytes.flatMap charLevels)[j]? = some .mark := by
  by_cases h : i % 10 = 0
  · exact ⟨10 * (i / 10) + 9, by omega, by omega, levels_stop (by omega)⟩
  · exact ⟨10 * (i / 10) + 9, by omega, by omega, levels_stop (by omega)⟩

theorem drives_sending {p : Port} (h : p.state = .sending) :
    p.drives = some (List.replicate 25 .space ++ List.replicate 10 .mark ++ p.frame.flatMap charLevels) := by
  unfold Port.drives
  rw [h]
  rfl

theorem drives_not_sending {p : Port} (h : p.state ≠ .sending) :
    p.drives = if p.state = .off ∧ p.cut ≠ [] then some p.cut else none := by
  unfold Port.drives
  cases hp : p.state with
  | off => by_cases hc : p.cut = [] <;> simp [hc]
  | sending => exact absurd hp h
  | _ => rfl

/-! ## Frames as they are read (R121 to R123) -/

/-- A whole frame read without a framing error. -/
def wholeFrame (kind address sequence flags : Byte) (body : List Byte) : ReadFrame :=
  { bytes := frameOf kind address sequence flags body, framing := false }

section
variable (kind address sequence flags : Byte) (body : List Byte)

theorem length_frameOf : (frameOf kind address sequence flags body).length = 10 + body.length := by
  unfold frameOf crcBytes
  simp only [List.length_append, List.length_cons, List.length_nil]
  omega

theorem wholeFrame_kind : (wholeFrame kind address sequence flags body).at 0 = kind := rfl
theorem wholeFrame_address : (wholeFrame kind address sequence flags body).at 1 = address := rfl
theorem wholeFrame_addressInverse : (wholeFrame kind address sequence flags body).at 2 = ~~~address := rfl
theorem wholeFrame_sequence : (wholeFrame kind address sequence flags body).at 3 = sequence := rfl
theorem wholeFrame_sequenceInverse : (wholeFrame kind address sequence flags body).at 4 = ~~~sequence := rfl
theorem wholeFrame_flags : (wholeFrame kind address sequence flags body).at 5 = flags := rfl
theorem wholeFrame_lengthLow : (wholeFrame kind address sequence flags body).at 6 = loByte (wordOf body.length) := rfl
theorem wholeFrame_lengthHigh : (wholeFrame kind address sequence flags body).at 7 = hiByte (wordOf body.length) := rfl

/-- The CRC a frame carries is that of its front (R122). -/
theorem wholeFrame_crc :
    crc ((wholeFrame kind address sequence flags body).bytes.take (8 + body.length))
      = joinBytes ((wholeFrame kind address sequence flags body).at (8 + body.length))
          ((wholeFrame kind address sequence flags body).at (9 + body.length)) := by
  unfold wholeFrame frameOf ReadFrame.at crcBytes
  generalize hfront : [kind, address, ~~~address, sequence, ~~~sequence, flags, loByte (wordOf body.length),
    hiByte (wordOf body.length)] ++ body = front
  have hl : front.length = 8 + body.length := by
    rw [← hfront, List.length_append]
    rfl
  dsimp only
  rw [List.take_append_of_le_length (by omega), List.take_of_length_le (by omega)]
  generalize crc front = c
  rw [List.getD_append_right _ _ _ _ (by omega), List.getD_append_right _ _ _ _ (by omega), hl, Nat.sub_self,
    show 9 + body.length - (8 + body.length) = 1 by omega]
  exact (joinBytes_hi_lo c).symm

variable {body} (hlen : body.length ≤ 1171)
include hlen

theorem wholeFrame_bodyLength : (wholeFrame kind address sequence flags body).bodyLength = body.length := by
  unfold ReadFrame.bodyLength
  rw [wholeFrame_lengthLow, wholeFrame_lengthHigh, loByte_wordOf, hiByte_wordOf, byteOf_toNat (Nat.mod_lt _ (by decide)),
    byteOf_toNat (by omega)]
  omega

theorem wholeFrame_body : (wholeFrame kind address sequence flags body).body = body := by
  unfold ReadFrame.body
  rw [wholeFrame_bodyLength kind address sequence flags hlen]
  exact List.take_left

/-- A whole frame is well formed for a sign when it is addressed to it and its body is one of its kind (R123). -/
theorem accepts_wholeFrame (p : Panel) : p.accepts (wholeFrame kind address sequence flags body)
    = (decide (address = if kind = sweepKind then 0x7F#8 else p.address) && lengthOk (wholeFrame kind address sequence flags body)) := by
  unfold Panel.accepts
  rw [wholeFrame_bodyLength kind address sequence flags hlen, wholeFrame_crc kind address sequence flags body,
    wholeFrame_kind, wholeFrame_address, wholeFrame_addressInverse, wholeFrame_sequence, wholeFrame_sequenceInverse]
  rw [show (wholeFrame kind address sequence flags body).bytes.length = 10 + body.length from length_frameOf ..]
  simp [wholeFrame]

theorem lengthOk_wholeFrame : lengthOk (wholeFrame kind address sequence flags body)
    = if kind = sweepKind then decide (body.length = 2) else if kind = faceKind then faceBodyOk body
      else (kind = queryKind || kind = clearKind) && body.length = 0 := by
  unfold lengthOk
  rw [wholeFrame_bodyLength kind address sequence flags hlen, wholeFrame_body kind address sequence flags hlen, wholeFrame_kind]
  simp [hlen]

end

/-! ## Hearing a frame (R121, R123) -/

theorem hears_reading {p : Panel} {f : ReadFrame} (h : p.reception = .reading f) (b : Byte) :
    (∀ n, (f.add b false).lengthRead = some n → n ≤ 1171 → (f.add b false).bytes.length ≠ 10 + n →
      p.hears b false = { p with reception := .reading (f.add b false) })
    ∧ ((f.add b false).lengthRead = none → p.hears b false = { p with reception := .reading (f.add b false) })
    ∧ ∀ n, (f.add b false).lengthRead = some n → n ≤ 1171 → (f.add b false).bytes.length = 10 + n →
      p.hears b false = p.readWhole (f.add b false) := by
  refine ⟨fun n hn hle hne => ?_, fun hn => ?_, fun n hn hle heq => ?_⟩
  · unfold Panel.hears
    rw [h]
    dsimp only
    rw [hn]
    dsimp only
    rw [if_neg (by omega), if_neg hne]
  · unfold Panel.hears
    rw [h]
    dsimp only
    rw [hn]
  · unfold Panel.hears
    rw [h]
    dsimp only
    rw [hn]
    dsimp only
    rw [if_neg (by omega), if_pos heq]

/-- The length field is read once eight bytes have been. -/
theorem lengthRead_take {bytes : List Byte} {k : Nat} (hk : k ≤ bytes.length) :
    ReadFrame.lengthRead { bytes := bytes.take k, framing := false }
      = if 8 ≤ k then some (ReadFrame.bodyLength { bytes := bytes, framing := false }) else none := by
  unfold ReadFrame.lengthRead
  rw [List.length_take, Nat.min_eq_left hk]
  by_cases h8 : 8 ≤ k
  · rw [if_pos h8, if_pos h8]
    unfold ReadFrame.bodyLength ReadFrame.at
    dsimp only
    simp only [List.getD_eq_getElem?_getD]
    rw [List.getElem?_take_of_lt (by omega), List.getElem?_take_of_lt (by omega)]
  · rw [if_neg h8, if_neg h8]

theorem take_succ_add {bytes : List Byte} {k : Nat} (hk : k < bytes.length) :
    ReadFrame.add { bytes := bytes.take k, framing := false } bytes[k] false = { bytes := bytes.take (k + 1), framing := false } := by
  unfold ReadFrame.add
  rw [List.take_append_getElem hk]
  rfl

section
variable {p : Panel} {bytes : List Byte} {n : Nat} (hlen : bytes.length = 10 + n) (hn : n ≤ 1171)
  (hfield : ReadFrame.bodyLength { bytes := bytes, framing := false } = n)
include hlen hn hfield

/-- Before its last byte a frame is still being read. -/
theorem foldl_hears {k : Nat} (hk : k < bytes.length) : (bytes.take k).foldl (fun q b => q.hears b false) p.broken
    = { p with reception := .reading { bytes := bytes.take k, framing := false } } := by
  induction k with
  | zero => rfl
  | succ k ih =>
    have hk' : k < bytes.length := by omega
    rw [← List.take_append_getElem hk', List.foldl_append, ih hk', List.foldl_cons, List.foldl_nil, List.take_append_getElem hk',
      ← take_succ_add hk']
    have hread := lengthRead_take (bytes := bytes) (k := k + 1) (by omega)
    rw [← take_succ_add hk', hfield] at hread
    obtain ⟨hmore, hhead, -⟩ := hears_reading (p := { p with reception := .reading { bytes := bytes.take k, framing := false } }) rfl bytes[k]
    by_cases h8 : 8 ≤ k + 1
    · refine hmore n (hread.trans (if_pos h8)) hn ?_
      rw [take_succ_add hk', List.length_take]
      omega
    · exact hhead (hread.trans (if_neg h8))

/-- A frame heard to its end is acted on. -/
theorem hearsFrame_eq : p.hearsFrame bytes =
    Panel.readWhole { p with reception := .reading { bytes := bytes.take (9 + n), framing := false } }
      { bytes := bytes, framing := false } := by
  have hk : 9 + n < bytes.length := by omega
  unfold Panel.hearsFrame
  have hall : bytes.take (9 + n) ++ [bytes[9 + n]] = bytes := by
    rw [List.take_append_getElem hk, List.take_of_length_le (by omega)]
  have hread := lengthRead_take (bytes := bytes) (k := 9 + n + 1) (by omega)
  rw [← take_succ_add hk, hfield, if_pos (by omega)] at hread
  obtain ⟨-, -, hwhole⟩ := hears_reading (p := { p with reception := .reading { bytes := bytes.take (9 + n), framing := false } }) rfl bytes[9 + n]
  have hend : ReadFrame.add { bytes := bytes.take (9 + n), framing := false } bytes[9 + n] false = { bytes := bytes, framing := false } := by
    rw [take_succ_add hk, List.take_of_length_le (by omega)]
  conv_lhs => rw [← hall]
  rw [List.foldl_append, foldl_hears hlen hn hfield hk, List.foldl_cons, List.foldl_nil,
    hwhole n hread hn (by rw [hend, hlen]), hend]

end

/-! ## Acting on a whole frame (R123, R125, R134) -/

/-- A sign that has read all of a frame but its last byte. -/
def Panel.atLast (p : Panel) (bytes : List Byte) (n : Nat) : Panel :=
  { p with reception := .reading { bytes := bytes.take (9 + n), framing := false } }

theorem hearsFrame_frameOf (p : Panel) (kind address sequence flags : Byte) {body : List Byte} (hlen : body.length ≤ 1171) :
    p.hearsFrame (frameOf kind address sequence flags body)
      = (p.atLast (frameOf kind address sequence flags body) body.length).readWhole (wholeFrame kind address sequence flags body) :=
  hearsFrame_eq (length_frameOf ..) hlen (wholeFrame_bodyLength kind address sequence flags hlen)

theorem readWhole_answer {q p' : Panel} {f : ReadFrame} {r : Reply} (h : q.onFrame f = (p', some r)) :
    q.readWhole f = { p' with reception := .replying r } := by
  unfold Panel.readWhole
  rw [h]

theorem readWhole_silent {q : Panel} {f : ReadFrame} (h : q.onFrame f = (q, none)) :
    q.readWhole f = { q with reception := if q.answersSlot f then .counting else .waiting } := by
  unfold Panel.readWhole
  rw [h]

section
variable {q : Panel} {f : ReadFrame}

theorem onFrame_refused (h : q.accepts f = false) : q.onFrame f = (q, none) := by
  unfold Panel.onFrame
  rw [h]
  rfl

theorem onFrame_query (h : q.accepts f = true) (hk : f.at 0 = queryKind) :
    q.onFrame f = (q, some (q.replyOf statusKind q.last)) := by
  unfold Panel.onFrame
  rw [h, hk]
  rfl

theorem onFrame_clear (h : q.accepts f = true) (hk : f.at 0 = clearKind) :
    q.onFrame f = (q.cleared (f.at 5), some ((q.cleared (f.at 5)).replyOf statusKind q.last)) := by
  unfold Panel.onFrame
  rw [h, hk]
  rfl

theorem onFrame_face (h : q.accepts f = true) (hk : f.at 0 = faceKind) :
    q.onFrame f = ((q.onFace (f.at 3) ((f.at 5).getLsbD 0) f.body).1, some (q.onFace (f.at 3) ((f.at 5).getLsbD 0) f.body).2) := by
  unfold Panel.onFrame
  rw [h, hk]
  rfl

theorem onFrame_sweep (h : q.accepts f = true) (hk : f.at 0 = sweepKind) : q.onFrame f = (q, none) := by
  unfold Panel.onFrame
  rw [h, hk]
  rfl

end

/-! ## Replies as the part judges them (R127, R128) -/

theorem signFlagsOf_signFlagsCode (f : SignFlags) : signFlagsOf (signFlagsCode f) = f := by
  obtain ⟨btn, pwr, lowb, jam⟩ := f
  cases btn <;> cases pwr <;> cases lowb <;> cases jam <;> rfl

theorem signFlagsCode_lt (f : SignFlags) : signFlagsCode f < 16 := by
  rw [signFlagsCode_eq]
  split <;> split <;> split <;> split <;> decide

section
variable {p : Panel} {address : Nat} (kind sequence : Byte)

theorem replyFlags_replyOf : replyFlags (p.replyOf kind sequence) = p.flags := by
  have h := signFlagsCode_lt p.flags
  unfold replyFlags Panel.replyOf
  dsimp only
  rw [byteOf_toNat (by omega), Nat.mod_eq_of_lt h, signFlagsOf_signFlagsCode]

theorem replyIntact_replyOf (h : p.address = byteOf address) : replyIntact address (p.replyOf kind sequence) = true := by
  unfold replyIntact replyFront Panel.replyOf
  dsimp only
  rw [joinBytes_hi_lo]
  simp [h]

variable {kind sequence} {r : Reply}

theorem judgeReply_status (hr : r = p.replyOf statusKind sequence) (h : p.address = byteOf address) (slot : Nat) :
    judgeReply (.query slot address) r = .status p.flags sequence
    ∧ ∀ mask, judgeReply (.clear slot address mask) r = .status p.flags sequence := by
  have hi := replyIntact_replyOf statusKind sequence h
  have hf := replyFlags_replyOf (p := p) statusKind sequence
  rw [← hr] at hi hf
  have hk : r.kind = statusKind := by rw [hr]; rfl
  have hs : r.sequence = sequence := by rw [hr]; rfl
  unfold judgeReply
  simp [hi, hf, hk, hs]

theorem judgeReply_accept (hr : r = p.replyOf acceptKind sequence) (h : p.address = byteOf address) (slot : Nat) (rank : Rank)
    (record : FaceRecord) (body : List Byte) : judgeReply (.face slot address sequence rank record body) r = .accept p.flags := by
  have hi := replyIntact_replyOf acceptKind sequence h
  have hf := replyFlags_replyOf (p := p) acceptKind sequence
  rw [← hr] at hi hf
  have hk : r.kind = acceptKind := by rw [hr]; rfl
  have hs : r.sequence = sequence := by rw [hr]; rfl
  unfold judgeReply
  simp [hi, hf, hk, hs]

theorem judgeReply_busy (hr : r = p.replyOf busyKind sequence) (h : p.address = byteOf address) (slot : Nat) (rank : Rank)
    (record : FaceRecord) (body : List Byte) : judgeReply (.face slot address sequence rank record body) r = .busy p.flags := by
  have hi := replyIntact_replyOf busyKind sequence h
  have hf := replyFlags_replyOf (p := p) busyKind sequence
  rw [← hr] at hi hf
  have hk : r.kind = busyKind := by rw [hr]; rfl
  have hs : r.sequence = sequence := by rw [hr]; rfl
  have hne : (busyKind = acceptKind) = False := by simp [busyKind, acceptKind]
  unfold judgeReply
  simp [hi, hf, hk, hs, hne]

end

/-! ## The frames a port sends -/

theorem clearFlags_places (m : ClearMask) : (clearFlags m).getLsbD 0 = m.btn ∧ (clearFlags m).getLsbD 3 = m.jam := by
  obtain ⟨btn, jam⟩ := m
  cases btn <;> cases jam <;> exact ⟨rfl, rfl⟩

theorem byteOf_bitOf_low (b : Bool) : (byteOf (bitOf b)).getLsbD 0 = b := by cases b <;> rfl

theorem byteOf_ne {a b : Nat} (ha : a < 128) (hb : b < 128) (h : a ≠ b) : byteOf a ≠ byteOf b := fun he => h (by
  rw [← byteOf_toNat (n := a) (by omega), he, byteOf_toNat (by omega)])

section
variable {p : Panel} {address : Nat} (haddr : p.address = byteOf address)
include haddr

theorem hears_query (slot : Nat) : p.hearsFrame (exchangeFrame (.query slot address))
    = { p with reception := .replying (p.replyOf statusKind p.last) } := by
  refine ((hearsFrame_frameOf p queryKind (byteOf address) 0 0 (body := []) (by decide)).trans
    (readWhole_answer (onFrame_query ?_ rfl))).trans rfl
  rw [accepts_wholeFrame _ _ _ _ (by decide), lengthOk_wholeFrame _ _ _ _ (by decide)]
  simp [Panel.atLast, queryKind, sweepKind, faceKind, haddr]

theorem hears_clear (slot : Nat) (mask : ClearMask) : p.hearsFrame (exchangeFrame (.clear slot address mask))
    = { p.cleared (clearFlags mask) with reception := .replying ((p.cleared (clearFlags mask)).replyOf statusKind p.last) } := by
  refine ((hearsFrame_frameOf p clearKind (byteOf address) 0 (clearFlags mask) (body := []) (by decide)).trans
    (readWhole_answer (onFrame_clear ?_ rfl))).trans rfl
  rw [accepts_wholeFrame _ _ _ _ (by decide), lengthOk_wholeFrame _ _ _ _ (by decide)]
  simp [Panel.atLast, clearKind, queryKind, sweepKind, faceKind, haddr]

theorem hears_face (slot : Nat) (sequence : Byte) (rank : Rank) (record : FaceRecord) {body : List Byte}
    (hlen : body.length ≤ 1171) (hok : faceBodyOk body = true) :
    ∃ q : Panel, (∃ r, q = { p with reception := r }) ∧ p.hearsFrame (exchangeFrame (.face slot address sequence rank record body))
      = { (q.onFace sequence record.resync body).1 with reception := .replying (q.onFace sequence record.resync body).2 } := by
  let flags := byteOf (bitOf record.resync)
  let q := p.atLast (frameOf faceKind (byteOf address) sequence flags body) body.length
  have hacc : q.accepts (wholeFrame faceKind (byteOf address) sequence flags body) = true := by
    rw [accepts_wholeFrame _ _ _ _ hlen, lengthOk_wholeFrame _ _ _ _ hlen, hok]
    simp [q, Panel.atLast, sweepKind, faceKind, haddr]
  refine ⟨q, ⟨_, rfl⟩, (hearsFrame_frameOf p faceKind (byteOf address) sequence flags hlen).trans
    (readWhole_answer ((onFrame_face hacc rfl).trans ?_))⟩
  rw [wholeFrame_sequence, wholeFrame_flags, wholeFrame_body _ _ _ _ hlen, byteOf_bitOf_low]

end

/-- A frame for another sign is read and let go (R123). -/
theorem hears_other {p : Panel} {kind a sequence flags : Byte} {body : List Byte} (hkind : kind ≠ sweepKind)
    (ha : a ≠ p.address) (hlen : body.length ≤ 1171) :
    p.hearsFrame (frameOf kind a sequence flags body) = { p with reception := .waiting } := by
  have hacc : (p.atLast (frameOf kind a sequence flags body) body.length).accepts (wholeFrame kind a sequence flags body) = false := by
    rw [accepts_wholeFrame _ _ _ _ hlen, if_neg hkind, decide_eq_false (by exact ha), Bool.false_and]
  rw [hearsFrame_frameOf p kind a sequence flags hlen, readWhole_silent (onFrame_refused hacc)]
  unfold Panel.answersSlot
  rw [hacc]
  rfl

/-! ## Sweeps (R130, R131) -/

/-- The four places of a sweep's mask and polarity beside the sign's flags (R131). -/
def sweepPlaces (mask polarity flags : SignFlags) : List (Bool × Bool × Bool) :=
  [(mask.btn, polarity.btn, flags.btn), (mask.pwr, polarity.pwr, flags.pwr), (mask.lowb, polarity.lowb, flags.lowb),
    (mask.jam, polarity.jam, flags.jam)]

/-- Flag `i`, BTN first. -/
def SignFlags.at (f : SignFlags) : Nat → Bool
  | 0 => f.btn | 1 => f.pwr | 2 => f.lowb | _ => f.jam

theorem signFlagsCode_at (f : SignFlags) {i : Nat} (hi : i < 4) : signFlagsCode f / 2 ^ i % 2 = bitOf (f.at i) := by
  obtain ⟨btn, pwr, lowb, jam⟩ := f
  match i, hi with
  | 0, _ | 1, _ | 2, _ | 3, _ => cases btn <;> cases pwr <;> cases lowb <;> cases jam <;> rfl

theorem bitOf_inj {a b : Bool} : bitOf a = bitOf b ↔ a = b := by cases a <;> cases b <;> decide

theorem bitOf_one {a : Bool} : bitOf a = 1 ↔ a = true := by cases a <;> decide

theorem qualifies_iff (p : Panel) (all : Bool) (mask polarity : SignFlags) :
    p.qualifies all (signFlagsCode mask) (signFlagsCode polarity) = true ↔ p.flags.pwr = true
      ∨ if all then ∀ z ∈ sweepPlaces mask polarity p.flags, z.1 = true → z.2.1 = z.2.2
        else ∃ z ∈ sweepPlaces mask polarity p.flags, z.1 = true ∧ z.2.1 = z.2.2 := by
  have hplaces : sweepPlaces mask polarity p.flags = [0, 1, 2, 3].map fun i => (mask.at i, polarity.at i, p.flags.at i) := rfl
  have hsel : ∀ i ∈ [0, 1, 2, 3], (signFlagsCode mask / 2 ^ i % 2 = 1 ↔ mask.at i = true)
      ∧ (flagMatches (signFlagsCode polarity) (signFlagsCode p.flags) i = true ↔ polarity.at i = p.flags.at i) := by
    intro i hi
    have hi4 : i < 4 := by
      simp only [List.mem_cons, List.not_mem_nil, or_false] at hi
      omega
    unfold flagMatches
    rw [signFlagsCode_at mask hi4, signFlagsCode_at polarity hi4, signFlagsCode_at p.flags hi4, bitOf_one, decide_eq_true_iff,
      bitOf_inj]
    exact ⟨Iff.rfl, Iff.rfl⟩
  unfold Panel.qualifies
  rw [Bool.or_eq_true, hplaces]
  refine or_congr_right ?_
  cases all with
  | true =>
    simp only [if_pos, List.all_eq_true, List.mem_filter, decide_eq_true_eq, List.forall_mem_map]
    exact ⟨fun h i hi hm => (hsel i hi).2.1 (h i ⟨hi, (hsel i hi).1.2 hm⟩),
      fun h i hi => (hsel i hi.1).2.2 (h i hi.1 ((hsel i hi.1).1.1 hi.2))⟩
  | false =>
    simp only [Bool.false_eq_true, if_false, List.any_eq_true, List.mem_filter, decide_eq_true_eq]
    refine ⟨fun ⟨i, ⟨hi, hm⟩, he⟩ => ⟨_, List.mem_map_of_mem hi, (hsel i hi).1.1 hm, (hsel i hi).2.1 he⟩, ?_⟩
    rintro ⟨z, hz, hm, he⟩
    obtain ⟨i, hi, rfl⟩ := List.mem_map.1 hz
    exact ⟨i, ⟨hi, (hsel i hi).1.2 hm⟩, (hsel i hi).2.2 he⟩

theorem hears_sweep (p : Panel) (presence : Bool) (mask polarity : SignFlags) (all : Bool) :
    p.hearsFrame (exchangeFrame (.sweep presence mask polarity all))
      = { p with reception := if p.qualifies all (signFlagsCode mask) (signFlagsCode polarity) then .counting else .waiting } := by
  have hm := signFlagsCode_lt mask
  have hpol := signFlagsCode_lt polarity
  let body := [byteOf (signFlagsCode mask), byteOf (signFlagsCode polarity)]
  have hlen : body.length ≤ 1171 := show 2 ≤ 1171 by decide
  let q := p.atLast (frameOf sweepKind 0x7F#8 0 (byteOf (bitOf all)) body) body.length
  have hacc : q.accepts (wholeFrame sweepKind 0x7F#8 0 (byteOf (bitOf all)) body) = true := by
    rw [accepts_wholeFrame _ _ _ _ hlen, lengthOk_wholeFrame _ _ _ _ hlen]
    simp [body]
  have hslot : q.answersSlot (wholeFrame sweepKind 0x7F#8 0 (byteOf (bitOf all)) body)
      = q.qualifies all (signFlagsCode mask) (signFlagsCode polarity) := by
    unfold Panel.answersSlot
    rw [hacc, wholeFrame_kind, wholeFrame_flags, wholeFrame_body _ _ _ _ hlen, byteOf_bitOf_low, decide_eq_true rfl,
      Bool.true_and, Bool.true_and, show (body.getD 0 0).toNat = signFlagsCode mask from byteOf_toNat (by omega),
      show (body.getD 1 0).toNat = signFlagsCode polarity from byteOf_toNat (by omega)]
  refine (hearsFrame_frameOf p sweepKind 0x7F#8 0 (byteOf (bitOf all)) hlen).trans ((readWhole_silent (onFrame_sweep hacc rfl)).trans ?_)
  rw [hslot]
  rfl

theorem getLsbD_slotMap (line : Nat → Level) {i : Nat} (hi : i < 128) :
    (slotMap line).getLsbD i = decide (line (slotSample i) = .space) := by
  have hfold : ∀ n, ((List.range n).foldl (fun m i => if line (slotSample i) = .space then m ||| (1#128 <<< i) else m) 0).getLsbD i
      = (decide (i < n) && decide (line (slotSample i) = .space)) := by
    intro n
    induction n with
    | zero => simp
    | succ n ih =>
      rw [List.range_succ, List.foldl_append, List.foldl_cons, List.foldl_nil]
      generalize (List.range n).foldl (fun m i => if line (slotSample i) = .space then m ||| (1#128 <<< i) else m) 0 = m at ih
      by_cases hin : i = n
      · subst hin
        split
        · next hl => simp [hl, hi]
        · next hl => rw [ih]; simp [hl]
      · have hlt : decide (i < n + 1) = decide (i < n) := decide_eq_decide.2 (by omega)
        rw [hlt, ← ih]
        split
        · have hbit : (1#128 <<< n).getLsbD i = false := by simp; omega
          rw [BitVec.getLsbD_or, hbit, Bool.or_false]
        · rfl
  unfold slotMap
  rw [hfold 128, decide_eq_true hi, Bool.true_and]

theorem slotLevel_space {p : Panel} {address : Nat} (ha : address < 128) (haddr : p.address = byteOf address) {i : Nat} :
    p.slotLevel (slotSample i) = .space ↔ i = address ∧ p.reception = .counting := by
  have hstart : p.address.toNat = address := by rw [haddr, byteOf_toNat (by omega)]
  unfold Panel.slotLevel slotSample slotStart
  rw [hstart]
  by_cases hc : p.reception = .counting
  · simp [hc]
    omega
  · simp [hc]

/-- Settles O51. -/
theorem signsAnswerTheFramesSent : Obligations.SignsAnswerTheFramesSent := by
  refine ⟨readChar_charLevels, levels_mark_within, fun p => ⟨drives_sending, drives_not_sending⟩, ?_⟩
  intro p address x ha haddr
  refine ⟨?_, ?_, ?_, ?_, ?_⟩
  · rintro slot rfl
    rw [hears_query haddr slot]
    exact ⟨_, rfl, (judgeReply_status rfl haddr slot).1⟩
  · rintro slot mask rfl
    dsimp only
    rw [hears_clear haddr slot mask]
    have hflags : (p.cleared (clearFlags mask)).flags
        = { p.flags with btn := p.flags.btn && !mask.btn, jam := p.flags.jam && !mask.jam } := by
      unfold Panel.cleared
      rw [(clearFlags_places mask).1, (clearFlags_places mask).2]
    rw [← hflags]
    exact ⟨_, rfl, (judgeReply_status (p := p.cleared (clearFlags mask)) rfl haddr slot).2 mask⟩
  · rintro slot sequence rank record body rfl hlen hok
    dsimp only
    obtain ⟨q, ⟨r, rfl⟩, hq⟩ := hears_face haddr slot sequence rank record hlen hok
    rw [hq]
    refine ⟨fun hr => ?_, fun hr hres hseq => ?_, fun hr hany => ?_⟩
    · unfold Panel.onFace
      rw [if_pos hr]
      exact ⟨_, rfl, judgeReply_busy rfl haddr slot rank record body⟩
    · unfold Panel.onFace
      rw [if_neg (by simp [hr]), if_pos (by simp [hres, hseq])]
      exact ⟨_, rfl, judgeReply_accept rfl haddr slot rank record body⟩
    · unfold Panel.onFace
      rw [if_neg (by simp [hr]), if_neg (by rcases hany with h | h <;> simp [h])]
      exact ⟨_, rfl, judgeReply_accept (p := p.refreshed sequence body) rfl haddr slot rank record body⟩
  · rintro slot other mask sequence rank record body ho hne hlen hx
    have hother : byteOf other ≠ p.address := haddr ▸ byteOf_ne ho ha hne
    rcases hx with rfl | rfl | rfl
    · exact hears_other (by decide) hother (by decide)
    · exact hears_other (by decide) hother (by decide)
    · exact hears_other (by decide) hother hlen
  · rintro presence mask polarity all rfl
    have hq := qualifies_iff p all mask polarity
    dsimp only
    rw [hears_sweep]
    have hcount : ({ p with reception := if p.qualifies all (signFlagsCode mask) (signFlagsCode polarity) then .counting else .waiting } :
        Panel).reception = .counting ↔ p.qualifies all (signFlagsCode mask) (signFlagsCode polarity) = true := by
      dsimp only
      split <;> simp_all
    refine ⟨hcount.trans hq, fun i hi => ?_⟩
    rw [getLsbD_slotMap _ hi, decide_eq_true_iff, slotLevel_space ha (by exact haddr)]
    exact and_congr_right fun _ => hcount.trans hq

end Sys2Proof.Machine
end

section
/-! Records on their way and in the queue, place by place: what one operation does to the record of one place (R169, R170,
R172, R178). -/

namespace Sys2Proof.Machine

variable {s t u v : State} {r q : Rec} {it : Item} {f : BitVec 13}

/-! ## Places -/

/-- The records that show values as they stand; a room's lies in the room area. -/
def Rec.live : Rec → Prop
  | .echo _ => True
  | .enableEcho => True
  | .guardAddress => True
  | .room i => i < 256
  | .health _ => True
  | _ => False

/-- A record's place lies clear of the places of other records: a room's in the room area, a ring entry's in the ring. -/
def Rec.placed : Rec → Prop
  | .room i => i < 256
  | .ringEntry p _ _ _ _ => p < 32
  | .ringCount p _ => p < 32
  | _ => True

/-- A byte offset in a record's place. -/
def Rec.covers (s : State) (r : Rec) (o : Nat) : Prop := (recordLayout s r).1 ≤ o ∧ o < (recordLayout s r).1 + 2 * recordSize r

theorem Rec.live.placed (h : r.live) : r.placed := by
  cases r with
  | room i => exact h
  | ringEntry _ _ _ _ _ => exact h.elim
  | ringCount _ _ => exact h.elim
  | _ => trivial

theorem inRange_placed (h : r.inRange = true) : r.placed := by
  cases r with
  | room i => exact of_decide_eq_true (p := i < 256) h
  | ringEntry p _ _ _ _ => exact of_decide_eq_true (p := p < 32) h
  | ringCount p _ => exact of_decide_eq_true (p := p < 32) h
  | _ => trivial

/-- The place of a record does not depend on the state. -/
theorem layout_place (s t : State) (r : Rec) : (recordLayout s r).1 = (recordLayout t r).1 := by cases r <;> rfl

theorem layout_stamped (s t : State) (r : Rec) : (recordLayout s r).2.2 = (recordLayout t r).2.2 := by cases r <;> rfl

/-- Two records lie apart. -/
def Rec.apart (s : State) (r q : Rec) : Prop :=
  (recordLayout s r).1 + 2 * recordSize r ≤ (recordLayout s q).1 ∨ (recordLayout s q).1 + 2 * recordSize q ≤ (recordLayout s r).1

theorem echo_apart {sec : Section} (hq : q.placed) (hne : q ≠ .echo sec) : Rec.apart s (.echo sec) q := by
  unfold Rec.apart
  cases q with
  | echo sec' =>
    have hs : sec' ≠ sec := fun h => hne (by rw [h])
    cases sec <;> cases sec' <;> first | exact absurd rfl hs | simp [recordLayout, recordSize, Section.offset]
  | room i => cases sec <;> (simp only [recordLayout, recordSize, roomOffset, Section.offset]; omega)
  | health i => cases sec <;> (simp only [recordLayout, recordSize, healthOffset, Section.offset]; omega)
  | laneResult n _ _ => cases sec <;> (simp only [recordLayout, recordSize, laneResultOffset, Section.offset]; omega)
  | ringEntry p _ _ _ _ => cases sec <;> (simp only [recordLayout, recordSize, ringEntryOffset, Section.offset]; omega)
  | ringCount p _ => cases sec <;> (simp only [recordLayout, recordSize, ringEntryOffset, Section.offset]; omega)
  | _ =>
    cases sec <;> simp [recordLayout, recordSize, Section.offset, flagsOffset, enableEchoOffset, guardOffset, ringWriteOffset,
      readCountOffset]

/-- A record that is no health record ends below the health area. -/
theorem placed_below (s : State) (hq : q.placed) (hh : ∀ i, q ≠ .health i) : (recordLayout s q).1 + 2 * recordSize q ≤ 0x1800 := by
  cases q with
  | health i => exact absurd rfl (hh i)
  | echo sec => cases sec <;> simp [recordLayout, recordSize, Section.offset]
  | room i =>
    have hi : i < 256 := hq
    simp only [recordLayout, recordSize, roomOffset]
    omega
  | laneResult n _ _ => simp only [recordLayout, recordSize, laneResultOffset]; omega
  | ringEntry p _ _ _ _ =>
    have hp : p < 32 := hq
    simp only [recordLayout, recordSize, ringEntryOffset]
    omega
  | ringCount p _ =>
    have hp : p < 32 := hq
    simp only [recordLayout, recordSize, ringEntryOffset]
    omega
  | _ => simp [recordLayout, recordSize, flagsOffset, enableEchoOffset, guardOffset, ringWriteOffset, readCountOffset]

theorem health_apart {i : Nat} (hq : q.placed) (hne : q ≠ .health i) : Rec.apart s (.health i) q := by
  by_cases hh : ∀ j, q ≠ .health j
  · have h := placed_below s hq hh
    refine .inr (h.trans ?_)
    simp only [recordLayout, healthOffset]
    omega
  · obtain ⟨j, rfl⟩ : ∃ j, q = .health j := by simpa using hh
    have hj : j ≠ i := fun h => hne (by rw [h])
    unfold Rec.apart
    simp only [recordLayout, recordSize, healthOffset]
    omega

/-- A record that is neither a room's nor a health record ends below the room area. -/
theorem placed_below_rooms (s : State) (hq : q.placed) (hr : ∀ i, q ≠ .room i) (hh : ∀ i, q ≠ .health i) :
    (recordLayout s q).1 + 2 * recordSize q ≤ 0x800 := by
  cases q with
  | health i => exact absurd rfl (hh i)
  | room i => exact absurd rfl (hr i)
  | echo sec => cases sec <;> simp [recordLayout, recordSize, Section.offset]
  | laneResult n _ _ => simp only [recordLayout, recordSize, laneResultOffset]; omega
  | ringEntry p _ _ _ _ =>
    have hp : p < 32 := hq
    simp only [recordLayout, recordSize, ringEntryOffset]
    omega
  | ringCount p _ =>
    have hp : p < 32 := hq
    simp only [recordLayout, recordSize, ringEntryOffset]
    omega
  | _ => simp [recordLayout, recordSize, flagsOffset, enableEchoOffset, guardOffset, ringWriteOffset, readCountOffset]

theorem Rec.apart.symm (h : Rec.apart s r q) : Rec.apart s q r := Or.symm h

theorem room_apart {i : Nat} (hi : i < 256) (hq : q.placed) (hne : q ≠ .room i) : Rec.apart s (.room i) q := by
  by_cases hh : ∀ j, q ≠ .health j
  · by_cases hr : ∀ j, q ≠ .room j
    · have h := placed_below_rooms s hq hr hh
      refine .inr (h.trans ?_)
      simp only [recordLayout, roomOffset]
      omega
    · obtain ⟨j, rfl⟩ : ∃ j, q = .room j := by simpa using hr
      have hj : j ≠ i := fun h => hne (by rw [h])
      unfold Rec.apart
      simp only [recordLayout, recordSize, roomOffset]
      omega
  · obtain ⟨j, rfl⟩ : ∃ j, q = .health j := by simpa using hh
    exact (health_apart (q := .room i) hi (fun h => hne h.symm)).symm

theorem enableEcho_apart (hq : q.placed) (hne : q ≠ .enableEcho) : Rec.apart s .enableEcho q := by
  unfold Rec.apart
  cases q with
  | enableEcho => exact absurd rfl hne
  | echo sec => cases sec <;> simp [recordLayout, recordSize, Section.offset, enableEchoOffset]
  | room i => simp only [recordLayout, recordSize, roomOffset, enableEchoOffset]; omega
  | health i => simp only [recordLayout, recordSize, healthOffset, enableEchoOffset]; omega
  | laneResult n _ _ => simp only [recordLayout, recordSize, laneResultOffset, enableEchoOffset]; omega
  | ringEntry p _ _ _ _ => simp only [recordLayout, recordSize, ringEntryOffset, enableEchoOffset]; omega
  | ringCount p _ => simp only [recordLayout, recordSize, ringEntryOffset, enableEchoOffset]; omega
  | _ => simp [recordLayout, recordSize, flagsOffset, enableEchoOffset, guardOffset, ringWriteOffset, readCountOffset]

theorem guardAddress_apart (hq : q.placed) (hne : q ≠ .guardAddress) : Rec.apart s .guardAddress q := by
  unfold Rec.apart
  cases q with
  | guardAddress => exact absurd rfl hne
  | echo sec => cases sec <;> simp [recordLayout, recordSize, Section.offset, guardOffset]
  | room i => simp only [recordLayout, recordSize, roomOffset, guardOffset]; omega
  | health i => simp only [recordLayout, recordSize, healthOffset, guardOffset]; omega
  | laneResult n _ _ => simp only [recordLayout, recordSize, laneResultOffset, guardOffset]; omega
  | ringEntry p _ _ _ _ => simp only [recordLayout, recordSize, ringEntryOffset, guardOffset]; omega
  | ringCount p _ => simp only [recordLayout, recordSize, ringEntryOffset, guardOffset]; omega
  | _ => simp [recordLayout, recordSize, flagsOffset, enableEchoOffset, guardOffset, ringWriteOffset, readCountOffset]

/-- A record that shows values as they stand lies apart from every other (section 12.5). -/
theorem live_apart (hr : r.live) (hq : q.placed) (hne : q ≠ r) : Rec.apart s r q := by
  cases r with
  | echo sec => exact echo_apart hq hne
  | enableEcho => exact enableEcho_apart hq hne
  | guardAddress => exact guardAddress_apart hq hne
  | room i => exact room_apart hr hq hne
  | health i => exact health_apart hq hne
  | _ => exact hr.elim

/-! ## The values queued for a word (R172) -/

theorem queuedValue_append {o : Nat} {es : List PostEntry} (hq : t.path.postQueue = s.path.postQueue ++ es)
    (h : ∀ e ∈ es, e.offset ≠ o) : t.queuedValue o = s.queuedValue o := by
  have hf : (es.reverse.find? fun x => decide (x.offset = o)) = none := by
    rw [List.find?_eq_none]
    intro x hx
    simpa using h x (List.mem_reverse.1 hx)
  unfold State.queuedValue
  rw [hq, List.reverse_append, List.find?_append, hf, Option.none_or]

theorem entriesFrom_split {ws : List Word} {k : Nat} {w : Word} (hk : ws[k]? = some w) (o : Nat) :
    ∃ pre post, entriesFrom o ws = pre ++ { offset := o + 2 * k, value := w } :: post ∧ ∀ e ∈ post, e.offset ≠ o + 2 * k := by
  induction ws generalizing o k with
  | nil => cases hk
  | cons a ws ih =>
    cases k with
    | zero =>
      cases hk
      refine ⟨[], entriesFrom (o + 2) ws, rfl, fun e he => ?_⟩
      have := (mem_entriesFrom he).1
      omega
    | succ k =>
      obtain ⟨pre, post, h1, h2⟩ := ih hk (o + 2)
      rw [show o + 2 + 2 * k = o + 2 * (k + 1) by omega] at h1 h2
      exact ⟨{ offset := o, value := a } :: pre, post, by rw [entriesFrom, h1]; rfl, h2⟩

theorem queuedValue_entries {o k : Nat} {ws : List Word} (hq : t.path.postQueue = s.path.postQueue ++ entriesFrom o ws)
    (hk : k < ws.length) : t.queuedValue (o + 2 * k) = ws[k]? := by
  obtain ⟨pre, post, h1, h2⟩ := entriesFrom_split (List.getElem?_eq_getElem hk) o
  rw [List.getElem?_eq_getElem hk]
  exact queuedValue_newest (by rw [hq, h1, ← List.append_assoc]) rfl h2

/-! ## Records on their way -/

/-- How many postings of a record are on their way to the queue. -/
def State.onTheWay (s : State) (r : Rec) : Nat := ((s.post.waiting ++ s.post.backlog).filter fun it => it.record = r).length

theorem onTheWay_eq (s : State) (r : Rec) : s.onTheWay r = (s.post.waiting.filter fun it => it.record = r).length
    + (s.post.backlog.filter fun it => it.record = r).length := by
  unfold State.onTheWay
  rw [List.filter_append, List.length_append]

theorem onTheWay_pos (s : State) (r : Rec) : 0 < s.onTheWay r ↔ ∃ it ∈ s.post.waiting ++ s.post.backlog, it.record = r := by
  unfold State.onTheWay
  rw [List.length_pos_iff_exists_mem]
  simp only [List.mem_filter, decide_eq_true_eq]

theorem handed_iff (s : State) (r : Rec) : s.handed r = true ↔ 0 < s.onTheWay r ∨ s.posted r = true := by
  unfold State.handed
  rw [Bool.or_eq_true, List.any_eq_true, onTheWay_pos]
  simp only [decide_eq_true_eq]

/-- The number of words of a record's body, in its place. -/
theorem body_length (s : State) (r : Rec) :
    (recordLayout s r).2.1.length + (if (recordLayout s r).2.2 then 2 else 0) = recordSize r := by
  rw [← recordWords_length s r]
  unfold recordWords
  dsimp only
  split
  · simp only [List.length_append, List.length_cons, List.length_nil]
    omega
  · rfl

theorem posted_congr (hl : recordLayout t r = recordLayout s r) (hq : ∀ o, Rec.covers s r o → t.queuedValue o = s.queuedValue o) :
    t.posted r = s.posted r := by
  have hb := body_length s r
  unfold State.posted
  rw [hl]
  dsimp only
  rw [Bool.eq_iff_iff, List.all_eq_true, List.all_eq_true]
  refine forall₂_congr fun k hk => ?_
  have hk := List.mem_range.1 hk
  rw [hq _ ⟨by omega, ?_⟩]
  rw [← hb]
  split <;> omega

/-! ## Steps that leave a record's place -/

/-- From `s` to `t` no posting of the record has joined those on their way or entered the queue: as many are on their way, the
stamp is as it was, and so is what is queued for its words. -/
structure State.still (s t : State) (r : Rec) : Prop where
  stamp : t.stamp (recordLayout s r).1 = s.stamp (recordLayout s r).1
  way : t.onTheWay r = s.onTheWay r
  queue : ∀ o, Rec.covers s r o → t.queuedValue o = s.queuedValue o

theorem covers_congr (s t : State) (r : Rec) (o : Nat) : Rec.covers s r o ↔ Rec.covers t r o := by
  unfold Rec.covers
  rw [layout_place s t]

theorem still_same (hpost : t.post = s.post) (hq : t.path.postQueue = s.path.postQueue) (r : Rec) : s.still t r where
  stamp := by unfold State.stamp; rw [hpost]
  way := by unfold State.onTheWay; rw [hpost]
  queue := fun o _ => by unfold State.queuedValue; rw [hq]

theorem State.still.refl (s : State) (r : Rec) : s.still s r := still_same rfl rfl r

theorem State.still.trans (h1 : s.still t r) (h2 : t.still u r) : s.still u r where
  stamp := by rw [layout_place s t, h2.stamp, ← layout_place s t, h1.stamp]
  way := h2.way.trans h1.way
  queue := fun o ho => (h2.queue o ((covers_congr s t r o).1 ho)).trans (h1.queue o ho)

theorem State.still.handsNone (h : s.still t r) : State.handsNone s t r := .inl ⟨h.stamp, h.way⟩

theorem State.still.handed (h : s.still t r) (hl : recordLayout t r = recordLayout s r) (hh : s.handed r = true) : t.handed r = true := by
  rw [handed_iff] at hh ⊢
  rwa [h.way, posted_congr hl h.queue]

/-! ## One operation -/

/-- `t` shows the values `s` shows. -/
structure State.sameValues (s t : State) : Prop where
  setup : t.setup = s.setup
  clock : t.clock = s.clock
  store : t.store = s.store
  signs : t.signs = s.signs
  guardAddress : t.post.guardAddress = s.post.guardAddress
  guardByte : t.post.guardByte = s.post.guardByte
  ring : t.post.ring = s.post.ring
  ringWrite : t.post.ringWrite = s.post.ringWrite
  flags : t.post.flags = s.post.flags

theorem State.sameValues.refl (s : State) : s.sameValues s := ⟨rfl, rfl, rfl, rfl, rfl, rfl, rfl, rfl, rfl⟩

theorem State.sameValues.trans (h1 : s.sameValues t) (h2 : t.sameValues u) : s.sameValues u :=
  ⟨h2.setup.trans h1.setup, h2.clock.trans h1.clock, h2.store.trans h1.store, h2.signs.trans h1.signs,
    h2.guardAddress.trans h1.guardAddress, h2.guardByte.trans h1.guardByte, h2.ring.trans h1.ring, h2.ringWrite.trans h1.ringWrite,
    h2.flags.trans h1.flags⟩

theorem State.sameValues.echoBody (h : s.sameValues t) (sec : Section) : echoBody t sec = echoBody s sec := by
  cases sec with
  | summary => unfold Machine.echoBody; rw [h.setup, h.clock, h.store, h.signs]
  | _ => unfold Machine.echoBody; rw [h.setup]

theorem State.sameValues.sign (h : s.sameValues t) (i : Nat) : t.sign i = s.sign i := by unfold State.sign; rw [h.signs]

theorem State.sameValues.room (h : s.sameValues t) (i : Nat) : t.room i = s.room i := by unfold State.room; rw [h.store]

theorem State.sameValues.layout (h : s.sameValues t) (r : Rec) : recordLayout t r = recordLayout s r := by
  unfold recordLayout
  cases r with
  | echo sec => dsimp only; rw [h.echoBody]
  | flagsWord => dsimp only; rw [h.flags]
  | raise f => dsimp only; rw [h.flags]
  | enableEcho => dsimp only; rw [h.setup]
  | guardAddress => dsimp only; rw [h.guardAddress, h.guardByte]
  | room i => dsimp only; rw [h.room]
  | health i => dsimp only; rw [h.sign]
  | _ => rfl

/-- From `s` to `t` records have been handed and nothing else shown has changed: each place is left as it was, or its record is
among `R` and has been handed; only the events `E` are raised. -/
structure Gives (R : Rec → Prop) (E : Event → Prop) (s t : State) : Prop where
  same : s.sameValues t
  each : ∀ r, r.live → s.still t r ∨ (R r ∧ t.handed r = true)
  raises : ∀ e : Event, t.raising e.mask = true → s.raising e.mask = true ∨ E e

section
variable {R R' : Rec → Prop} {E E' : Event → Prop}

theorem Gives.refl (s : State) : Gives R E s s := ⟨.refl s, fun r _ => .inl (.refl s r), fun _ => .inl⟩

theorem Gives.keeps (h : Gives R E s t) (hr : r.live) (hh : s.handed r = true) : t.handed r = true :=
  (h.each r hr).elim (fun hs => hs.handed (h.same.layout r) hh) (·.2)

theorem Gives.trans (h1 : Gives R E s t) (h2 : Gives R E t u) : Gives R E s u where
  same := h1.same.trans h2.same
  each := fun r hr => by
    rcases h2.each r hr with h | h
    · rcases h1.each r hr with h' | h'
      · exact .inl (h'.trans h)
      · exact .inr ⟨h'.1, h2.keeps hr h'.2⟩
    · exact .inr h
  raises := fun e he => (h2.raises e he).elim (h1.raises e) .inr

theorem Gives.mono (h : Gives R E s t) (hR : ∀ r, R r → R' r) (hE : ∀ e, E e → E' e) : Gives R' E' s t where
  same := h.same
  each := fun r hr => (h.each r hr).imp_right fun h => ⟨hR r h.1, h.2⟩
  raises := fun e he => (h.raises e he).imp_right (hE e)

end

/-- What an operation that hands no record that shows values gives. -/
theorem gives_still {R : Rec → Prop} {E : Event → Prop} (same : s.sameValues t) (h : ∀ r, r.live → s.still t r)
    (raises : ∀ e : Event, t.raising e.mask = true → s.raising e.mask = true ∨ E e) : Gives R E s t :=
  ⟨same, fun r hr => .inl (h r hr), raises⟩

theorem Rec.live.not_raise (h : r.live) (g : BitVec 13) : r ≠ .raise g := fun he => by
  rw [he] at h
  exact h

theorem joinRaise_records {l w : List Item} (h : joinRaise f l = some w) (hr : ∀ g, r ≠ .raise g) :
    (w.filter fun it => it.record = r).length = (l.filter fun it => it.record = r).length := by
  induction l generalizing w with
  | nil => cases h
  | cons it l ih =>
    rw [joinRaise] at h
    split at h
    next g hg =>
      cases h
      have h1 : ¬ (Rec.raise (g ||| f) = r) := fun h => hr _ h.symm
      have h2 : ¬ (it.record = r) := fun h => hr g (h.symm.trans hg)
      rw [List.filter_cons_of_neg (by simpa using h1), List.filter_cons_of_neg (by simpa using h2)]
    next =>
      cases hj : joinRaise f l with
      | none => rw [hj] at h; cases h
      | some y =>
        rw [hj] at h
        cases h
        rw [List.filter_cons, List.filter_cons]
        split
        · rw [List.length_cons, List.length_cons, ih hj]
        · exact ih hj

theorem raised_records (f : BitVec 13) (w : List Item) (hr : ∀ g, r ≠ .raise g) :
    ((raised f w).filter fun it => it.record = r).length = (w.filter fun it => it.record = r).length := by
  unfold raised
  split
  · rfl
  · cases hj : joinRaise f w with
    | some y => exact joinRaise_records hj hr
    | none =>
      have h : ¬ (Rec.raise f = r) := fun h => hr f h.symm
      rw [Option.getD_none, List.filter_append, List.filter_cons_of_neg (by simpa using h), List.filter_nil, List.append_nil]

theorem still_handRaise (s : State) (f : BitVec 13) (hr : ∀ g, r ≠ .raise g) : s.still (s.handRaise f) r := by
  rw [handRaise_eq]
  exact ⟨rfl, by rw [onTheWay_eq, onTheWay_eq]; exact congrArg (· + _) (raised_records f s.post.waiting hr), fun _ _ => rfl⟩

theorem sameValues_handRaise (s : State) (f : BitVec 13) : s.sameValues (s.handRaise f) := by
  rw [handRaise_eq]
  exact ⟨rfl, rfl, rfl, rfl, rfl, rfl, rfl, rfl, rfl⟩

theorem gives_handRaise {R : Rec → Prop} {E : Event → Prop} (hE : ∀ e : Event, f.getLsbD e.bit = true → E e) :
    Gives R E s (s.handRaise f) :=
  gives_still (sameValues_handRaise s f) (fun _ hr => still_handRaise s f hr.not_raise) fun e he => ((raising_handRaise s f e).1 he).imp_right (hE e)

theorem still_handNext (s : State) (p : Producer) (r : Rec) : s.still (s.handNext p) r := by
  unfold State.handNext
  split
  next it h =>
    refine ⟨rfl, ?_, fun _ _ => rfl⟩
    have hp : (s.post.waiting ++ [it] ++ s.post.backlog.erase it).Perm (s.post.waiting ++ s.post.backlog) := by
      rw [List.append_assoc]
      exact (List.perm_cons_erase (List.mem_of_find?_eq_some h)).symm.append_left _
    exact (hp.filter _).length_eq
  next => exact .refl s r

theorem sameValues_handNext (s : State) (p : Producer) : s.sameValues (s.handNext p) := by
  unfold State.handNext
  split
  next => exact ⟨rfl, rfl, rfl, rfl, rfl, rfl, rfl, rfl, rfl⟩
  next => exact .refl s

theorem gives_handNext {R : Rec → Prop} {E : Event → Prop} (s : State) (p : Producer) : Gives R E s (s.handNext p) :=
  gives_still (sameValues_handNext s p) (fun r _ => still_handNext s p r) fun e he => .inl (by rwa [raising_handNext] at he)

theorem gives_setEngine {R : Rec → Prop} {E : Event → Prop} (s : State) (n : Fin 4) (e : Engine) : Gives R E s (s.setEngine n e) :=
  gives_still ⟨rfl, rfl, rfl, rfl, rfl, rfl, rfl, rfl, rfl⟩ (fun r _ => still_same (s := s) (t := s.setEngine n e) rfl rfl r)
    fun _ => .inl

theorem gives_settleEngine {R : Rec → Prop} {E : Event → Prop} (s : State) (n : Fin 4) : Gives R E s (s.settleEngine n) := by
  rw [settleEngine_eq]
  exact gives_setEngine s n _

/-- A record that enters stands in the queue with the values it shows. -/
theorem posted_enqueue (s : State) (r : Rec) (hl : recordLayout (s.enqueue r) r = recordLayout s r) : (s.enqueue r).posted r = true := by
  unfold State.posted
  rw [hl]
  dsimp only
  rw [List.all_eq_true]
  intro k hk
  have hk := List.mem_range.1 hk
  have hlen : (recordWords s r).length = _ := (recordWords_length s r).trans (body_length s r).symm
  rw [decide_eq_true_iff]
  by_cases hs : (recordLayout s r).2.2 = true
  · have hw : recordWords s r = [s.stamp (recordLayout s r).1 + 1] ++ (recordLayout s r).2.1 ++ [s.stamp (recordLayout s r).1 + 2] := by
      unfold recordWords
      exact if_pos hs
    rw [if_pos hs] at hlen ⊢
    rw [show (recordLayout s r).1 + 2 * k + 2 = (recordLayout s r).1 + 2 * (k + 1) by omega,
      queuedValue_entries (s := s) (ws := recordWords s r) rfl (by omega), hw, List.append_assoc, List.singleton_append,
      List.getElem?_cons_succ, List.getElem?_append_left hk]
  · have hw : recordWords s r = (recordLayout s r).2.1 := by
      unfold recordWords
      exact if_neg hs
    rw [if_neg hs] at hlen ⊢
    rw [Nat.add_zero, queuedValue_entries (s := s) (ws := recordWords s r) rfl (by omega), hw]

theorem sameValues_enqueue (s : State) (r : Rec) : s.sameValues (s.enqueue r) := ⟨rfl, rfl, rfl, rfl, rfl, rfl, rfl, rfl, rfl⟩

theorem recordSize_pos (r : Rec) : 0 < recordSize r := by cases r <;> exact Nat.succ_pos _

/-- A record that enters leaves the places of the others. -/
theorem still_enqueue (s : State) (hap : Rec.apart s r q) : s.still (s.enqueue q) r := by
  have h1 := recordSize_pos r
  have h2 := recordSize_pos q
  unfold Rec.apart at hap
  refine ⟨?_, rfl, fun o ho => queuedValue_append rfl fun e he hoff => ?_⟩
  · unfold State.stamp State.enqueue
    dsimp only
    split
    · rw [Tab.get_set_of_ne]
      omega
    · rfl
  · obtain ⟨h3, h4, -⟩ := mem_entriesFrom he
    rw [recordWords_length] at h4
    unfold Rec.covers at ho
    omega

theorem gives_enqueue {R : Rec → Prop} {E : Event → Prop} (s : State) (hq : q.placed) (hR : q.live → R q) :
    Gives R E s (s.enqueue q) where
  same := sameValues_enqueue s q
  each := fun r hr => by
    by_cases hne : q = r
    · subst hne
      exact .inr ⟨hR hr, (handed_iff _ _).2 (.inr (posted_enqueue s q ((sameValues_enqueue s q).layout q)))⟩
    · exact .inl (still_enqueue s (live_apart hr hq hne))
  raises := fun _ => .inl

theorem still_push (s : State) (hne : it.record ≠ r) : s.still (s.setWaiting (s.post.waiting ++ [it])) r := by
  refine ⟨rfl, ?_, fun _ _ => rfl⟩
  rw [onTheWay_eq, onTheWay_eq]
  refine congrArg (· + _) ?_
  show ((s.post.waiting ++ [it]).filter fun it => decide (it.record = r)).length = _
  rw [List.filter_append, List.filter_cons_of_neg (by simpa using hne), List.filter_nil, List.append_nil]

theorem still_later (s : State) (hne : it.record ≠ r) :
    s.still { s with post := { s.post with backlog := s.post.backlog ++ [it] } } r := by
  refine ⟨rfl, ?_, fun _ _ => rfl⟩
  rw [onTheWay_eq, onTheWay_eq]
  refine congrArg (_ + ·) ?_
  show ((s.post.backlog ++ [it]).filter fun it => decide (it.record = r)).length = _
  rw [List.filter_append, List.filter_cons_of_neg (by simpa using hne), List.filter_nil, List.append_nil]

theorem sameValues_enter (s : State) (hp : it.producer ≠ .fill) : s.sameValues (s.enter it) := by
  have h : s.sameValues (((s.enqueue it.record).handRaise it.raises).handNext it.producer) :=
    ((sameValues_enqueue s _).trans (sameValues_handRaise _ _)).trans (sameValues_handNext _ _)
  rw [enter_eq s hp]
  split
  · rw [settleEngine_eq]
    exact h.trans ⟨rfl, rfl, rfl, rfl, rfl, rfl, rfl, rfl, rfl⟩
  · exact h

theorem gives_enter {R : Rec → Prop} {E : Event → Prop} (s : State) (hp : it.producer ≠ .fill) (hq : it.record.placed)
    (hR : it.record.live → R it.record) (hE : ∀ e : Event, it.raises.getLsbD e.bit = true → E e) : Gives R E s (s.enter it) := by
  have h : Gives R E s (((s.enqueue it.record).handRaise it.raises).handNext it.producer) :=
    ((gives_enqueue s hq hR).trans (gives_handRaise hE)).trans (gives_handNext _ _)
  rw [enter_eq s hp]
  split
  · exact h.trans (gives_settleEngine _ _)
  · exact h

/-- A record handed: its own place alone is not left (R169). -/
theorem gives_hand {R : Rec → Prop} {E : Event → Prop} (s : State) (hp : it.producer ≠ .fill) (hq : it.record.placed)
    (hR : it.record.live → R it.record) (hE : ∀ e : Event, it.carries e.mask = true → E e) : Gives R E s (s.hand it) := by
  have hraise : ∀ e : Event, (s.hand it).raising e.mask = true → s.raising e.mask = true ∨ E e :=
    fun e he => ((raising_hand s hp e).1 he).imp_right (hE e)
  rcases hand_cases s it with ⟨-, -, -, h⟩ | ⟨-, -, h⟩ | h
  · rw [h]
    exact gives_enter s hp hq hR fun e he => hE e ((carries_iff it e).2 (.inl he))
  · rw [h] at hraise ⊢
    refine ⟨⟨rfl, rfl, rfl, rfl, rfl, rfl, rfl, rfl, rfl⟩, fun r hr => ?_, hraise⟩
    by_cases hne : it.record = r
    · exact .inr ⟨hne ▸ hR (hne ▸ hr), (handed_iff _ _).2 (.inl ((onTheWay_pos _ _).2 ⟨it, by simp, hne⟩))⟩
    · exact .inl (still_later s hne)
  · rw [h] at hraise ⊢
    refine ⟨⟨rfl, rfl, rfl, rfl, rfl, rfl, rfl, rfl, rfl⟩, fun r hr => ?_, hraise⟩
    by_cases hne : it.record = r
    · exact .inr ⟨hne ▸ hR (hne ▸ hr), (handed_iff _ _).2 (.inl ((onTheWay_pos _ _).2 ⟨it, by simp, hne⟩))⟩
    · exact .inl (still_push s hne)

theorem handed_hand (s : State) (hp : it.producer ≠ .fill) : (s.hand it).handed it.record = true := by
  rcases hand_cases s it with ⟨-, -, -, h⟩ | ⟨-, -, h⟩ | h
  · rw [h, enter_eq s hp]
    have hposted : (((s.enqueue it.record).handRaise it.raises).handNext it.producer).posted it.record = true := by
      rw [← posted_enqueue s it.record ((sameValues_enqueue s _).layout _)]
      refine posted_congr (((sameValues_handRaise _ _).trans (sameValues_handNext _ _)).layout _) fun o _ => ?_
      unfold State.queuedValue
      rw [path_handNext, handRaise_eq]
      rfl
    split
    · rw [settleEngine_eq]
      exact (handed_iff _ _).2 (.inr hposted)
    · exact (handed_iff _ _).2 (.inr hposted)
  · rw [h]
    exact (handed_iff _ _).2 (.inl ((onTheWay_pos _ _).2 ⟨it, by simp, rfl⟩))
  · rw [h]
    exact (handed_iff _ _).2 (.inl ((onTheWay_pos _ _).2 ⟨it, by simp, rfl⟩))

theorem still_setEngine (s : State) (n : Fin 4) (e : Engine) (r : Rec) : s.still (s.setEngine n e) r := ⟨rfl, rfl, fun _ _ => rfl⟩

/-- A record handed leaves the place of a record that lies apart. -/
theorem still_hand (s : State) (hp : it.producer ≠ .fill) (hr : ∀ g, r ≠ .raise g) (hne : it.record ≠ r)
    (hap : Rec.apart s r it.record) : s.still (s.hand it) r := by
  rcases hand_cases s it with ⟨-, -, -, h⟩ | ⟨-, -, h⟩ | h
  · have h1 : s.still (((s.enqueue it.record).handRaise it.raises).handNext it.producer) r :=
      ((still_enqueue s hap).trans (still_handRaise _ _ hr)).trans (still_handNext _ _ r)
    rw [h, enter_eq s hp]
    split
    · rw [settleEngine_eq]
      exact h1.trans (still_setEngine _ _ _ r)
    · exact h1
  · rw [h]
    exact still_later s hne
  · rw [h]
    exact still_push s hne

end Sys2Proof.Machine
end

section
/-! The records that follow a change of the values they show, as records handed; and what a piece of a command tells of the
values it has changed (R62, R184, R185). -/

namespace Sys2Proof.Machine

variable {s t u v old : State} {r : Rec} {R : Rec → Prop} {E : Event → Prop} {f : BitVec 13}

/-! ## Records handed one after another -/

theorem gives_foldl {β : Type} (g : State → β → State) (l : List β)
    (h : ∀ u b, b ∈ l → s.sameValues u → Gives R E u (g u b)) : Gives R E s (l.foldl g s) := by
  suffices hsuff : ∀ u, s.sameValues u → Gives R E u (l.foldl g u) from hsuff s (.refl s)
  intro u hu
  induction l generalizing u with
  | nil => exact .refl u
  | cons b l ih =>
    have h1 := h u b List.mem_cons_self hu
    exact h1.trans (ih (fun u c hc => h u c (List.mem_cons_of_mem _ hc)) _ (hu.trans h1.same))

/-- A record that a step of the run hands has been handed at its end. -/
theorem handed_foldl {β : Type} (g : State → β → State) (l : List β)
    (h : ∀ u b, b ∈ l → s.sameValues u → Gives R E u (g u b)) (hr : r.live) {b : β} (hb : b ∈ l)
    (hh : ∀ u, s.sameValues u → (g u b).handed r = true) : (l.foldl g s).handed r = true := by
  suffices hsuff : ∀ u, s.sameValues u → (l.foldl g u).handed r = true from hsuff s (.refl s)
  intro u hu
  induction l generalizing u with
  | nil => cases hb
  | cons c l ih =>
    have h1 := h u c List.mem_cons_self hu
    have h2 : ∀ u b, b ∈ l → s.sameValues u → Gives R E u (g u b) := fun u d hd => h u d (List.mem_cons_of_mem _ hd)
    rcases List.mem_cons.1 hb with rfl | hb
    · exact (gives_foldl g l fun w d hd hw => h2 w d hd ((hu.trans h1.same).trans hw)).keeps hr (hh u hu)
    · exact ih h2 hb _ (hu.trans h1.same)

/-! ## Echo sections (R184) -/

theorem State.sameValues.echoOpen (h : s.sameValues t) (sec : Section) : t.echoOpen sec = s.echoOpen sec := by
  unfold State.echoOpen
  rw [h.setup]

theorem joinEcho_way {sec : Section} {w : List Item} (h : joinEcho sec f s.post.waiting = some w) (r : Rec) :
    (s.setWaiting w).onTheWay r = s.onTheWay r := by
  have hm := congrArg (fun l => (l.filter fun q => decide (q = r)).length) (joinEcho_map (·.record) (fun _ _ => rfl) h)
  simp only [List.filter_map, List.length_map] at hm
  rw [onTheWay_eq, onTheWay_eq]
  exact congrArg (· + _) hm

theorem joinEcho_mem {sec : Section} {l w : List Item} (h : joinEcho sec f l = some w) : ∃ it ∈ w, it.record = .echo sec := by
  induction l generalizing w with
  | nil => cases h
  | cons it l ih =>
    rw [joinEcho] at h
    split at h
    next hr => cases h; exact ⟨_, List.mem_cons_self, hr⟩
    next =>
      cases hj : joinEcho sec f l with
      | none => rw [hj] at h; cases h
      | some y =>
        rw [hj] at h
        cases h
        obtain ⟨x, hx, hr⟩ := ih hj
        exact ⟨x, List.mem_cons_of_mem _ hx, hr⟩

/-- The echo section is on its way, where it may be posted. -/
theorem handEcho_cases (s : State) (sec : Section) (f : BitVec 13) :
    (s.echoOpen sec = false ∧ s.handEcho sec f = s.handRaise f)
    ∨ (s.echoOpen sec = true ∧ ∃ w, joinEcho sec f s.post.waiting = some w ∧ s.handEcho sec f = s.setWaiting w)
    ∨ (s.echoOpen sec = true ∧ s.handEcho sec f = s.hand { producer := .post, record := .echo sec, raises := f }) := by
  unfold State.handEcho
  cases ho : s.echoOpen sec with
  | false => exact .inl ⟨rfl, rfl⟩
  | true =>
    cases hj : joinEcho sec f s.post.waiting with
    | some w => exact .inr (.inl ⟨rfl, w, rfl, rfl⟩)
    | none => exact .inr (.inr ⟨rfl, rfl⟩)

theorem gives_handEcho (s : State) (sec : Section) (hR : R (.echo sec)) (hE : ∀ e : Event, f.getLsbD e.bit = true → E e) :
    Gives R E s (s.handEcho sec f) := by
  rcases handEcho_cases s sec f with ⟨-, h⟩ | ⟨-, w, hj, h⟩ | ⟨-, h⟩
  · rw [h]
    exact gives_handRaise hE
  · have hraise := raisesAlso_handEcho s sec f
    rw [h] at hraise ⊢
    exact gives_still ⟨rfl, rfl, rfl, rfl, rfl, rfl, rfl, rfl, rfl⟩ (fun r _ => ⟨rfl, joinEcho_way hj r, fun _ _ => rfl⟩)
      fun e he => ((hraise e).1 he).imp_right (hE e)
  · rw [h]
    exact gives_hand s (by simp) trivial (fun _ => hR) fun e he => hE e (((carries_iff _ e).1 he).resolve_right (by simp))

theorem handed_handEcho {sec : Section} (ho : s.echoOpen sec = true) : (s.handEcho sec f).handed (.echo sec) = true := by
  rcases handEcho_cases s sec f with ⟨h, -⟩ | ⟨-, w, hj, h⟩ | ⟨-, h⟩
  · rw [ho] at h
    cases h
  · rw [h]
    obtain ⟨x, hx, hr⟩ := joinEcho_mem hj
    exact (handed_iff _ _).2 (.inl ((onTheWay_pos _ _).2 ⟨x, List.mem_append_left _ hx, hr⟩))
  · rw [h]
    exact handed_hand s (by simp)

/-- One section's part of the posting of changed echo sections (R184). -/
def State.echoStep (old : State) (f : BitVec 13) (t : State) (sec : Section) : State :=
  if echoBody t sec ≠ echoBody old sec then t.handEcho sec (if sec = .summary then f else 0)
  else if sec = .summary then t.handRaise f else t

theorem syncEcho_eq (s old : State) (f : BitVec 13) : s.syncEcho old f = allSections.foldl (State.echoStep old f) s := rfl

theorem gives_echoStep (old u : State) (sec : Section) (hR : echoBody u sec ≠ echoBody old sec → R (.echo sec))
    (hE : ∀ e : Event, f.getLsbD e.bit = true → E e) : Gives R E u (State.echoStep old f u sec) := by
  unfold State.echoStep
  split
  next h =>
    refine gives_handEcho u sec (hR h) fun e he => ?_
    split at he
    · exact hE e he
    · rw [getLsbD_zero13] at he
      cases he
  next =>
    split
    · exact gives_handRaise hE
    · exact .refl u

theorem gives_syncEcho (s old : State) (hR : ∀ sec, echoBody s sec ≠ echoBody old sec → R (.echo sec))
    (hE : ∀ e : Event, f.getLsbD e.bit = true → E e) : Gives R E s (s.syncEcho old f) := by
  rw [syncEcho_eq]
  exact gives_foldl _ _ fun u sec _ hu => gives_echoStep old u sec (fun h => hR sec (by rwa [hu.echoBody] at h)) hE

theorem handed_syncEcho {sec : Section} (ho : s.echoOpen sec = true) (hne : echoBody s sec ≠ echoBody old sec) :
    (s.syncEcho old f).handed (.echo sec) = true := by
  refine handed_foldl (R := fun _ => True) (E := fun _ => True) (State.echoStep old f) allSections
    (fun u sec _ _ => gives_echoStep old u sec (fun _ => trivial) fun _ _ => trivial) trivial (b := sec) ?_ fun u hu => ?_
  · cases sec <;> decide
  · unfold State.echoStep
    rw [if_pos (by rwa [hu.echoBody])]
    exact handed_handEcho (by rwa [hu.echoOpen])

/-! ## Room records (R62) -/

theorem gives_syncRooms (s old : State) (hfit : ∀ e ∈ s.store.rooms, e.1 < 256 ∧ s.room e.1 = some e.2)
    (hR : ∀ i, roomBody (s.room i) ≠ roomBody (old.room i) → R (.room i)) : Gives R E s (s.syncRooms old) := by
  refine gives_foldl _ _ fun u e he _ => ?_
  obtain ⟨hmem, hne⟩ := List.mem_filter.1 he
  obtain ⟨hi, hroom⟩ := hfit e hmem
  exact gives_hand u (by simp) hi (fun _ => hR e.1 (by rw [hroom]; simpa using hne)) fun ev hev => by
    rcases (carries_iff _ ev).1 hev with h | ⟨g, h, -⟩
    · rw [show (0 : BitVec 13).getLsbD ev.bit = false from getLsbD_zero13 _] at h
      cases h
    · cases h

theorem handed_syncRooms (hfit : ∀ e ∈ s.store.rooms, e.1 < 256 ∧ s.room e.1 = some e.2) {i : Nat} {x : Room}
    (hx : s.room i = some x) (hne : roomBody (some x) ≠ roomBody (old.room i)) : (s.syncRooms old).handed (.room i) = true := by
  have hmem : (i, x) ∈ s.store.rooms := Tab.mem_of_get hx
  refine handed_foldl (R := fun _ => True) (E := fun _ => True) _ _ (fun u e he _ => ?_) (hfit _ hmem).1
    (b := (i, x)) (List.mem_filter.2 ⟨hmem, by simpa using hne⟩) fun u _ => handed_hand u (by simp)
  exact gives_hand u (by simp) (hfit e (List.mem_filter.1 he).1).1 (fun _ => trivial) fun _ _ => trivial

/-! ## Health records (R185) -/

theorem mem_slotsOf_right {i : Nat} (h : i ∈ Tab.keys old.signs) : i ∈ slotsOf s old := by
  unfold slotsOf
  revert h
  generalize Tab.keys old.signs = l
  intro h
  induction l with
  | nil => cases h
  | cons a l ih =>
    rw [List.foldr_cons, mem_insertIndex]
    exact (List.mem_cons.1 h).imp_right ih

/-- A slot defined in either state is gone through. -/
theorem mem_slotsOf_of_sign {i : Nat} (h : s.sign i ≠ none ∨ old.sign i ≠ none) : i ∈ slotsOf s old := by
  rcases h with h | h
  · obtain ⟨g, hg⟩ := Option.ne_none_iff_exists'.1 h
    exact mem_slotsOf_left (List.mem_map_of_mem (Tab.mem_of_get hg))
  · obtain ⟨g, hg⟩ := Option.ne_none_iff_exists'.1 h
    exact mem_slotsOf_right (List.mem_map_of_mem (Tab.mem_of_get hg))

theorem gives_handHealth (s old : State) {p : Producer} (hp : p ≠ .fill) (raises : Tab (BitVec 13)) {changed : Nat → Bool}
    (hR : ∀ i, changed i = true → R (.health i))
    (hE : ∀ i f, Tab.get raises i = some f → ∀ e : Event, f.getLsbD e.bit = true → E e) :
    Gives R E s (s.handHealth old p raises changed) := by
  refine gives_foldl _ _ fun u i hi _ => ?_
  refine gives_hand u hp trivial (fun _ => hR i (List.mem_filter.1 hi).2) fun e he => ?_
  have he := ((carries_iff _ e).1 he).resolve_right (by simp)
  cases hf : Tab.get raises i with
  | some f => exact hE i f hf e (by rwa [show (Tab.get raises i).getD 0 = f by rw [hf]; rfl] at he)
  | none =>
    rw [show (Tab.get raises i).getD 0 = 0 by rw [hf]; rfl, getLsbD_zero13] at he
    cases he

theorem handed_handHealth {p : Producer} (hp : p ≠ .fill) {raises : Tab (BitVec 13)} {changed : Nat → Bool} {i : Nat}
    (hi : s.sign i ≠ none ∨ old.sign i ≠ none) (hc : changed i = true) : (s.handHealth old p raises changed).handed (.health i) = true :=
  handed_foldl (R := fun _ => True) (E := fun _ => True) _ _
    (fun u _ _ _ => gives_hand u hp trivial (fun _ => trivial) fun _ _ => trivial) trivial (b := i)
    (List.mem_filter.2 ⟨mem_slotsOf_of_sign hi, hc⟩) fun u _ => handed_hand u hp

theorem defined_of_differ {β : Type} (c : Option Sign → β) {i : Nat} (h : c (s.sign i) ≠ c (old.sign i)) :
    s.sign i ≠ none ∨ old.sign i ≠ none := by
  by_contra hn
  rw [not_or, not_not, not_not] at hn
  exact h (by rw [hn.1, hn.2])

theorem gives_syncHealth (s old : State) {p : Producer} (hp : p ≠ .fill) {always : List Nat} {raises : Tab (BitVec 13)}
    (hR : ∀ i, healthBody (s.sign i) ≠ healthBody (old.sign i) ∨ i ∈ always ∨ Tab.has raises i = true → R (.health i))
    (hE : ∀ i f, Tab.get raises i = some f → ∀ e : Event, f.getLsbD e.bit = true → E e) :
    Gives R E s (s.syncHealth old p always raises) :=
  gives_handHealth s old hp raises (fun i hi => hR i (by simpa [or_assoc] using hi)) hE

theorem gives_syncHealth_plain (s old : State) {p : Producer} (hp : p ≠ .fill)
    (hR : ∀ i, healthBody (s.sign i) ≠ healthBody (old.sign i) → R (.health i)) : Gives R E s (s.syncHealth old p) :=
  gives_syncHealth s old hp (fun i hi => hR i (hi.resolve_right (by simp [Tab.has]))) fun _ _ h => by cases h

theorem handed_syncHealth {p : Producer} (hp : p ≠ .fill) {always : List Nat} {raises : Tab (BitVec 13)} {i : Nat}
    (h : healthBody (s.sign i) ≠ healthBody (old.sign i)) : (s.syncHealth old p always raises).handed (.health i) = true :=
  handed_handHealth hp (defined_of_differ healthBody h) (by simp [h])

/-! ## Pieces of a command -/

/-- From `s` to `t` values may have changed, but no record has been handed or has entered the queue, and nothing is raised. -/
structure Leaves (s t : State) : Prop where
  each : ∀ r, r.live → s.still t r
  raises : ∀ e : Event, t.raising e.mask = true → s.raising e.mask = true

theorem leaves_same (hpost : t.post = s.post) (hq : t.path.postQueue = s.path.postQueue) : Leaves s t where
  each := fun r _ => still_same hpost hq r
  raises := fun e he => by
    unfold State.raising at he ⊢
    rwa [hpost] at he

theorem Leaves.refl (s : State) : Leaves s s := leaves_same rfl rfl

theorem Leaves.trans (h1 : Leaves s t) (h2 : Leaves t u) : Leaves s u :=
  ⟨fun r hr => (h1.each r hr).trans (h2.each r hr), fun e he => h1.raises e (h2.raises e he)⟩

theorem Gives.quiet (h : Gives (fun _ => False) (fun _ => False) s t) : Leaves s t :=
  ⟨fun r hr => (h.each r hr).resolve_right (fun h => h.1), fun e he => (h.raises e he).resolve_right id⟩

/-- The records that are posted where a value they show changes: an echo section once the fill has passed it (R184). -/
def State.due (s : State) : Rec → Prop
  | .echo sec => s.echoOpen sec = true
  | r => r.live

theorem State.due.live (h : s.due r) : r.live := by
  cases r with
  | echo sec => trivial
  | _ => exact h

/-- The values a record shows are not the same in `t` as in `s`. -/
def State.differs (s t : State) : Rec → Prop
  | .enableEcho => t.setup.enable ≠ s.setup.enable
  | .guardAddress => t.post.guardAddress ≠ s.post.guardAddress ∨ t.post.guardByte ≠ s.post.guardByte
  | .echo sec => echoBody t sec ≠ echoBody s sec
  | .room i => roomBody (t.room i) ≠ roomBody (s.room i)
  | .health i => healthBody (t.sign i) ≠ healthBody (s.sign i)
  | _ => False

theorem differs_split (h : s.differs u r) : s.differs t r ∨ t.differs u r := by
  cases r with
  | echo sec => exact or_iff_not_imp_left.2 fun hn => fun he => h (he.trans (not_not.1 hn))
  | enableEcho => exact or_iff_not_imp_left.2 fun hn => fun he => h (he.trans (not_not.1 hn))
  | room i => exact or_iff_not_imp_left.2 fun hn => fun he => h (he.trans (not_not.1 hn))
  | health i => exact or_iff_not_imp_left.2 fun hn => fun he => h (he.trans (not_not.1 hn))
  | guardAddress =>
    refine or_iff_not_imp_left.2 fun hn => ?_
    obtain ⟨h1, h2⟩ := not_or.1 hn
    unfold State.differs at h ⊢
    rwa [not_not.1 h1, not_not.1 h2]
  | _ => exact h.elim

theorem layout_of_not_differs (hr : r.live) (h : ¬ s.differs t r) : recordLayout t r = recordLayout s r := by
  unfold recordLayout
  cases r with
  | echo sec => dsimp only; rw [not_not.1 h]
  | enableEcho => dsimp only; rw [not_not.1 h]
  | room i => dsimp only; rw [not_not.1 h]
  | health i => dsimp only; rw [not_not.1 h]
  | guardAddress =>
    obtain ⟨h1, h2⟩ := not_or.1 h
    dsimp only
    rw [not_not.1 h1, not_not.1 h2]
  | _ => exact hr.elim

theorem State.sameValues.not_differs (h : s.sameValues t) (r : Rec) : ¬ s.differs t r := by
  cases r with
  | echo sec => exact not_not.2 (h.echoBody sec)
  | enableEcho => exact not_not.2 (by rw [h.setup])
  | room i => exact not_not.2 (by rw [h.room])
  | health i => exact not_not.2 (by rw [h.sign])
  | guardAddress => exact not_or.2 ⟨not_not.2 h.guardAddress, not_not.2 h.guardByte⟩
  | _ => exact id

/-- The call ring has no new entry, and its write count is as it was. -/
structure State.ringKept (s t : State) : Prop where
  writes : t.post.ringWrite = s.post.ringWrite
  entries : ∀ e ∈ t.post.ring, e ∈ s.post.ring

theorem State.ringKept.trans (h1 : s.ringKept t) (h2 : t.ringKept u) : s.ringKept u :=
  ⟨h2.writes.trans h1.writes, fun e he => h1.entries e (h2.entries e he)⟩

theorem ringKept_same (h : t.post = s.post) : s.ringKept t := ⟨by rw [h], fun e he => by rwa [h] at he⟩

theorem State.sameValues.ringKept (h : s.sameValues t) : s.ringKept t := ⟨h.ringWrite, fun e he => by rwa [h.ring] at he⟩

/-- What a piece of a command that keeps the store and the phase of the start does to the records: each place is left as it
was, or its record is among `R` and has been handed; a record whose values have changed has been handed; only the events `E`
are raised. -/
structure Tells (R : Rec → Prop) (E : Event → Prop) (s t : State) : Prop where
  phase : t.setup.phase = s.setup.phase
  store : t.store = s.store
  ring : s.ringKept t
  each : ∀ r, s.due r → s.still t r ∨ (R r ∧ t.handed r = true)
  tells : ∀ r, s.due r → s.differs t r → t.handed r = true
  raises : ∀ e : Event, t.raising e.mask = true → s.raising e.mask = true ∨ E e

theorem due_congr (h : t.setup.phase = s.setup.phase) (hr : s.due r) : t.due r := by
  cases r with
  | echo sec =>
    unfold State.due State.echoOpen at hr ⊢
    rwa [h]
  | _ => exact hr

theorem Gives.tells (h : Gives R E s t) : Tells R E s t where
  phase := by rw [h.same.setup]
  store := h.same.store
  ring := h.same.ringKept
  each := fun r hr => h.each r hr.live
  tells := fun r _ hd => absurd hd (h.same.not_differs r)
  raises := h.raises

theorem Tells.refl (s : State) : Tells R E s s := (Gives.refl s).tells

theorem Tells.keeps (h : Tells R E s t) (hr : s.due r) (hh : s.handed r = true) : t.handed r = true := by
  by_cases hd : s.differs t r
  · exact h.tells r hr hd
  · exact (h.each r hr).elim (fun hs => hs.handed (layout_of_not_differs hr.live hd) hh) (·.2)

theorem Tells.trans (h1 : Tells R E s t) (h2 : Tells R E t u) : Tells R E s u where
  phase := h2.phase.trans h1.phase
  store := h2.store.trans h1.store
  ring := h1.ring.trans h2.ring
  each := fun r hr => by
    have hr' := due_congr h1.phase hr
    rcases h2.each r hr' with h | h
    · rcases h1.each r hr with h' | h'
      · exact .inl (h'.trans h)
      · exact .inr ⟨h'.1, h2.keeps hr' h'.2⟩
    · exact .inr h
  tells := fun r hr hd => by
    have hr' := due_congr h1.phase hr
    rcases differs_split (t := t) hd with h | h
    · exact h2.keeps hr' (h1.tells r hr h)
    · exact h2.tells r hr' h
  raises := fun e he => (h2.raises e he).elim (h1.raises e) .inr

theorem Tells.mono {R' : Rec → Prop} {E' : Event → Prop} (h : Tells R E s t) (hR : ∀ r, R r → R' r) (hE : ∀ e, E e → E' e) :
    Tells R' E' s t :=
  { h with
    each := fun r hr => (h.each r hr).imp_right fun h => ⟨hR r h.1, h.2⟩
    raises := fun e he => (h.raises e he).imp_right (hE e) }

/-- Values change, the pieces of the command go on, and records are handed at the end: the records of what was changed at the
beginning are among them. -/
theorem tells_closing (h1 : Leaves s u) (phase : u.setup.phase = s.setup.phase) (store : u.store = s.store) (ring : s.ringKept u)
    (h2 : Tells R E u v) (h3 : Gives R E v t) (h : ∀ r, s.due r → s.differs u r → t.handed r = true) : Tells R E s t where
  phase := (by rw [h3.same.setup] : t.setup.phase = v.setup.phase).trans (h2.phase.trans phase)
  store := h3.same.store.trans (h2.store.trans store)
  ring := (ring.trans h2.ring).trans h3.same.ringKept
  each := fun r hr => by
    have hr' := due_congr phase hr
    rcases (h2.trans h3.tells).each r hr' with h' | h'
    · exact .inl ((h1.each r hr.live).trans h')
    · exact .inr h'
  tells := fun r hr hd => by
    rcases differs_split (t := u) hd with h' | h'
    · exact h r hr h'
    · exact (h2.trans h3.tells).tells r (due_congr phase hr) h'
  raises := fun e he => ((h2.trans h3.tells).raises e he).imp_left (h1.raises e)

/-- Values change, and then records are handed. -/
theorem tells_of (h1 : Leaves s u) (phase : u.setup.phase = s.setup.phase) (store : u.store = s.store) (ring : s.ringKept u)
    (h2 : Gives R E u t) (h : ∀ r, s.due r → s.differs u r → t.handed r = true) : Tells R E s t :=
  tells_closing h1 phase store ring (.refl u) h2 h

/-- A piece that changes no value shown and hands nothing. -/
theorem Leaves.tells (h1 : Leaves s t) (h : s.sameValues t) : Tells R E s t :=
  tells_of h1 (by rw [h.setup]) h.store h.ringKept (.refl t) fun r _ hd => absurd hd (h.not_differs r)

end Sys2Proof.Machine
end

section
/-! What the end of a composition tells of its sign (R99, R101, R114, R116, R154, R185). -/

namespace Sys2Proof.Machine

variable {s t u v old : State} {r : Rec} {R : Rec → Prop} {E : Event → Prop} {c : Composition}

/-! ## The words of a health record -/

/-- A health record is made of its listed words and its face sequence. -/
theorem healthBody_congr {a b : Option Sign} (h1 : listedBody a = listedBody b) (h2 : a.map (·.sequence) = b.map (·.sequence)) :
    healthBody a = healthBody b := by
  cases a with
  | none =>
    cases b with
    | none => rfl
    | some y => cases h2
  | some x =>
    cases b with
    | none => cases h2
    | some y =>
      have hq : x.sequence = y.sequence := Option.some.inj h2
      simp only [listedBody, Option.map_some, healthBody, List.cons.injEq, and_true, wordOf, BitVec.ofNat_add] at h1 ⊢
      refine ⟨h1.1, ?_⟩
      have hf : BitVec.ofNat 16 x.failures = BitVec.ofNat 16 y.failures := by
        have h := h1.2
        simpa [place] using h
      rw [hf, hq]

/-- An unchanged health record of a sign with its failures as they were has its listed words and its face sequence as they
were. -/
theorem listed_of_health {a b : Option Sign} (h1 : healthBody a = healthBody b) (h2 : a.map (·.failures) = b.map (·.failures)) :
    listedBody a = listedBody b ∧ a.map (·.sequence) = b.map (·.sequence) := by
  cases a with
  | none =>
    cases b with
    | none => exact ⟨rfl, rfl⟩
    | some y => cases h2
  | some x =>
    cases b with
    | none => cases h2
    | some y =>
      have hf : x.failures = y.failures := Option.some.inj h2
      simp only [listedBody, Option.map_some, healthBody, List.cons.injEq, and_true] at h1 ⊢
      refine ⟨⟨h1.1, by rw [hf]⟩, congrArg some (BitVec.eq_of_toNat_eq ?_)⟩
      have hw := congrArg BitVec.toNat h1.2
      have hx := x.sequence.isLt
      have hy := y.sequence.isLt
      rw [hf] at hw
      simp only [wordOf, place, BitVec.toNat_ofNat] at hw
      omega

/-! ## The sign whose composition ends -/

/-- The end of a composition leaves every failure count; a dirty one every face sequence too. -/
theorem endComposition_counts (s : State) (c : Composition) (i : Nat) :
    ((s.endComposition c).sign i).map (·.failures) = (s.sign i).map (·.failures)
    ∧ (c.engine = none → ((s.endComposition c).sign i).map (·.sequence) = (s.sign i).map (·.sequence)) := by
  have keep : ∀ {β : Type} (p : Sign → β) (g g' : Sign) (y : State), s.sign c.slot = some g →
      y.signs = Tab.set s.signs c.slot g' → p g' = p g → (y.sign i).map p = (s.sign i).map p := fun p g g' y hg hy hq => by
    unfold State.sign at hg ⊢
    rw [hy, Tab.get_set]
    split
    next hi => rw [hi, hg, Option.map_some, Option.map_some, hq]
    next => rfl
  rcases endComposition_cases s c with h | ⟨g, hg, ⟨-, -, h | ⟨r, h⟩ | h⟩ | ⟨n, hn, -, h | ⟨r, rec, b, h⟩ | h⟩⟩
  · rw [h]
    exact ⟨rfl, fun _ => rfl⟩
  · have hs : (s.endComposition c).signs = Tab.set s.signs c.slot (unmarked g) := by rw [h]; rfl
    exact ⟨keep (·.failures) g _ _ hg hs rfl, fun _ => keep (·.sequence) g _ _ hg hs rfl⟩
  · have hs : (s.endComposition c).signs
        = Tab.set s.signs c.slot { g with deferred := false, state := enqueuedState g.state } := by rw [h]; rfl
    exact ⟨keep (·.failures) g _ _ hg hs rfl, fun _ => keep (·.sequence) g _ _ hg hs rfl⟩
  · have hs : (s.endComposition c).signs = Tab.set s.signs c.slot
        { g with deferred := true, state := if g.state = .refreshing then .refreshing else .deferred } := by rw [h]; rfl
    exact ⟨keep (·.failures) g _ _ hg hs rfl, fun _ => keep (·.sequence) g _ _ hg hs rfl⟩
  · have hs : (s.endComposition c).signs = Tab.set s.signs c.slot { g with deferred := false, state := .synced } := by rw [h]; rfl
    exact ⟨keep (·.failures) g _ _ hg hs rfl, fun he => by rw [hn] at he; cases he⟩
  · have hs : (s.endComposition c).signs = Tab.set s.signs c.slot
        { g with deferred := false, state := .sending, sequence := sendSequence g rec } := by rw [h]; exact signs_handToPort _ _
    exact ⟨keep (·.failures) g _ _ hg hs rfl, fun he => by rw [hn] at he; cases he⟩
  · have hs : (s.endComposition c).signs = Tab.set s.signs c.slot
        { g with deferred := true, state := if g.state = .refreshing then .refreshing else .deferred } := by rw [h]; rfl
    exact ⟨keep (·.failures) g _ _ hg hs rfl, fun he => by rw [hn] at he; cases he⟩

/-! ## The records of a composition that has ended -/

theorem gives_syncClosed (s old : State) (e : Option (Fin 4))
    (hR : ∀ i, listedBody (s.sign i) ≠ listedBody (old.sign i) ∨ (s.sign i).map (·.sequence) ≠ (old.sign i).map (·.sequence) → R (.health i)) :
    Gives R E s (s.syncClosed old e) := by
  have h1 : Gives R E s (s.handHealth old .credit [] fun i => listedBody (s.sign i) ≠ listedBody (old.sign i)) :=
    gives_handHealth s old (p := .credit) nofun [] (fun i hi => hR i (.inl (of_decide_eq_true hi))) fun _ _ h => by cases h
  cases e with
  | none => exact h1
  | some n =>
    rw [syncClosed_some]
    exact h1.trans (gives_handHealth _ old (p := .engine n) nofun [] (fun i hi => hR i (.inr (of_decide_eq_true hi))) fun _ _ h => by cases h)

theorem handed_syncClosed {e : Option (Fin 4)} {i : Nat} (h : listedBody (s.sign i) ≠ listedBody (old.sign i)
    ∨ e.isSome = true ∧ (s.sign i).map (·.sequence) ≠ (old.sign i).map (·.sequence)) : (s.syncClosed old e).handed (.health i) = true := by
  have h1 : Gives (fun _ => True) (fun _ => True) s
      (s.handHealth old .credit [] fun i => listedBody (s.sign i) ≠ listedBody (old.sign i)) :=
    gives_handHealth s old (p := .credit) nofun [] (fun _ _ => trivial) fun _ _ h => by cases h
  have hl : listedBody (s.sign i) ≠ listedBody (old.sign i) → (s.handHealth old .credit [] fun i =>
      listedBody (s.sign i) ≠ listedBody (old.sign i)).handed (.health i) = true := fun h =>
    handed_handHealth (p := .credit) nofun (defined_of_differ listedBody h) (decide_eq_true h)
  cases e with
  | none => exact h.elim hl fun h => by cases h.1
  | some n =>
    rw [syncClosed_some]
    have h2 : Gives (fun _ => True) (fun _ => True) _
        ((s.handHealth old .credit [] fun i => listedBody (s.sign i) ≠ listedBody (old.sign i)).handHealth old (.engine n) [] fun i =>
          (s.sign i).map (·.sequence) ≠ (old.sign i).map (·.sequence)) :=
      gives_handHealth _ old (p := .engine n) nofun [] (fun _ _ => trivial) fun _ _ h => by cases h
    refine h.elim (fun h => h2.keeps (r := .health i) trivial (hl h)) fun h => ?_
    refine handed_handHealth (p := .engine n) nofun ?_ (decide_eq_true h.2)
    rw [h1.same.sign]
    exact defined_of_differ (Option.map (·.sequence)) h.2

/-- The end of a composition changes no value shown but its sign's. -/
theorem endComposition_values (hs : Tab.sorted s.signs = true) (c : Composition) : (s.endComposition c).setup = s.setup ∧ (s.endComposition c).store = s.store
    ∧ ∀ sec, echoBody (s.endComposition c) sec = echoBody s sec := by
  have h := (signsOnly_endComposition s c).eq
  have h1 : (s.endComposition c).setup = s.setup := by rw [h]
  have h2 : (s.endComposition c).store = s.store := by rw [h]
  have h3 : (s.endComposition c).clock = s.clock := by rw [h]
  have h4 : (s.endComposition c).signs.length = s.signs.length := by
    rcases endComposition_signs s c with h | ⟨g, g', hg, -, -, h⟩
    · rw [h]
    · rw [h, Tab.length_set_of_has g' hs hg]
  refine ⟨h1, h2, fun sec => ?_⟩
  cases sec with
  | summary => unfold echoBody; rw [h1, h2, h3, h4]
  | _ => unfold echoBody; rw [h1]

theorem differs_health (hsetup : t.setup = s.setup) (hstore : t.store = s.store) (hpost : t.post = s.post)
    (hecho : ∀ sec, echoBody t sec = echoBody s sec) (h : s.differs t r) :
    ∃ i, r = .health i ∧ healthBody (t.sign i) ≠ healthBody (s.sign i) := by
  cases r with
  | health i => exact ⟨i, rfl, h⟩
  | echo sec => exact absurd (hecho sec) h
  | room i => exact absurd (by unfold State.room; rw [hstore]) h
  | enableEcho => exact absurd (by rw [hsetup]) h
  | guardAddress =>
    unfold State.differs at h
    rw [hpost] at h
    exact h.elim (absurd rfl) (absurd rfl)
  | _ => exact h.elim

/-- A composition closed hands the record of the sign it has changed, and no other. -/
theorem tells_closeComposition (hs : Tab.sorted s.signs = true) (c : Composition)
    (hR : ∀ i, s.differs (s.closeComposition c) (.health i) → R (.health i)) : Tells R E s (s.closeComposition c) := by
  obtain ⟨hsetup, hstore, hecho⟩ := endComposition_values hs c
  have hpost := post_endComposition s c
  have hseq := fun i => endComposition_counts s c i
  have hgives : ∀ R : Rec → Prop, (∀ i, listedBody ((s.endComposition c).sign i) ≠ listedBody (s.sign i)
      ∨ ((s.endComposition c).sign i).map (·.sequence) ≠ (s.sign i).map (·.sequence) → R (.health i)) →
      Gives R E (s.endComposition c) (s.closeComposition c) := fun R hR => gives_syncClosed _ s c.engine hR
  have hsame := (hgives (fun _ => True) fun _ _ => trivial).same
  refine tells_of (leaves_same hpost (by rw [path_endComposition])) (by rw [hsetup]) hstore (ringKept_same hpost)
    (hgives _ fun i hi => hR i fun he => ?_) fun r hr hd => ?_
  · rw [hsame.sign] at he
    obtain ⟨h1, h2⟩ := listed_of_health he (hseq i).1
    exact hi.elim (absurd h1) (absurd h2)
  · obtain ⟨i, rfl, hne⟩ := differs_health hsetup hstore hpost hecho hd
    refine handed_syncClosed ?_
    by_contra hn
    obtain ⟨h1, h2⟩ := not_or.1 hn
    refine hne (healthBody_congr (not_not.1 h1) ?_)
    cases he : c.engine with
    | none => exact (hseq i).2 he
    | some n => exact not_not.1 fun h => h2 ⟨by rw [he]; rfl, h⟩

theorem State.sameValues.symm (h : s.sameValues t) : t.sameValues s :=
  ⟨h.setup.symm, h.clock.symm, h.store.symm, h.signs.symm, h.guardAddress.symm, h.guardByte.symm, h.ring.symm, h.ringWrite.symm,
    h.flags.symm⟩

theorem State.sameValues.differs_left (h : s.sameValues u) (hd : u.differs t r) : s.differs t r :=
  (differs_split (t := s) hd).resolve_left (h.symm.not_differs r)

theorem State.sameValues.differs_right (h : t.sameValues u) (hd : s.differs t r) : s.differs u r :=
  (differs_split (t := u) hd).resolve_right (h.symm.not_differs r)

/-- A change that no record shows, before a piece that tells of its changes. -/
theorem tells_after (h1 : Leaves s u) (h2 : s.sameValues u) (h3 : Tells (u.differs t) E u t) : Tells (s.differs t) E s t :=
  (h1.tells h2).trans (h3.mono (fun _ => h2.differs_left) fun _ => id)

theorem tells_closeAfter (hs : Tab.sorted s.signs = true) (c : Composition) (h1 : Leaves s u) (h2 : s.sameValues u)
    (hR : ∀ i, s.differs (u.closeComposition c) (.health i) → R (.health i)) : Tells R E s (u.closeComposition c) :=
  (h1.tells h2).trans (tells_closeComposition (by rw [h2.signs]; exact hs) c fun i h => hR i (h2.differs_left h))

theorem tells_advance (hs : Tab.sorted s.signs = true) (hR : ∀ i, s.differs s.advance (.health i) → R (.health i)) :
    Tells R E s s.advance := by
  revert hR
  unfold State.advance
  split
  next => exact fun _ => .refl s
  next c hc =>
    dsimp only
    split
    · exact tells_closeAfter hs _ (leaves_same rfl rfl) ⟨rfl, rfl, rfl, rfl, rfl, rfl, rfl, rfl, rfl⟩
    · exact fun _ => Leaves.tells (leaves_same rfl rfl) ⟨rfl, rfl, rfl, rfl, rfl, rfl, rfl, rfl, rfl⟩

theorem tells_resumeComposition (hs : Tab.sorted s.signs = true) : Tells (s.differs s.resumeComposition) E s s.resumeComposition := by
  unfold State.resumeComposition
  split
  · split
    · exact tells_closeComposition hs _ fun _ h => h
    · exact .refl s
  · exact .refl s

end Sys2Proof.Machine
end

section
/-! What a command answers for the values it has changed; commands that change none, and those of the compositor. -/

namespace Sys2Proof.Machine

variable {s t u v old : State} {r : Rec} {R : Rec → Prop} {E : Event → Prop} {c : Instr}

/-! ## What a command answers -/

/-- The records of the call ring that a new entry, a raised count and a raised write count call for (R160). -/
structure State.ringTold (s t : State) : Prop where
  writes : t.post.ringWrite ≠ s.post.ringWrite → t.handed (.ringWriteCount t.post.ringWrite) = true
  made : ∀ e ∈ t.post.ring, (∀ o ∈ s.post.ring, o.sign ≠ e.sign) →
    t.handed (.ringEntry e.place e.sign (e.room.getD 0xFFFF) e.minute e.count) = true
  counted : ∀ e ∈ t.post.ring, ∀ o ∈ s.post.ring, o.sign = e.sign → o.count ≠ e.count → t.handed (.ringCount e.place e.count) = true

/-- Each record whose values have changed has been handed; in a RUNNING part, of the records not among `R` none has been; only the
events `E` are raised. -/
structure Answers (R : Rec → Prop) (E : Event → Prop) (s t : State) : Prop where
  tells : ∀ r, t.due r → (∀ i, r = .room i → t.room i ≠ none) → s.differs t r → t.handed r = true
  none : s.setup.phase = .running → ∀ r, s.due r → State.handsNone s t r ∨ R r
  ring : s.ringTold t
  raises : ∀ e : Event, t.raising e.mask = true → s.raising e.mask = true ∨ E e

/-- The records a command may hand in a RUNNING part: those whose values it has changed; of a sign's health it is claimed with
credits in their range, and not of a host access or the outcome of an exchange (R185). -/
def State.excused (s t : State) (c : Instr) : Rec → Prop
  | .health i => s.setup.inRange = true → s.creditsOk = true → isHostAccess c = false →
    (∀ n, c ≠ .answerTimeout n ∧ c ≠ .replyGap n ∧ ∀ r, c ≠ .reply n r) → healthBody (t.sign i) ≠ healthBody (s.sign i)
  | .echo sec => echoBody t sec ≠ echoBody s sec
  | .room i => roomBody (t.room i) ≠ roomBody (s.room i)
  | _ => True

theorem excused_of_differs (h : s.differs t r) : s.excused t c r := by
  cases r with
  | health i => exact fun _ _ _ _ => h
  | echo sec => exact h
  | room i => exact h
  | _ => trivial

/-- A command whose outcome answers for the values it has changed. -/
def State.told (s : State) (c : Instr) (o : Host.Outcome State Fault Refusal) : Prop :=
  ∃ t, o = .next t ∧ Answers (s.excused t c) (mayRaise c) s t

theorem ringTold_of_kept (hring : s.post.ringOk = true) (h : s.ringKept t) : s.ringTold t where
  writes := fun hne => absurd h.writes hne
  made := fun e he hno => absurd rfl (hno e (h.entries e he))
  counted := fun e he o ho hsign hcount => by
    obtain ⟨-, -, -, hnd, -⟩ := (PostUnit.ringOk_iff _).1 hring
    exact absurd (congrArg RingEntry.count (List.inj_on_of_nodup_map hnd ho (h.entries e he) hsign)) hcount

theorem due_of_phase (h : t.setup.phase = s.setup.phase) (hr : t.due r) : s.due r := due_congr h.symm hr

theorem Tells.answers (hring : s.post.ringOk = true) (h : Tells R E s t) : Answers R E s t where
  tells := fun r hr _ hd => h.tells r (due_of_phase h.phase hr) hd
  none := fun _ r hr => (h.each r hr).imp State.still.handsNone And.left
  ring := ringTold_of_kept hring h.ring
  raises := h.raises

theorem told_of (hring : s.post.ringOk = true) (h : Tells (s.excused t c) (mayRaise c) s t) : s.told c (.next t) :=
  ⟨t, rfl, h.answers hring⟩

theorem told_of_tells (hring : s.post.ringOk = true) (h : Tells (s.differs t) (mayRaise c) s t) : s.told c (.next t) :=
  told_of hring (h.mono (fun _ => excused_of_differs) fun _ => id)

theorem told_working {f : State → State} (ha : s.active = true) (h : s.told c (.next (f s))) : s.told c (.next (s.working f)) := by
  unfold State.working
  rwa [if_pos ha]

/-! ## Commands that change no value shown -/

/-- Nothing shown has changed, and no record is on its way or in the queue that was not. -/
structure State.silent (s t : State) : Prop where
  same : s.sameValues t
  post : t.post = s.post
  queue : t.path.postQueue = s.path.postQueue

theorem State.silent.tells (h : s.silent t) : Tells R E s t := (leaves_same h.post h.queue).tells h.same

theorem State.silent.refl (s : State) : s.silent s := ⟨.refl s, rfl, rfl⟩

theorem State.silent.trans (h1 : s.silent t) (h2 : t.silent u) : s.silent u :=
  ⟨h1.same.trans h2.same, h2.post.trans h1.post, h2.queue.trans h1.queue⟩

/-- The text pool's part of the state is shown by no record. -/
theorem State.silent.pool (h : s.silent u) (k : Compositor) (x : TextCache) (q : List Nat) :
    s.silent { u with comp := k, cache := x, path := { u.path with fillQueue := q } } :=
  ⟨⟨h.same.setup, h.same.clock, h.same.store, h.same.signs, h.same.guardAddress, h.same.guardByte, h.same.ring, h.same.ringWrite,
    h.same.flags⟩, h.post, h.queue⟩

theorem silent_handToPort (s : State) (n : Fin 4) : s.silent (s.handToPort n) := by
  obtain ⟨e, p, h, -⟩ := handToPort_eq s n
  rw [h]
  exact ⟨⟨rfl, rfl, rfl, rfl, rfl, rfl, rfl, rfl, rfl⟩, rfl, rfl⟩

theorem silent_setEngine (s : State) (n : Fin 4) (e : Engine) : s.silent (s.setEngine n e) :=
  ⟨⟨rfl, rfl, rfl, rfl, rfl, rfl, rfl, rfl, rfl⟩, rfl, rfl⟩

theorem silent_chooseWork (s : State) (n : Fin 4) : s.silent (s.chooseWork n) := by
  unfold State.chooseWork
  dsimp only
  split
  · exact (silent_setEngine s n _).trans (silent_handToPort _ n)
  split
  · exact silent_setEngine s n _
  split
  · exact (silent_setEngine s n _).trans (silent_handToPort _ n)
  split
  · exact silent_setEngine s n _
  split
  · exact silent_setEngine s n _
  · exact silent_setEngine s n _

theorem silent_portIdle (s : State) (n : Fin 4) : s.silent (s.portIdle n) := by
  have h : s.silent (s.setPort n { s.port n with state := .idle }) := ⟨⟨rfl, rfl, rfl, rfl, rfl, rfl, rfl, rfl, rfl⟩, rfl, rfl⟩
  exact h.trans (silent_handToPort _ n)

theorem silent_simulated (s : State) (k : Check) (off : Nat) (o : Simulated) : s.silent (s.simulated k off o) := by
  unfold State.simulated
  cases o <;> exact ⟨⟨rfl, rfl, rfl, rfl, rfl, rfl, rfl, rfl, rfl⟩, rfl, rfl⟩

theorem told_silent (hring : s.post.ringOk = true) (h : s.silent t) : s.told c (.next t) := told_of_tells hring h.tells

theorem told_silent_ite {p : Prop} [Decidable p] (hring : s.post.ringOk = true) (h : s.silent t) :
    s.told c (.next (if p then t else s)) := by
  split
  · exact told_silent hring h
  · exact told_silent hring (.refl s)

section Silent

variable (ha : s.active = true) (hring : s.post.ringOk = true)
include hring

theorem told_engineChoose (n : Fin 4) : s.told c (execEngineChoose n s) := told_silent_ite hring (silent_chooseWork s n)

theorem told_sweepTimerExpiry (n : Fin 4) : s.told c (execSweepTimerExpiry n s) := told_silent_ite hring (silent_setEngine s n _)

theorem told_loneBreakEnd (n : Fin 4) : s.told c (execLoneBreakEnd n s) := told_silent_ite hring (silent_portIdle s n)

theorem told_quietTimeEnd (n : Fin 4) : s.told c (execQuietTimeEnd n s) := told_silent_ite hring (silent_portIdle s n)

theorem told_frameSent (n : Fin 4) : s.told c (execFrameSent n s) := by
  unfold execFrameSent
  refine told_silent_ite hring ?_
  split <;> exact ⟨⟨rfl, rfl, rfl, rfl, rfl, rfl, rfl, rfl, rfl⟩, rfl, rfl⟩

theorem told_minuteFall : s.told c (execMinuteFall s) :=
  told_silent_ite hring ⟨⟨rfl, rfl, rfl, rfl, rfl, rfl, rfl, rfl, rfl⟩, rfl, rfl⟩

theorem told_insistStall : s.told c (execInsistStall s) :=
  told_silent_ite hring ⟨⟨rfl, rfl, rfl, rfl, rfl, rfl, rfl, rfl, rfl⟩, rfl, rfl⟩

include ha

/-- An entry simulated changes the working copy of the check alone (R12, R37). -/
theorem told_entry {f : State → State} (h : f s = s ∨ ∃ k off o, f s = s.simulated k off o) : s.told c (.next (s.working f)) := by
  refine told_working ha (told_silent hring ?_)
  rcases h with h | ⟨k, off, o, h⟩
  · rw [h]
    exact .refl s
  · rw [h]
    exact silent_simulated s k off o

end Silent

/-! ## Compositions begun, and fills read (R72, R98, R100) -/

theorem dirtied_silent (h : s.dirtied t) : s.silent t := by
  obtain ⟨d, rfl, -⟩ := h
  exact ⟨⟨rfl, rfl, rfl, rfl, rfl, rfl, rfl, rfl, rfl⟩, rfl, rfl⟩

theorem tells_advance_after (hs : Tab.sorted s.signs = true) (h : s.silent u) : Tells (s.differs u.advance) E s u.advance :=
  tells_after (leaves_same h.post h.queue) h.same (tells_advance (by rw [h.same.signs]; exact hs) fun _ h => h)

theorem tells_beginComposition (hs : Tab.sorted s.signs = true) (h : s.silent u) (i : Nat) (g : Sign) (n : Option (Fin 4)) :
    Tells (s.differs (u.beginComposition i g n)) E s (u.beginComposition i g n) :=
  tells_advance_after hs (h.pool _ _ u.path.fillQueue)

theorem silent_searchDirty (l : List Nat) (s : State) : s.silent (searchDirty l s).1 := dirtied_silent (searchDirty_spec l s).1

theorem tells_serveDirty (hs : Tab.sorted s.signs = true) : Tells (s.differs s.serveDirty) E s s.serveDirty := by
  have h := silent_searchDirty (searchOrder s.comp.servicePos s.comp.dirty) s
  unfold State.serveDirty
  dsimp only
  split
  · exact h.tells
  · exact tells_beginComposition hs (h.pool _ _ _) _ _ _

theorem tells_serveRequest (hs : Tab.sorted s.signs = true) (n : Fin 4) (i : Nat) :
    Tells (s.differs (s.serveRequest n i)) E s (s.serveRequest n i) := by
  unfold State.serveRequest
  split
  · exact .refl s
  · exact tells_beginComposition hs ((State.silent.refl s).pool _ _ _) _ _ _

theorem silent_noteChoice (s : State) (b : Bool) : s.silent (s.noteChoice b).ownAccessMade := by
  obtain ⟨k, hk⟩ := noteChoice_eq s b
  rw [hk]
  exact ⟨⟨rfl, rfl, rfl, rfl, rfl, rfl, rfl, rfl, rfl⟩, rfl, rfl⟩

theorem silent_arrive (s : State) (f : Fill) : s.silent (s.arrive f) := by
  unfold State.arrive
  dsimp only
  split
  · exact ⟨⟨rfl, rfl, rfl, rfl, rfl, rfl, rfl, rfl, rfl⟩, rfl, rfl⟩
  split <;> exact ⟨⟨rfl, rfl, rfl, rfl, rfl, rfl, rfl, rfl, rfl⟩, rfl, rfl⟩

theorem tells_makeFillRead (hs : Tab.sorted s.signs = true) : Tells (s.differs s.makeFillRead) E s s.makeFillRead := by
  have h := silent_noteChoice s false
  unfold State.makeFillRead
  split
  · exact .refl s
  · dsimp only
    split
    · exact (h.pool _ _ _).tells
    · split
      · exact (h.pool _ _ _).tells
      · exact tells_advance_after hs ((h.pool _ _ _).trans (silent_arrive _ _))

section Compositor

variable (hring : s.post.ringOk = true) (hs : Tab.sorted s.signs = true)
include hring hs

theorem told_dirtyComposition : s.told c (execDirtyComposition s) := by
  unfold execDirtyComposition
  split
  · exact told_of_tells hring (tells_serveDirty hs)
  · exact told_silent hring (.refl s)

theorem told_sendTimeComposition : s.told c (execSendTimeComposition s) := by
  unfold execSendTimeComposition
  split
  · split
    · exact told_of_tells hring (tells_serveRequest hs _ _)
    · exact told_silent hring (.refl s)
  · exact told_silent hring (.refl s)

theorem told_fillRead : s.told c (execFillRead s) := by
  unfold execFillRead
  split
  · exact told_of_tells hring (tells_makeFillRead hs)
  · exact told_silent hring (.refl s)

end Compositor

end Sys2Proof.Machine
end

section
/-! What the outcomes of exchanges, refresh timers and presses answer (R143, R148 to R157, R160, R185). -/

namespace Sys2Proof.Machine

variable {s t u v old : State} {r : Rec} {R : Rec → Prop} {E : Event → Prop} {c : Instr} {n : Fin 4}

/-! ## Signs changed, with nothing else shown -/

/-- `u` shows what `s` shows but for the records of its signs, and the same slots are defined. -/
structure State.rosters (s u : State) : Prop where
  setup : u.setup = s.setup
  clock : u.clock = s.clock
  store : u.store = s.store
  post : u.post = s.post
  queue : u.path.postQueue = s.path.postQueue
  signs : Tab.sorted s.signs = true → Tab.sorted u.signs = true ∧ u.signs.length = s.signs.length

theorem State.rosters.refl (s : State) : s.rosters s := ⟨rfl, rfl, rfl, rfl, rfl, fun h => ⟨h, rfl⟩⟩

theorem State.rosters.trans (h1 : s.rosters t) (h2 : t.rosters u) : s.rosters u :=
  ⟨h2.setup.trans h1.setup, h2.clock.trans h1.clock, h2.store.trans h1.store, h2.post.trans h1.post, h2.queue.trans h1.queue,
    fun h => ⟨(h2.signs (h1.signs h).1).1, (h2.signs (h1.signs h).1).2.trans (h1.signs h).2⟩⟩

theorem State.silent.rosters (h : s.silent t) : s.rosters t :=
  ⟨h.same.setup, h.same.clock, h.same.store, h.post, h.queue, fun hs => by rw [h.same.signs]; exact ⟨hs, rfl⟩⟩

theorem rosters_setSign {i : Nat} {g : Sign} (hg : s.sign i = some g) (g' : Sign) : s.rosters (s.setSign i g') :=
  ⟨rfl, rfl, rfl, rfl, rfl, fun hs => ⟨Tab.sorted_set i g' hs, Tab.length_set_of_has g' hs hg⟩⟩

theorem State.rosters.echoBody (hs : Tab.sorted s.signs = true) (h : s.rosters u) (sec : Section) : echoBody u sec = echoBody s sec := by
  cases sec with
  | summary => unfold Machine.echoBody; rw [h.setup, h.clock, h.store, (h.signs hs).2]
  | _ => unfold Machine.echoBody; rw [h.setup]

/-- Signs change and the records of those whose health has changed are handed. -/
theorem State.rosters.tells (hs : Tab.sorted s.signs = true) (h1 : s.rosters u) (h2 : Gives R E u t)
    (h3 : ∀ i, healthBody (u.sign i) ≠ healthBody (s.sign i) → t.handed (.health i) = true) : Tells R E s t := by
  refine tells_of (leaves_same h1.post h1.queue) (by rw [h1.setup]) h1.store (ringKept_same h1.post) h2 fun r _ hd => ?_
  obtain ⟨i, rfl, hne⟩ := differs_health h1.setup h1.store h1.post (h1.echoBody hs) hd
  exact h3 i hne

theorem silent_updateEngine (s : State) (n : Fin 4) (f : Engine → Engine) : s.silent (s.updateEngine n f) := silent_setEngine s n _

theorem silent_owe (s : State) (n : Fin 4) (a : Nat) (m : ClearMask) : s.silent (s.owe n a m) := silent_setEngine s n _

theorem silent_markDirty (s : State) (i : Nat) : s.silent (s.markDirty i) := dirtied_silent (dirtied_markDirty s i)

theorem silent_setLists (s : State) (n : Fin 4) (l : FaceLists) : s.silent (s.setLists n l) :=
  ⟨⟨rfl, rfl, rfl, rfl, rfl, rfl, rfl, rfl, rfl⟩, rfl, rfl⟩

theorem silent_setPort (s : State) (n : Fin 4) (p : Port) : s.silent (s.setPort n p) :=
  ⟨⟨rfl, rfl, rfl, rfl, rfl, rfl, rfl, rfl, rfl⟩, rfl, rfl⟩

theorem rosters_handleFlags (s : State) (n : Fin 4) (i a : Nat) (m : ClearMask) (f : SignFlags) :
    s.rosters (s.handleFlags n i a m f).1 := by
  unfold State.handleFlags
  split
  · exact .refl s
  · next g hg =>
    dsimp only
    have h1 : s.rosters (if (f.btn && !(s.engine n).clearsBtn a) = true then
        s.updateEngine n fun e => { e with presses := e.presses ++ [{ slot := i, address := a }] } else s)
        ∧ (if (f.btn && !(s.engine n).clearsBtn a) = true then
        s.updateEngine n fun e => { e with presses := e.presses ++ [{ slot := i, address := a }] } else s).sign i = some g := by
      split
      · exact ⟨(silent_updateEngine s n _).rosters, hg⟩
      · exact ⟨.refl s, hg⟩
    revert h1
    generalize (if (f.btn && !(s.engine n).clearsBtn a) = true then
        s.updateEngine n fun e => { e with presses := e.presses ++ [{ slot := i, address := a }] } else s) = x
    intro ⟨h1, hx⟩
    have h2 := fun g' => h1.trans (rosters_setSign hx g')
    split <;> split
    · exact ((h2 _).trans (silent_markDirty _ i).rosters).trans (silent_owe _ n a _).rosters
    · exact (h2 _).trans (silent_owe _ n a _).rosters
    · exact (h2 _).trans (silent_markDirty _ i).rosters
    · exact h2 _

/-! ## Outcomes (R137, R150 to R157) -/

theorem gives_endOutcome (s old : State) (n : Fin 4) {always : List Nat} {raises : Tab (BitVec 13)}
    (hR : ∀ i, healthBody (s.sign i) ≠ healthBody (old.sign i) ∨ i ∈ always ∨ Tab.has raises i = true → R (.health i))
    (hE : ∀ i f, Tab.get raises i = some f → ∀ e : Event, f.getLsbD e.bit = true → E e) :
    Gives R E s (s.endOutcome old n always raises) :=
  ((gives_syncHealth s old (p := .engine n) nofun hR hE).trans (gives_setEngine _ n _)).trans (gives_settleEngine _ n)

theorem handed_endOutcome {always : List Nat} {raises : Tab (BitVec 13)} {i : Nat}
    (h : healthBody (s.sign i) ≠ healthBody (old.sign i)) : (s.endOutcome old n always raises).handed (.health i) = true :=
  ((gives_setEngine (R := fun _ => True) (E := fun _ => True) _ n _).trans (gives_settleEngine _ n)).keeps (r := .health i) trivial
    (handed_syncHealth (p := .engine n) nofun h)

/-- An outcome acted on: the signs it has changed are told of, and the events it raises are among `E`. -/
theorem tells_outcome (hs : Tab.sorted s.signs = true) (h : s.rosters u) {always : List Nat} {raises : Tab (BitVec 13)}
    (hR : ∀ i, R (.health i)) (hE : ∀ i f, Tab.get raises i = some f → ∀ e : Event, f.getLsbD e.bit = true → E e) :
    Tells R E s (u.endOutcome s n always raises) :=
  h.tells hs (gives_endOutcome u s n (fun i _ => hR i) hE) fun _ => handed_endOutcome

theorem raisesAt_bits {i : Nat} {f : BitVec 13} (hf : ∀ e : Event, f.getLsbD e.bit = true → E e) :
    ∀ j x, Tab.get (raisesAt i f) j = some x → ∀ e : Event, x.getLsbD e.bit = true → E e := by
  intro j x hx e he
  have h := get_raisesAt i j f
  rw [hx, Option.getD_some] at h
  split at h
  · exact hf e (by rwa [h] at he)
  · rw [h, getLsbD_zero13] at he
    cases he

theorem replyRaises_bits {seen f : SignFlags} {m : ClearMask} {e : Event} (h : (replyRaises seen f m).getLsbD e.bit = true) :
    e = .powerup ∨ e = .lowbat ∨ e = .fault := by
  unfold replyRaises at h
  rw [BitVec.getLsbD_or, BitVec.getLsbD_or, Bool.or_eq_true, Bool.or_eq_true, getLsbD_when, getLsbD_when, getLsbD_when] at h
  rcases h with (h | h) | h
  · exact .inl h.1
  · exact .inr (.inl h.1)
  · exact .inr (.inr h.1)

theorem handleFlags_bits {i a : Nat} {m : ClearMask} {f : SignFlags} {e : Event}
    (h : (s.handleFlags n i a m f).2.getLsbD e.bit = true) : e = .powerup ∨ e = .lowbat ∨ e = .fault := by
  unfold State.handleFlags at h
  split at h
  · rw [getLsbD_zero13] at h
    cases h
  · exact replyRaises_bits h

section Outcomes

variable (hs : Tab.sorted s.signs = true) (hR : ∀ i, R (.health i)) (hlost : E .lost)
include hs hR

theorem tells_plainOutcome (h : s.rosters u) : Tells R E s (u.endOutcome s n [] []) := tells_outcome hs h hR fun _ _ h => by cases h

include hlost

theorem tells_lost {i a : Nat} {g : Sign} (hg : s.sign i = some g) :
    Tells R E s ((s.loseSign n i a g).endOutcome s n [] (raisesAt i Event.lost.mask)) := by
  refine tells_outcome hs ?_ hR (raisesAt_bits fun e he => ?_)
  · unfold State.loseSign State.leaveLists State.unowe
    exact (rosters_setSign hg (lostSign g)).trans ((silent_setLists _ _ _).trans (silent_updateEngine _ _ _)).rosters
  · rw [getLsbD_mask] at he
    exact he ▸ hlost

theorem tells_onBadQuery (i a : Nat) (m : ClearMask) : Tells R E s (s.onBadQuery n i a m) := by
  unfold State.onBadQuery
  split
  · exact tells_plainOutcome hs hR (.refl s)
  · next g hg =>
    split
    · exact tells_lost hs hR hlost hg
    · exact tells_plainOutcome hs hR ((rosters_setSign hg _).trans (silent_owe _ n a m).rosters)

theorem tells_onBadFace (i a : Nat) (q : Byte) (k : Rank) (record : FaceRecord) : Tells R E s (s.onBadFace n i a q k record) := by
  unfold State.onBadFace
  split
  · exact tells_plainOutcome hs hR (.refl s)
  · next g hg =>
    split
    · exact tells_lost hs hR hlost hg
    · exact tells_plainOutcome hs hR ((rosters_setSign hg _).trans ((silent_setLists _ _ _).trans (silent_owe _ n a _)).rosters)

omit hlost
variable (hflags : ∀ e : Event, e = .powerup ∨ e = .lowbat ∨ e = .fault → E e)
include hflags

theorem tells_flagged (h : s.rosters u) (i a : Nat) (m : ClearMask) (f : SignFlags) (always : List Nat) :
    Tells R E s ((u.handleFlags n i a m f).1.endOutcome s n always (raisesAt i (u.handleFlags n i a m f).2)) :=
  tells_outcome hs (h.trans (rosters_handleFlags u n i a m f)) hR (raisesAt_bits fun e he => hflags e (handleFlags_bits he))

theorem tells_onStatus (i a : Nat) (m : ClearMask) (f : SignFlags) (last : Byte) : Tells R E s (s.onStatus n i a m f last) := by
  unfold State.onStatus
  split
  · exact tells_plainOutcome hs hR (.refl s)
  · next g hg =>
    dsimp only
    refine tells_flagged hs hR hflags ?_ i a m f [i]
    split
    · exact (rosters_setSign hg _).trans (silent_markDirty _ i).rosters
    · exact rosters_setSign hg _

theorem tells_onAccept (i a : Nat) (record : FaceRecord) (f : SignFlags) : Tells R E s (s.onAccept n i a record f) := by
  unfold State.onAccept
  split
  · exact tells_plainOutcome hs hR (.refl s)
  · next g hg => exact tells_flagged hs hR hflags (rosters_setSign hg _) i a .query f []

theorem tells_onBusy (i a : Nat) (k : Rank) (f : SignFlags) : Tells R E s (s.onBusy n i a k f) := by
  unfold State.onBusy
  split
  · exact tells_plainOutcome hs hR (.refl s)
  · next g hg =>
    exact tells_flagged hs hR hflags ((rosters_setSign hg _).trans (silent_setLists _ _ _).rosters) i a .query f []

end Outcomes

/-- A reply judged: a good one raises what its flags tell, a bad one LOST (R150, R151). -/
theorem tells_onOutcome (hs : Tab.sorted s.signs = true) (hR : ∀ i, R (.health i)) (hlost : E .lost) {o : ReplyOutcome}
    (hflags : o ≠ .bad → ∀ e : Event, e = .powerup ∨ e = .lowbat ∨ e = .fault → E e) (x : Exchange) (ignored : Bool) :
    Tells R E s (s.onOutcome n x ignored o) := by
  unfold State.onOutcome
  split
  · exact tells_plainOutcome hs hR (.refl s)
  split
  · exact tells_onStatus hs hR (hflags nofun) _ _ _ _ _
  · exact tells_onBadQuery hs hR hlost _ _ _
  · exact tells_onStatus hs hR (hflags nofun) _ _ _ _ _
  · exact tells_onBadQuery hs hR hlost _ _ _
  · exact tells_onAccept hs hR (hflags nofun) _ _ _ _
  · exact tells_onBusy hs hR (hflags nofun) _ _ _ _
  · exact tells_onBadFace hs hR hlost _ _ _ _ _
  · exact .refl s

theorem tells_takeReply (hs : Tab.sorted s.signs = true) (hR : ∀ i, R (.health i)) (hlost : E .lost) {o : Exchange → ReplyOutcome}
    (hflags : (∃ x, o x ≠ .bad) → ∀ e : Event, e = .powerup ∨ e = .lowbat ∨ e = .fault → E e) : Tells R E s (s.takeReply n o) := by
  unfold State.takeReply
  split
  · dsimp only
    split
    · have hq := fun q => silent_setPort s n { s.port n with state := .quiet, quiet := q }
      exact (hq _).tells.trans (tells_onOutcome (s := s.portQuiet n _) hs hR hlost (fun hne => hflags ⟨_, hne⟩) _ _)
    · exact .refl s
  · exact .refl s

end Sys2Proof.Machine
end

section
/-! What replies, slot maps, refresh timers and presses answer (R128, R143, R148, R160). -/

namespace Sys2Proof.Machine

variable {s t u v old : State} {r : Rec} {R : Rec → Prop} {E : Event → Prop} {c : Instr} {n : Fin 4}

/-! ## Replies -/

section Replies

variable (hring : s.post.ringOk = true) (hs : Tab.sorted s.signs = true) (n : Fin 4)
include hring hs

theorem told_reply (r : Reply) : s.told (.reply n r) (execReply n r s) := by
  unfold execReply
  split
  · refine told_of hring (tells_takeReply hs (fun i _ _ _ h => absurd rfl ((h n).2.2 r)) ⟨n, .inr (.inr ⟨r, rfl⟩)⟩ fun _ e he => ?_)
    rcases he with rfl | rfl | rfl <;> exact ⟨n, r, rfl⟩
  · exact told_silent hring (.refl s)

theorem told_answerTimeout : s.told (.answerTimeout n) (execAnswerTimeout n s) := by
  unfold execAnswerTimeout
  split
  · exact told_of hring (tells_takeReply hs (fun i _ _ _ h => absurd rfl (h n).1) ⟨n, .inl rfl⟩ fun ⟨_, h⟩ => absurd rfl h)
  · exact told_silent hring (.refl s)

theorem told_replyGap : s.told (.replyGap n) (execReplyGap n s) := by
  unfold execReplyGap
  split
  · exact told_of hring (tells_takeReply hs (fun i _ _ _ h => absurd rfl (h n).2.1) ⟨n, .inr (.inl rfl)⟩ fun ⟨_, h⟩ => absurd rfl h)
  · exact told_silent hring (.refl s)

end Replies

/-! ## Slot maps (R148) -/

/-- A health record tells a sign's state. -/
theorem state_of_health {g g' : Sign} (h : healthBody (some g) = healthBody (some g')) :
    signStateCode g.state % 16 = signStateCode g'.state % 16 := by
  have hw := congrArg BitVec.toNat (List.cons.inj h).1
  simp only [wordOf, place, BitVec.toNat_ofNat] at hw
  omega

theorem lost_of_code {x : SignState} (h : signStateCode x % 16 = signStateCode .lost % 16) : x = .lost := by
  cases x <;> first | rfl | exact absurd h (by decide)

/-- The signs a slot map has brought back so far, and the raises gathered for them. -/
structure State.marked (s : State) (x : State × Tab (BitVec 13)) : Prop where
  rosters : s.rosters x.1
  back : ∀ i f, Tab.get x.2 i = some f → f = Event.back.mask ∧ ∃ g g', s.sign i = some g ∧ g.state = .lost ∧ x.1.sign i = some g'
    ∧ g'.state ≠ .lost
  kept : ∀ i, Tab.get x.2 i = none → x.1.sign i = s.sign i

theorem marked_handleMark (hs : Tab.sorted s.signs = true) {x : State × Tab (BitVec 13)} (h : s.marked x) (n : Fin 4) (p : Bool)
    (m : BitVec 128) (a : Nat) : s.marked (State.handleMark x n p m a) := by
  unfold State.handleMark
  split
  · exact h
  · next i g hg =>
    have hx := (signAt_some (h.rosters.signs hs).1 hg).1
    split
    · next hl =>
      split
      · have hnone : Tab.get x.2 i = none := by
          cases hf : Tab.get x.2 i with
          | none => rfl
          | some f =>
            obtain ⟨-, -, g', -, -, hg', hne⟩ := h.back i f hf
            rw [hx] at hg'
            cases hg'
            exact absurd hl hne
        have hsi : s.sign i = some g := (h.kept i hnone).symm.trans hx
        have hsign : ∀ j, ((x.1.setSign i (backSign x.1.setup.styles g)).markDirty i).sign j
            = if j = i then some (backSign x.1.setup.styles g) else x.1.sign j := fun j => by
          rw [(silent_markDirty _ i).same.sign]
          exact Tab.get_set _ _ _ _
        refine ⟨(h.rosters.trans (rosters_setSign hx _)).trans (silent_markDirty _ i).rosters, fun j f hf => ?_, fun j hj => ?_⟩
        · dsimp only at hf ⊢
          rw [Tab.get_set] at hf
          rw [hsign]
          split at hf
          · next hji =>
            cases hf
            exact ⟨rfl, g, backSign x.1.setup.styles g, by rw [hji, hsi], hl, by rw [if_pos hji], SignState.noConfusion⟩
          · next hji =>
            rw [if_neg hji]
            exact h.back j f hf
        · dsimp only at hj ⊢
          rw [Tab.get_set] at hj
          split at hj
          · cases hj
          · next hji =>
            rw [hsign, if_neg hji]
            exact h.kept j hj
      · exact h
    · split
      · exact ⟨h.rosters.trans (silent_owe _ n a _).rosters, h.back, h.kept⟩
      · exact h

theorem marked_foldl (hs : Tab.sorted s.signs = true) {x : State × Tab (BitVec 13)} (h : s.marked x) (n : Fin 4) (p : Bool)
    (m : BitVec 128) (l : List Nat) : s.marked (l.foldl (fun y a => State.handleMark y n p m a) x) := by
  induction l generalizing x with
  | nil => exact h
  | cons a l ih => exact ih (marked_handleMark hs h n p m a)

theorem tells_onMap (hs : Tab.sorted s.signs = true) (hback : E .back) (p : Bool) (m : BitVec 128) :
    Tells (s.differs (s.onMap n p m)) E s (s.onMap n p m) := by
  have hm : s.marked ((List.range 128).foldl (fun y a => State.handleMark y n p m a) (s, [])) :=
    marked_foldl hs ⟨.refl s, fun _ _ h => (by cases h), fun _ _ => rfl⟩ n p m _
  unfold State.onMap
  dsimp only
  generalize (List.range 128).foldl (fun y a => State.handleMark y n p m a) (s, []) = x at hm
  have hgives : ∀ R : Rec → Prop, (∀ i, healthBody (x.1.sign i) ≠ healthBody (s.sign i) → R (.health i)) →
      Gives R E (x.1.updateEngine n (sweptEngine p)) ((x.1.updateEngine n (sweptEngine p)).endOutcome s n [] x.2) := fun R hR => by
    refine gives_endOutcome _ s n (fun i hi => ?_) fun i f hf e he => ?_
    · rcases hi with hi | hi | hi
      · exact hR i hi
      · cases hi
      · obtain ⟨f, hf⟩ := Tab.has_iff.1 hi
        obtain ⟨-, g, g', hg, hl, hg', hne⟩ := hm.back i f hf
        refine hR i fun he => hne (lost_of_code ?_)
        rw [hg, hg'] at he
        rw [state_of_health he, hl]
    · rw [(hm.back i f hf).1, getLsbD_mask] at he
      exact he ▸ hback
  refine State.rosters.tells hs (hm.rosters.trans (silent_updateEngine _ n _).rosters) (hgives _ fun i hi => ?_) fun i =>
    handed_endOutcome
  show healthBody _ ≠ healthBody _
  rw [(hgives (fun _ => True) fun _ _ => trivial).same.sign]
  exact hi

theorem told_slotsEnd (hring : s.post.ringOk = true) (hs : Tab.sorted s.signs = true) (m : BitVec 128) :
    s.told (.slotsEnd n m) (execSlotsEnd n m s) := by
  unfold execSlotsEnd
  split
  · split
    · have hq := silent_setPort s n { s.port n with state := .quiet, quiet := .afterSweep }
      exact told_of_tells hring (tells_after (leaves_same hq.post hq.queue) hq.same
        (tells_onMap (s := s.portQuiet n .afterSweep) hs ⟨n, m, rfl⟩ _ m))
    · exact told_silent hring (.refl s)
  · exact told_silent hring (.refl s)

/-! ## Refresh timers (R143) -/

theorem told_refreshTimerExpiry (hring : s.post.ringOk = true) (hs : Tab.sorted s.signs = true) (i : Fin 512) :
    s.told c (execRefreshTimerExpiry i s) := by
  unfold execRefreshTimerExpiry
  split
  · next g hg =>
    split
    · refine told_of_tells hring ?_
      have hgives : ∀ R : Rec → Prop, _ → Gives R (mayRaise c) _ ((s.setSign i.val { g with timer := none, state := s.afterRefresh i.val g }).syncHealth s
          (.engine g.defn.line)) := fun R => gives_syncHealth_plain _ s (p := .engine g.defn.line) nofun
      refine (rosters_setSign hg _).tells hs (hgives _ fun j hj => ?_) fun j => handed_syncHealth (p := .engine g.defn.line) nofun
      show healthBody _ ≠ healthBody _
      rw [(hgives (fun _ => True) fun _ _ => trivial).same.sign]
      exact hj
    · exact told_silent hring (.refl s)
  · exact told_silent hring (.refl s)

end Sys2Proof.Machine
end

section
/-! What the clock's commands, the setup words and the steps of a batch answer (R6, R35 to R43, R49 to R54, R180 to R189). -/

namespace Sys2Proof.Machine

variable {s t u v old : State} {r : Rec} {R : Rec → Prop} {E : Event → Prop} {c : Instr} {n : Fin 4} {f : BitVec 13}

/-! ## Changes that only an echo section shows -/

/-- `u` differs from `s` in nothing a record shows but what the echo sections show. -/
structure State.echoes (s u : State) : Prop where
  post : u.post = s.post
  queue : u.path.postQueue = s.path.postQueue
  phase : u.setup.phase = s.setup.phase
  enable : u.setup.enable = s.setup.enable
  store : u.store = s.store
  signs : u.signs = s.signs

theorem State.silent.echoes (h : s.silent u) : s.echoes u :=
  ⟨h.post, h.queue, by rw [h.same.setup], by rw [h.same.setup], h.same.store, h.same.signs⟩

theorem State.echoes.trans (h1 : s.echoes t) (h2 : t.echoes u) : s.echoes u :=
  ⟨h2.post.trans h1.post, h2.queue.trans h1.queue, h2.phase.trans h1.phase, h2.enable.trans h1.enable, h2.store.trans h1.store,
    h2.signs.trans h1.signs⟩

theorem State.echoes.differs (h : s.echoes u) (hd : s.differs u r) : ∃ sec, r = .echo sec ∧ echoBody u sec ≠ echoBody s sec := by
  cases r with
  | echo sec => exact ⟨sec, rfl, hd⟩
  | health i => exact absurd (by unfold State.sign; rw [h.signs]) hd
  | room i => exact absurd (by unfold State.room; rw [h.store]) hd
  | enableEcho => exact absurd h.enable hd
  | guardAddress =>
    unfold State.differs at hd
    rw [h.post] at hd
    exact hd.elim (absurd rfl) (absurd rfl)
  | _ => exact hd.elim

/-- Values of echo sections change, the pieces of the command go on, and the changed sections are posted. -/
theorem tells_echoClosing (h1 : s.echoes u) (h2 : Tells R E u v) (hv : ∀ sec, echoBody v sec = echoBody u sec)
    (hold : ∀ sec, echoBody old sec = echoBody s sec) (hR : ∀ sec, s.differs (v.syncEcho old f) (.echo sec) → R (.echo sec))
    (hE : ∀ e : Event, f.getLsbD e.bit = true → E e) : Tells R E s (v.syncEcho old f) := by
  have hgives : ∀ R : Rec → Prop, (∀ sec, echoBody v sec ≠ echoBody old sec → R (.echo sec)) → Gives R E v (v.syncEcho old f) :=
    fun R hR => gives_syncEcho v old hR hE
  refine tells_closing (leaves_same h1.post h1.queue) h1.phase h1.store (ringKept_same h1.post) h2
    (hgives _ fun sec hne => hR sec fun he => hne ?_) fun r hr hd => ?_
  · rw [(hgives (fun _ => True) fun _ _ => trivial).same.echoBody] at he
    rw [he, hold]
  · obtain ⟨sec, rfl, hne⟩ := h1.differs hd
    exact handed_syncEcho (due_congr h2.phase (due_congr h1.phase hr)) (by rw [hv, hold]; exact hne)

theorem tells_syncEcho (h1 : s.echoes u) (hold : ∀ sec, echoBody old sec = echoBody s sec)
    (hE : ∀ e : Event, f.getLsbD e.bit = true → E e) : Tells (s.differs (u.syncEcho old f)) E s (u.syncEcho old f) :=
  tells_echoClosing h1 (.refl u) (fun _ => rfl) hold (fun _ h => h) hE

/-- A change that no record shows. -/
theorem tells_unshown (h1 : s.echoes u) (h : ∀ sec, echoBody u sec = echoBody s sec) : Tells R E s u :=
  tells_of (leaves_same h1.post h1.queue) h1.phase h1.store (ringKept_same h1.post) (.refl u) fun r _ hd => by
    obtain ⟨sec, -, hne⟩ := h1.differs hd
    exact absurd (h sec) hne

/-! ## Minute events (R49, R50) -/

theorem silent_markWhere (s : State) (p : Nat × Sign → Bool) : s.silent (s.markWhere p) := dirtied_silent (dirtied_markWhere s p)

theorem bits_zero : ∀ e : Event, (0 : BitVec 13).getLsbD e.bit = true → E e := fun e he => by
  rw [getLsbD_zero13] at he
  cases he

theorem bits_when {x : Event} {b : Bool} (hx : E x) : ∀ e : Event, (Event.when x b).getLsbD e.bit = true → E e := fun e he => by
  rw [getLsbD_when] at he
  exact he.1 ▸ hx

/-- A minute event, on a state that shows what the state before the command shows. -/
theorem tells_minuteEvent (h : s.echoes u) (hu : ∀ sec, echoBody u sec = echoBody s sec) (hE : E .clockEnd) :
    Tells (s.differs u.minuteEvent) E s u.minuteEvent := by
  unfold State.minuteEvent
  split
  · have h1 : u.echoes { u with clock := countedClock u.clock } := ⟨rfl, rfl, rfl, rfl, rfl, rfl⟩
    exact tells_syncEcho ((h.trans h1).trans (silent_markWhere _ _).echoes) hu (bits_when hE)
  · exact tells_unshown h hu

section Minutes

variable (hring : s.post.ringOk = true)
include hring

theorem told_minuteEdge : s.told .minuteEdge (execMinuteEdge s) := by
  have h : s.silent (s.setMinute true) := ⟨⟨rfl, rfl, rfl, rfl, rfl, rfl, rfl, rfl, rfl⟩, rfl, rfl⟩
  unfold execMinuteEdge
  dsimp only
  split
  · split
    · exact told_of_tells hring (tells_minuteEvent h.echoes (fun sec => h.same.echoBody sec) (.inr (.inl rfl)))
    · exact told_silent hring h
  · exact told_silent hring (.refl s)

theorem told_timebaseExpiry : s.told .timebaseExpiry (execTimebaseExpiry s) := by
  have h : s.echoes { s with clock := s.clock.restartTimebase } := ⟨rfl, rfl, rfl, rfl, rfl, rfl⟩
  have he : ∀ sec, echoBody { s with clock := s.clock.restartTimebase } sec = echoBody s sec := fun sec => by cases sec <;> rfl
  unfold execTimebaseExpiry
  dsimp only
  split
  · split
    · exact told_of_tells hring (tells_unshown h he)
    · exact told_of_tells hring (tells_minuteEvent h he (.inl rfl))
  · exact told_silent hring (.refl s)

end Minutes

/-! ## Commands that change the store -/

/-- Values change, and then records are handed: those of what has changed are among them. -/
theorem answers_of (hring : s.post.ringOk = true) (h1 : Leaves s u) (phase : u.setup.phase = s.setup.phase) (ring : s.ringKept u)
    (h2 : Gives R E u t) (h : ∀ r, s.due r → (∀ i, r = .room i → u.room i ≠ none) → s.differs u r → t.handed r = true) :
    Answers R E s t where
  tells := fun r hr hroom hd => h r (due_of_phase ((by rw [h2.same.setup] : t.setup.phase = u.setup.phase).trans phase) hr)
    (fun i hi => by rw [← h2.same.room]; exact hroom i hi) ((differs_split (t := u) hd).resolve_right (h2.same.not_differs r))
  none := fun _ r hr => (h2.each r hr.live).imp (fun h' => ((h1.each r hr.live).trans h').handsNone) And.left
  ring := ringTold_of_kept hring (ring.trans h2.same.ringKept)
  raises := fun e he => (h2.raises e he).imp_left (h1.raises e)

theorem rooms_fit (h : roomsOk s.store.rooms = true) : ∀ e ∈ s.store.rooms, e.1 < 256 ∧ s.room e.1 = some e.2 := fun e he => by
  obtain ⟨hs, hok⟩ := roomsOk_iff.1 h
  have := hok e he
  refine ⟨?_, Tab.get_of_mem hs he⟩
  simp only [roomOk, Bool.and_eq_true, decide_eq_true_eq] at this
  omega

/-! ## Setup words (R180, R188) -/

theorem tells_takeMatrix (w : Word) : Tells (s.differs (s.takeMatrix w)) E s (s.takeMatrix w) :=
  tells_syncEcho ⟨rfl, rfl, rfl, rfl, rfl, rfl⟩ (fun _ => rfl) bits_zero

theorem tells_reloadMatrix (w : Word) : Tells (s.differs (s.reloadMatrix w)) E s (s.reloadMatrix w) :=
  tells_syncEcho ⟨rfl, rfl, rfl, rfl, rfl, rfl⟩ (fun _ => rfl) bits_zero

theorem tells_takeStyle (st : RoomState) (w : Word) : Tells (s.differs (s.takeStyle st w)) E s (s.takeStyle st w) := by
  have h : s.echoes { s with setup := { s.setup with styles := s.setup.styles.set st (styleOf w) } } := ⟨rfl, rfl, rfl, rfl, rfl, rfl⟩
  unfold State.takeStyle
  dsimp only
  split
  · exact tells_syncEcho (h.trans (silent_markWhere _ _).echoes) (fun _ => rfl) bits_zero
  · exact tells_syncEcho h (fun _ => rfl) bits_zero

theorem tells_takePlain (p : PlainSetup) (w : Word) : Tells (s.differs (s.takePlain p w)) E s (s.takePlain p w) :=
  tells_syncEcho ⟨rfl, rfl, by cases p <;> rfl, by cases p <;> rfl, rfl, rfl⟩ (fun _ => rfl) bits_zero

theorem tells_takeKind (k : SignKind) (w : Word) : Tells (s.differs (s.takeKind k w)) E s (s.takeKind k w) := by
  unfold State.takeKind
  dsimp only
  generalize hu : ({ s with
    setup := { s.setup with kinds := s.setup.kinds.set k (kindOf w) }
    signs := capCredits k (kindOf w).cap s.signs } : State) = u
  have hpost : u.post = s.post := by rw [← hu]
  have hg1 : ∀ R : Rec → Prop, _ → Gives R E u (u.syncHealth s .credit) := fun R => gives_syncHealth_plain u s (p := .credit) nofun
  have hsame1 := (hg1 (fun _ => True) fun _ _ => trivial).same
  have hg2 : ∀ R : Rec → Prop, _ → Gives R E _ ((u.syncHealth s .credit).syncEcho s) := fun R hR =>
    gives_syncEcho (u.syncHealth s .credit) s hR bits_zero
  have hsame2 := (hg2 (fun _ => True) fun _ _ => trivial).same
  refine tells_of (leaves_same hpost (by rw [← hu])) (by rw [← hu]) (by rw [← hu]) (ringKept_same hpost)
    ((hg1 _ fun i hi => ?_).trans (hg2 _ fun sec hne => ?_)) fun r hr hd => ?_
  · show healthBody _ ≠ healthBody _
    rwa [hsame2.sign, hsame1.sign]
  · show echoBody _ _ ≠ echoBody _ _
    rwa [hsame2.echoBody]
  · cases r with
    | echo sec =>
      have ho : (u.syncHealth s .credit).echoOpen sec = true := by
        rw [hsame1.echoOpen]
        exact due_congr (by rw [← hu]) hr
      exact handed_syncEcho ho (by rw [hsame1.echoBody]; exact hd)
    | health i =>
      exact (hg2 (fun _ => True) fun _ _ => trivial).keeps (r := .health i) trivial (handed_syncHealth (p := .credit) nofun hd)
    | room i => exact absurd (by rw [← hu]; rfl) hd
    | enableEcho => exact absurd (by rw [← hu]) hd
    | guardAddress =>
      unfold State.differs at hd
      rw [hpost] at hd
      exact hd.elim (absurd rfl) (absurd rfl)
    | _ => exact hd.elim

theorem tells_takeEnable (w : Word) (hR : R .enableEcho) : Tells R E s (s.takeEnable w) := by
  unfold State.takeEnable
  dsimp only
  split
  · exact .refl s
  · refine tells_of (u := { s with setup := { s.setup with enable := setClear s.setup.enable w } }) (leaves_same rfl rfl) rfl rfl
      (ringKept_same rfl) (gives_hand _ nofun trivial (fun _ => hR) fun e he => ?_) fun r _ hd => ?_
    · exact bits_zero e (((carries_iff _ e).1 he).resolve_right (by simp))
    · cases r with
      | enableEcho => exact handed_hand _ nofun
      | echo sec => exact absurd (by cases sec <;> rfl) hd
      | health i => exact absurd rfl hd
      | room i => exact absurd rfl hd
      | guardAddress => exact hd.elim (absurd rfl) (absurd rfl)
      | _ => exact hd.elim

end Sys2Proof.Machine
end

section
/-! What the answers to a minute signal and the steps of a batch answer (R36, R37, R41, R42, R45, R51, R54, R106). -/

namespace Sys2Proof.Machine

variable {s t u v old : State} {r : Rec} {R : Rec → Prop} {E : Event → Prop} {c : Instr} {n : Fin 4} {f : BitVec 13} {w : Work}

/-! ## Values changed, and then records handed -/

theorem excused_congr (h : u.sameValues t) (hx : s.excused u c r) : s.excused t c r := by
  cases r with
  | health i => exact fun h1 h2 h3 h4 => by rw [h.sign]; exact hx h1 h2 h3 h4
  | echo sec => exact fun he => hx (by rwa [← h.echoBody])
  | room i => exact fun he => hx (by rwa [← h.room])
  | _ => trivial

theorem State.silent.gives (h : s.silent t) : Gives R E s t :=
  gives_still h.same (fun r _ => still_same h.post h.queue r) fun e he => .inl ((leaves_same h.post h.queue).raises e he)

/-- A command that changes values and then hands the records of what it has changed. -/
theorem told_changed (hring : s.post.ringOk = true) (hpost : u.post = s.post) (hq : u.path.postQueue = s.path.postQueue)
    (hsetup : u.setup = s.setup) (h2 : Gives (s.excused u c) (mayRaise c) u t)
    (hecho : ∀ sec, s.echoOpen sec = true → echoBody u sec ≠ echoBody s sec → t.handed (.echo sec) = true)
    (hroom : ∀ i x, u.room i = some x → roomBody (some x) ≠ roomBody (s.room i) → t.handed (.room i) = true)
    (hhealth : ∀ i, healthBody (u.sign i) ≠ healthBody (s.sign i) → t.handed (.health i) = true) : s.told c (.next t) := by
  refine ⟨t, rfl, answers_of hring (leaves_same hpost hq) (by rw [hsetup]) (ringKept_same hpost)
    (h2.mono (fun _ => excused_congr h2.same) fun _ => id) fun r hr hd hne => ?_⟩
  cases r with
  | echo sec => exact hecho sec hr hne
  | health i => exact hhealth i hne
  | room i =>
    obtain ⟨x, hx⟩ := Option.ne_none_iff_exists'.1 (hd i rfl)
    exact hroom i x hx (hx ▸ hne)
  | enableEcho => exact absurd (by rw [hsetup]) hne
  | guardAddress =>
    unfold State.differs at hne
    rw [hpost] at hne
    exact hne.elim (absurd rfl) (absurd rfl)
  | _ => exact hne.elim

/-! ## The records of the store (R62, R184) -/

section Store

variable (hfit : ∀ e ∈ u.store.rooms, e.1 < 256 ∧ u.room e.1 = some e.2)
include hfit

theorem fit_syncEcho : ∀ e ∈ (u.syncEcho s f).store.rooms, e.1 < 256 ∧ (u.syncEcho s f).room e.1 = some e.2 := by
  have h := (gives_syncEcho (R := fun _ => True) (E := fun _ => True) (f := f) u s (fun _ _ => trivial) fun _ _ => trivial).same
  intro e he
  rw [h.room]
  exact hfit e (by rwa [h.store] at he)

theorem gives_syncStore (hE : ∀ e : Event, f.getLsbD e.bit = true → E e) :
    Gives (s.excused u c) E u ((u.syncEcho s f).syncRooms s) := by
  have h1 : Gives (s.excused u c) E u (u.syncEcho s f) := gives_syncEcho u s (fun _ => id) hE
  refine h1.trans (gives_syncRooms _ s (fit_syncEcho hfit) fun i hi => ?_)
  rw [h1.same.room] at hi
  exact hi

theorem handed_syncStore_echo {sec : Section} (ho : u.echoOpen sec = true) (hne : echoBody u sec ≠ echoBody s sec) :
    ((u.syncEcho s f).syncRooms s).handed (.echo sec) = true :=
  (gives_syncRooms (R := fun _ => True) (E := fun _ => True) _ s (fit_syncEcho hfit) fun _ _ => trivial).keeps (r := .echo sec) trivial
    (handed_syncEcho ho hne)

theorem handed_syncStore_room {i : Nat} {x : Room} (hx : u.room i = some x) (hne : roomBody (some x) ≠ roomBody (s.room i)) :
    ((u.syncEcho s f).syncRooms s).handed (.room i) = true := by
  have h := (gives_syncEcho (R := fun _ => True) (E := fun _ => True) (f := f) u s (fun _ _ => trivial) fun _ _ => trivial).same
  exact handed_syncRooms (fit_syncEcho hfit) (by rw [h.room, hx]) hne

end Store

/-! ## A minute signal (R51, R106) -/

theorem answered_frame (s : State) (h : u = (s.answered.markRoomChanges s).startOver) :
    u.post = s.post ∧ u.path = s.path ∧ u.setup = s.setup ∧ u.signs = s.signs ∧ u.store = s.answered.store := by
  obtain ⟨d, hd⟩ := markRoomChanges_eq s.answered s
  rw [startOver_frame, hd] at h
  rw [h]
  exact ⟨rfl, rfl, rfl, rfl, rfl⟩

theorem told_minuteSignal (hring : s.post.ringOk = true) (hs : s.storeOk = true) : s.told c (execMinuteSignal s) := by
  unfold execMinuteSignal
  split
  · rw [answerMinute_eq]
    generalize hu : (s.answered.markRoomChanges s).startOver = u
    obtain ⟨hpost, hpath, hsetup, hsigns, hstore⟩ := answered_frame s hu.symm
    obtain ⟨hsess, hrooms, -⟩ := (State.storeOk_iff s).1 hs
    have hfit : ∀ e ∈ u.store.rooms, e.1 < 256 ∧ u.room e.1 = some e.2 :=
      rooms_fit (by rw [hstore]; exact (tablesOk_minute s.setup.retain s.clock.now hsess hrooms).2)
    exact told_changed hring hpost (by rw [hpath]) hsetup (gives_syncStore hfit bits_zero)
      (fun sec ho => handed_syncStore_echo hfit (by unfold State.echoOpen at ho ⊢; rwa [hsetup]))
      (fun i x => handed_syncStore_room hfit) fun i hne => absurd (by unfold State.sign; rw [hsigns]) hne
  · exact told_silent hring (.refl s)

theorem told_refill (hring : s.post.ringOk = true) : s.told c (execRefill s) := by
  unfold execRefill
  split
  · have hu := foldl_markDirty_dirty s.woken s.refilled
    show s.told c (.next ((s.woken.foldl (fun x e => x.markDirty e.1) s.refilled).syncHealth s .credit))
    rw [hu]
    generalize (s.woken.foldl (fun x e => x.markDirty e.1) s.refilled).comp.dirty = d
    refine told_changed (u := { s.refilled with comp := { s.refilled.comp with dirty := d } }) hring rfl rfl rfl
      (gives_syncHealth_plain _ s (p := .credit) nofun fun i hi _ _ _ _ => hi) (fun sec _ hne => absurd ?_ hne)
      (fun i x hx hne => absurd (by rw [← hx]; rfl) hne) fun i => handed_syncHealth (p := .credit) nofun
    cases sec with
    | summary =>
      unfold echoBody
      dsimp only [State.refilled]
      rw [List.length_map]
    | _ => rfl
  · exact told_silent hring (.refl s)

/-! ## The results of batches (R43) -/

theorem gives_endBatch (s : State) (n : Fin 4) (p : Producer) (hp : p ≠ .fill) (r : LaneResult) (hE : E (.lane n)) :
    Gives R E s (s.endBatch n p r) := by
  have h1 : s.silent (s.setBatch .resulting) := ⟨⟨rfl, rfl, rfl, rfl, rfl, rfl, rfl, rfl, rfl⟩, rfl, rfl⟩
  unfold State.endBatch
  refine h1.gives.trans (gives_hand _ hp trivial (fun h => h.elim) fun e he => ?_)
  have he := ((carries_iff _ e).1 he).resolve_right (by simp)
  rw [getLsbD_mask] at he
  exact he ▸ hE

theorem silent_promoteHead (s : State) : s.silent s.promoteHead := by
  rw [promoteHead_frame]
  exact ⟨⟨rfl, rfl, rfl, rfl, rfl, rfl, rfl, rfl, rfl⟩, rfl, rfl⟩

theorem silent_releaseLane (s : State) (n : Fin 4) : s.silent (s.releaseLane n) := by
  rw [releaseLane_frame]
  exact ⟨⟨rfl, rfl, rfl, rfl, rfl, rfl, rfl, rfl, rfl⟩, rfl, rfl⟩

theorem silent_setBatch (s : State) (b : Batch) : s.silent (s.setBatch b) :=
  ⟨⟨rfl, rfl, rfl, rfl, rfl, rfl, rfl, rfl, rfl⟩, rfl, rfl⟩

section Batches

variable (hring : s.post.ringOk = true)
include hring

theorem told_gives (h : Gives (s.differs t) (mayRaise c) s t) : s.told c (.next t) := told_of_tells hring h.tells

theorem told_batchDecode : s.told .batchDecode (execBatchDecode s) := by
  refine told_gives hring ?_
  unfold State.working
  split
  · dsimp only
    have h := silent_promoteHead s
    split
    · unfold State.decodeHead
      dsimp only
      split
      · exact (h.trans (silent_setBatch _ _)).gives
      · exact h.gives.trans (gives_endBatch _ _ .post nofun _ (.inl rfl))
    · exact h.gives
  · exact .refl s

theorem told_checkEnd : s.told .checkEnd (execCheckEnd s) := by
  refine told_gives hring ?_
  unfold State.working
  split
  · dsimp only
    split
    · split
      · unfold State.finishCheck
        split
        · exact .refl s
        · exact gives_endBatch _ _ .post nofun _ (.inr (.inl rfl))
        · exact (silent_setBatch _ _).gives
      · exact .refl s
    · exact .refl s
  · exact .refl s

end Batches

end Sys2Proof.Machine
end

section
/-! What the apply step and the lane results answer (R41, R42, R45, R185). -/

namespace Sys2Proof.Machine

variable {s t u v old : State} {r : Rec} {R : Rec → Prop} {E : Event → Prop} {c : Instr} {n : Fin 4} {f : BitVec 13} {w : Work}

/-! ## A sign's fields in its health record (R185) -/

/-- The first word of a health record without its credits. -/
def stateWord (g : Sign) : Nat := signStateCode g.state + place (bitOf g.deferred) 4 + place (bitOf g.unconfirmed.isSome) 5
  + place g.defn.line.val 6

theorem stateWord_range (g : Sign) : 0 < stateWord g % 16 ∧ stateWord g < 256 := by
  have h1 : 0 < signStateCode g.state ∧ signStateCode g.state < 16 := by cases g.state <;> decide
  have h2 : bitOf g.deferred ≤ 1 := by cases g.deferred <;> decide
  have h3 : bitOf g.unconfirmed.isSome ≤ 1 := by cases g.unconfirmed.isSome <;> decide
  have h4 := g.defn.line.isLt
  unfold stateWord place
  omega

theorem healthBody_some (g : Sign) : healthBody (some g) =
    [wordOf (stateWord g + place g.credits 8 + place (signFlagsCode g.seen) 12), wordOf (g.failures + place g.sequence.toNat 8)] := rfl

theorem tableBody_some (g : Sign) : tableBody (some g) =
    [wordOf (stateWord g + place 0 8 + place (signFlagsCode g.seen) 12), wordOf (g.failures + place g.sequence.toNat 8)] := rfl

theorem wordOf_eq_iff {a b : Nat} : wordOf a = wordOf b ↔ a % 65536 = b % 65536 := by
  constructor
  · intro h
    simpa [wordOf] using congrArg BitVec.toNat h
  · intro h
    exact BitVec.eq_of_toNat_eq (by simpa [wordOf] using h)

theorem healthBody_defined (g : Sign) : healthBody (some g) ≠ healthBody none := by
  intro h
  rw [healthBody_some] at h
  have hw := wordOf_eq_iff (b := 0).1 (List.cons.inj h).1
  have := (stateWord_range g).1
  unfold place at hw
  omega

theorem tableBody_defined (g : Sign) : tableBody (some g) ≠ tableBody none := by
  intro h
  rw [tableBody_some] at h
  have hw := wordOf_eq_iff (b := 0).1 (List.cons.inj h).1
  have := (stateWord_range g).1
  unfold place at hw
  omega

/-- Adding the credits between the other fields of a word keeps two words the same. -/
theorem wordOf_credits {a b d e k l : Nat} (h : wordOf (a + k + d) = wordOf (b + k + e)) : wordOf (a + l + d) = wordOf (b + l + e) := by
  unfold wordOf at h ⊢
  simp only [BitVec.ofNat_add] at h ⊢
  rw [add_right_comm, add_right_comm (BitVec.ofNat 16 b)] at h ⊢
  rw [add_right_cancel h]

/-- A slot whose fields but for its credits, and whose credits, are as they were has the health record it had. -/
theorem healthBody_of_table {a b : Option Sign} (h1 : tableBody a = tableBody b)
    (h2 : a.isSome = true → a.map (·.credits) = b.map (·.credits)) : healthBody a = healthBody b := by
  cases a with
  | none =>
    cases b with
    | none => rfl
    | some y => exact absurd h1.symm (tableBody_defined y)
  | some x =>
    cases b with
    | none => exact absurd h1 (tableBody_defined x)
    | some y =>
      have hc : x.credits = y.credits := Option.some.inj (h2 rfl)
      rw [tableBody_some, tableBody_some] at h1
      obtain ⟨hw, ht⟩ := List.cons.inj h1
      rw [healthBody_some, healthBody_some, ht, hc, wordOf_credits hw]

/-- With credits of at most 15 an unchanged health record has its fields and its credits as they were. -/
theorem table_of_healthBody {a b : Option Sign} (ha : ∀ g, a = some g → g.credits ≤ 15) (hb : ∀ g, b = some g → g.credits ≤ 15)
    (h : healthBody a = healthBody b) : tableBody a = tableBody b ∧ a.map (·.credits) = b.map (·.credits) := by
  cases a with
  | none =>
    cases b with
    | none => exact ⟨rfl, rfl⟩
    | some y => exact absurd h.symm (healthBody_defined y)
  | some x =>
    cases b with
    | none => exact absurd h (healthBody_defined x)
    | some y =>
      have hx := ha x rfl
      have hy := hb y rfl
      have hx' := (stateWord_range x).2
      have hy' := (stateWord_range y).2
      rw [healthBody_some, healthBody_some] at h
      obtain ⟨h1, ht⟩ := List.cons.inj h
      have hw := wordOf_eq_iff.1 h1
      unfold place at hw
      have hc : x.credits = y.credits := by omega
      refine ⟨?_, by rw [Option.map_some, Option.map_some, hc]⟩
      rw [hc] at h1
      rw [tableBody_some, tableBody_some, ht, wordOf_credits h1]

theorem credits_le (hr : s.setup.inRange = true) (hc : s.creditsOk = true) {i : Nat} {g : Sign} (hg : s.sign i = some g) :
    g.credits ≤ 15 := by
  have h1 := (State.creditsOk_iff s).1 hc _ (Tab.mem_of_get hg)
  refine h1.trans ?_
  simp only [SetupLogic.inRange, KindParams.inRange, Bool.and_eq_true, decide_eq_true_eq] at hr
  unfold SetupLogic.paramsOf
  cases g.defn.kind <;> simp only [Kinds.get] <;> omega

/-! ## The records of the signs an apply has changed (R104, R141, R185) -/

theorem gives_syncSigns (s old : State)
    (hR : ∀ i, tableBody (s.sign i) ≠ tableBody (old.sign i)
      ∨ (s.sign i).isSome = true ∧ (s.sign i).map (·.credits) ≠ (old.sign i).map (·.credits) → R (.health i)) :
    Gives R E s (s.syncSigns old) := by
  have h1 : Gives R E s (s.handHealth old .signTable [] fun i => tableBody (s.sign i) ≠ tableBody (old.sign i)) :=
    gives_handHealth s old (p := .signTable) nofun [] (fun i hi => hR i (.inl (of_decide_eq_true hi))) fun _ _ h => by cases h
  exact h1.trans (gives_handHealth _ old (p := .credit) nofun [] (fun i hi => hR i (.inr (by simpa using hi))) fun _ _ h => by cases h)

theorem handed_syncSigns {i : Nat} (h : tableBody (s.sign i) ≠ tableBody (old.sign i)
    ∨ (s.sign i).isSome = true ∧ (s.sign i).map (·.credits) ≠ (old.sign i).map (·.credits)) : (s.syncSigns old).handed (.health i) = true := by
  have h1 : Gives (fun _ => True) (fun _ => True) s
      (s.handHealth old .signTable [] fun i => tableBody (s.sign i) ≠ tableBody (old.sign i)) :=
    gives_handHealth s old (p := .signTable) nofun [] (fun _ _ => trivial) fun _ _ h => by cases h
  rcases h with h | h
  · exact (gives_handHealth (R := fun _ => True) (E := fun _ => True) _ old (p := .credit) nofun [] (fun _ _ => trivial)
      fun _ _ h => by cases h).keeps (r := .health i) trivial
        (handed_handHealth (p := .signTable) nofun (defined_of_differ tableBody h) (decide_eq_true h))
  · refine handed_handHealth (p := .credit) nofun (.inl ?_) (by simpa using h)
    rw [h1.same.sign]
    exact fun hn => by rw [hn] at h; cases h.1

/-! ## The apply step (R41, R42) -/

/-- What the records of an apply show has changed in the store, the clock and the signs. -/
theorem told_applyBatch (hring : s.post.ringOk = true) {k : Check} (hk : k.work.storeOk) :
    s.told .apply (.next (s.applyBatch n k)) := by
  have happ := applied_changes s k.work
  unfold State.applyBatch State.postApplied
  dsimp only
  have hcredits : s.creditsOk = true → (s.applied k.work).creditsOk = true := fun h =>
    creditsOk_congr (s := (s.storeApplied k.work).changeSigns k.work) (signs_applied s k.work)
      (by rw [happ, (signsOnly_changeSigns (s.storeApplied k.work) k.work).eq]) (creditsOk_changeSigns k.work (s := s.storeApplied k.work) h)
  have hpost : (s.applied k.work).post = s.post := by rw [happ]; rfl
  have hpath : (s.applied k.work).path = s.path := by rw [happ]; rfl
  have hsetup : (s.applied k.work).setup = s.setup := by rw [happ]; rfl
  have hstore : (s.applied k.work).store.rooms = s.appliedRooms k.work := by rw [happ]; rfl
  generalize s.applied k.work = u at hcredits hpost hpath hsetup hstore
  have hfit : ∀ e ∈ u.store.rooms, e.1 < 256 ∧ u.room e.1 = some e.2 :=
    rooms_fit (by rw [hstore]; exact (tablesOk_applied s hk).2)
  have hE : ∀ e : Event, (Event.when .clockEnd (endsClock s.clock k.work)).getLsbD e.bit = true → mayRaise .apply e :=
    bits_when (.inr (.inr rfl))
  have h1 := gives_syncStore (s := s) (c := .apply) hfit hE
  generalize hx : (u.syncEcho s (Event.when .clockEnd (endsClock s.clock k.work))).syncRooms s = x at h1
  have h2 : Gives (s.excused u .apply) (mayRaise .apply) x (x.syncSigns s) := by
    refine gives_syncSigns x s fun i hi hr hc _ _ he => ?_
    rw [h1.same.sign] at hi
    obtain ⟨ht, hcr⟩ := table_of_healthBody (fun g => credits_le (by rwa [hsetup]) (hcredits hc)) (fun g => credits_le hr hc) he
    exact hi.elim (absurd ht) fun h => absurd hcr h.2
  have h3 : Gives (s.excused u .apply) (mayRaise .apply) (x.syncSigns s) ((x.syncSigns s).endBatch n .rooms
      (appliedResult ((x.syncSigns s).laneAt n) k)) := gives_endBatch _ n .rooms nofun _ (.inr (.inr (.inl rfl)))
  refine told_changed hring hpost (by rw [hpath]) hsetup ((h1.trans h2).trans h3) (fun sec ho hne => ?_) (fun i y hy hne => ?_)
    fun i hne => ?_
  · refine (h2.trans h3).keeps (r := .echo sec) trivial (hx ▸ handed_syncStore_echo hfit ?_ hne)
    unfold State.echoOpen at ho ⊢
    rwa [hsetup]
  · exact (h2.trans h3).keeps (r := .room i) (hfit _ (Tab.mem_of_get hy)).1 (hx ▸ handed_syncStore_room hfit hy hne)
  · refine h3.keeps (r := .health i) trivial (handed_syncSigns ?_)
    rw [h1.same.sign]
    by_contra hn
    obtain ⟨ht, hc⟩ := not_or.1 hn
    exact hne (healthBody_of_table (not_not.1 ht) fun h => not_not.1 fun hd => hc ⟨h, hd⟩)

theorem told_apply (hring : s.post.ringOk = true) (hs : s.storeOk = true) : s.told .apply (execApply s) := by
  unfold execApply State.working
  split
  · dsimp only
    split
    next k m hb hm =>
      split
      · refine told_applyBatch hring ?_
        obtain ⟨-, -, hk⟩ := (State.storeOk_iff s).1 hs
        exact ((Check.storeOk_iff k).1 (hk k (by rw [hb]; rfl))).1
      · exact told_silent hring (.refl s)
    next => exact told_silent hring (.refl s)
  · exact told_silent hring (.refl s)

end Sys2Proof.Machine
end

section
/-! What the records that enter, the raises that are taken and the post writes answer (R169, R170, R171, R178, R193, R194). -/

namespace Sys2Proof.Machine

variable {s t u v old : State} {r : Rec} {R : Rec → Prop} {E : Event → Prop} {c : Instr} {n : Fin 4} {f : BitVec 13}
  {it : Item} {rest : List Item}

/-! ## A record leaves the head of those that wait -/

section Popped

variable (hw : s.post.waiting = it :: rest)
include hw

theorem onTheWay_pop (r : Rec) : s.onTheWay r = (s.setWaiting rest).onTheWay r + if it.record = r then 1 else 0 := by
  rw [onTheWay_eq, onTheWay_eq, hw]
  show _ = (rest.filter fun x => decide (x.record = r)).length + _ + _
  rw [List.filter_cons]
  simp only [decide_eq_true_eq]
  split
  · rw [List.length_cons]
    show _ = _ + (s.post.backlog.filter fun x => decide (x.record = r)).length + 1
    omega
  · rfl

theorem still_pop (hne : it.record ≠ r) : s.still (s.setWaiting rest) r :=
  ⟨rfl, by rw [onTheWay_pop hw r, if_neg hne, Nat.add_zero], fun _ _ => rfl⟩

theorem raising_pop (e : Event) : s.raising e.mask = true ↔ it.carries e.mask = true ∨ (s.setWaiting rest).raising e.mask = true := by
  unfold State.raising
  rw [hw, List.cons_append, List.any_cons, Bool.or_eq_true]
  rfl

end Popped

theorem sameValues_setWaiting (s : State) (w : List Item) : s.sameValues (s.setWaiting w) :=
  ⟨rfl, rfl, rfl, rfl, rfl, rfl, rfl, rfl, rfl⟩

theorem leaves_pop (hw : s.post.waiting = it :: rest) (hr : ¬ it.record.live) : Leaves s (s.setWaiting rest) :=
  ⟨fun _ hl => still_pop hw fun h => hr (h ▸ hl), fun e he => (raising_pop hw e).2 (.inr he)⟩

theorem enter_counts (hp : it.producer ≠ .fill) (hst : (recordLayout s it.record).2.2 = true) (hr : ∀ g, it.record ≠ .raise g) :
    (s.enter it).stamp (recordLayout s it.record).1 = s.stamp (recordLayout s it.record).1 + 2
      ∧ (s.enter it).onTheWay it.record = s.onTheWay it.record := by
  have hstamp : (s.enqueue it.record).stamp (recordLayout s it.record).1 = s.stamp (recordLayout s it.record).1 + 2 := by
    rw [enqueue_stamp s it.record hst]
  have h1 := (still_handRaise (s.enqueue it.record) it.raises hr).trans (still_handNext _ it.producer it.record)
  have h2 : ∀ y : State, (s.enqueue it.record).still y it.record → y.stamp (recordLayout s it.record).1
      = s.stamp (recordLayout s it.record).1 + 2 ∧ y.onTheWay it.record = s.onTheWay it.record := fun y hy =>
    ⟨by rw [layout_place s (s.enqueue it.record), hy.stamp, ← layout_place s (s.enqueue it.record), hstamp], hy.way⟩
  rw [enter_eq s hp]
  split
  · rw [settleEngine_eq]
    exact h2 _ (h1.trans (still_setEngine _ _ _ _))
  · exact h2 _ h1

/-- The records of which a RUNNING part's command must answer that it has handed none are stamped. -/
theorem stamped_of_not_excused (h : ¬ s.excused t c r) : (recordLayout s r).2.2 = true := by
  cases r with
  | echo sec => rfl
  | room i => rfl
  | health i => rfl
  | _ => exact absurd trivial h

/-- A record that heads the waiting ones enters, and what follows tells of what it changes (R169). -/
theorem told_entered (hring : s.post.ringOk = true) (hw : s.post.waiting = it :: rest) (hp : it.producer ≠ .fill)
    (hr : ∀ g, it.record ≠ .raise g) (hplace : it.record.placed)
    (h : Tells (s.differs t) (mayRaise c) ((s.setWaiting rest).enter it) t) : s.told c (.next t) := by
  have hsame := (sameValues_setWaiting s rest).trans (sameValues_enter (s.setWaiting rest) hp)
  have hg : Gives (fun q => q = it.record) (fun e => s.raising e.mask = true) (s.setWaiting rest) ((s.setWaiting rest).enter it) :=
    gives_enter _ hp hplace (fun _ => rfl) fun e he => (raising_pop hw e).2 (.inl ((carries_iff it e).2 (.inl he)))
  have hphase : t.setup.phase = s.setup.phase := h.phase.trans (by rw [hsame.setup])
  refine ⟨t, rfl, fun r hd _ hne => ?_, fun _ r hd => ?_, ringTold_of_kept hring (hsame.ringKept.trans h.ring), fun e he => ?_⟩
  · have hd' : ((s.setWaiting rest).enter it).due r := due_of_phase h.phase hd
    exact h.tells r hd' ((differs_split hne).resolve_left (hsame.not_differs r))
  · by_cases hx : s.excused t c r
    · exact .inr hx
    refine .inl ?_
    have hst := stamped_of_not_excused hx
    have h2 := (h.each r (due_congr (by rw [hsame.setup]) hd)).resolve_right fun h => hx (excused_of_differs h.1)
    by_cases he : r = it.record
    · subst he
      obtain ⟨h3, h4⟩ := enter_counts (s := s.setWaiting rest) hp (by rw [layout_stamped _ s]; exact hst) hr
      refine .inr ⟨?_, ?_⟩
      · rw [layout_place s ((s.setWaiting rest).enter it), h2.stamp, ← layout_place (s.setWaiting rest), h3]
        rw [layout_place (s.setWaiting rest) s]
        rfl
      · have := onTheWay_pop hw it.record
        rw [if_pos rfl] at this
        show t.onTheWay _ + 1 = s.onTheWay _
        rw [h2.way, h4, this]
    · have h1 := (hg.each r hd.live).resolve_right fun h => he h.1
      exact (((still_pop hw (Ne.symm he)).trans h1).trans h2).handsNone
  · refine (h.raises e he).imp_left fun he => ?_
    rcases hg.raises e he with he | he
    · exact (raising_pop hw e).2 (.inr he)
    · exact he

section Entering

variable (hring : s.post.ringOk = true)
include hring

theorem told_laneResult : s.told .laneResult (execLaneResult s) := by
  unfold execLaneResult State.working
  split
  · dsimp only
    split
    next it n ends rest hwr =>
      split
      · obtain ⟨hw, hp, res, hres⟩ := waitingResult_some hwr
        refine told_entered hring hw hp (fun g h => by rw [hres] at h; cases h) (by rw [hres]; trivial) ?_
        split
        · exact (silent_releaseLane _ n).tells
        · exact .refl _
      · exact told_silent hring (.refl s)
    next => exact told_silent hring (.refl s)
  · exact told_silent hring (.refl s)

theorem told_flagRaise : s.told .flagRaise (execFlagRaise s) := by
  refine told_of_tells hring ?_
  unfold State.working
  split
  · dsimp only
    split
    next f rest hwr =>
      obtain ⟨it, hw, hr⟩ := waitingRaise_some hwr
      have h1 := leaves_pop hw (by rw [hr]; exact id)
      split
      · exact h1.tells (sameValues_setWaiting s rest)
      split
      · refine tells_of (u := { s.setWaiting rest with post := { (s.setWaiting rest).post with flags := s.post.flags ||| f } })
          (h1.trans ⟨fun r _ => ⟨rfl, rfl, fun _ _ => rfl⟩, fun _ => id⟩) rfl rfl ⟨rfl, fun _ => id⟩
          (gives_enqueue _ (q := .flagsWord) trivial fun h => h.elim) fun r _ hd => ?_
        cases r with
        | echo sec => exact absurd (by cases sec <;> rfl) hd
        | health i => exact absurd rfl hd
        | room i => exact absurd rfl hd
        | enableEcho => exact absurd rfl hd
        | guardAddress => exact hd.elim (absurd rfl) (absurd rfl)
        | _ => exact hd.elim
      · exact .refl s
    next => exact .refl s
  · exact .refl s

end Entering

/-! ## Records of the start-up fill (R193, R194) -/

theorem fill_of_waiting (hok : s.postsOk = true) (hw : s.post.waiting = it :: rest) (hf : it.producer = .fill) :
    ∃ k, s.setup.phase = .fill k ∧ it.record = fillRecord k := by
  obtain ⟨-, -, -, -, hfill⟩ := (State.postsOk_iff s).1 hok
  have hmem : it ∈ fillsOf s.post.waiting := List.mem_filter.2 ⟨hw ▸ List.mem_cons_self, decide_eq_true hf⟩
  cases hp : s.setup.phase with
  | fill k =>
    rw [hp] at hfill
    exact ⟨k, rfl, hfill.2 it hmem⟩
  | _ =>
    rw [hp] at hfill
    have hfill : fillsOf s.post.waiting = [] := hfill
    rw [hfill] at hmem
    cases hmem

/-- A step of the fill: nothing shown changes but the ready word, at the last record. -/
theorem enter_fill_values {k : Nat} (hf : it.producer = .fill) (hp : s.setup.phase = .fill k) :
    let t := (s.setWaiting rest).enter it
    (∃ b p, t.setup = { s.setup with ready := b, phase := p } ∧ (k = 813 ∨ b = s.setup.ready)) ∧ t.clock = s.clock
      ∧ t.store = s.store ∧ t.signs = s.signs ∧ t.post.guardAddress = s.post.guardAddress
      ∧ t.post.guardByte = s.post.guardByte ∧ t.post.ring = s.post.ring ∧ t.post.ringWrite = s.post.ringWrite := by
  dsimp only
  by_cases hlt : k < 813
  · rw [enter_fill_next hf hp hlt, handRaise_eq]
    exact ⟨⟨_, _, rfl, .inr rfl⟩, rfl, rfl, rfl, rfl, rfl, rfl, rfl⟩
  by_cases heq : k = 813
  · subst heq
    rw [enter_fill_last hf hp, (endFill_spec _).1, handRaise_eq]
    exact ⟨⟨_, _, rfl, .inl rfl⟩, rfl, rfl, rfl, rfl, rfl, rfl, rfl⟩
  · have hl : (s.setWaiting rest).readyForLast .fill = s.setWaiting rest := by
      rw [readyForLast_if]
      exact if_neg fun h => by
        have hphase : s.setup.phase = .fill 813 := h.2
        rw [hp] at hphase
        exact heq (StartPhase.fill.inj hphase)
    have hends := advanceFill_ends (s := ((s.setWaiting rest).enqueue it.record).setWaiting
      (raised it.raises ((s.setWaiting rest).enqueue it.record).post.waiting)) hp hlt
    rw [enter_fill hf, hl, handRaise_eq, hends, (endFill_spec _).1]
    exact ⟨⟨_, _, rfl, .inr rfl⟩, rfl, rfl, rfl, rfl, rfl, rfl, rfl⟩

theorem raising_advanceFill {e : Event} (h : s.advanceFill.raising e.mask = true) :
    s.raising e.mask = true ∨ e = .ready ∨ ∃ n, e = .lane n := by
  by_cases hp : ∃ k, s.setup.phase = .fill k
  · obtain ⟨k, hk⟩ := hp
    by_cases hlt : k < 813
    · rw [advanceFill_next hk hlt, raising_handFill] at h
      exact .inl h
    · rw [advanceFill_ends hk hlt, raising_endFill] at h
      exact h.imp_right (Or.imp_right fun ⟨n, _, _, he⟩ => ⟨n, he⟩)
  · rw [advanceFill_other fun k hk => hp ⟨k, hk⟩] at h
    exact .inl h

theorem raising_readyForLast (s : State) (p : Producer) (f : BitVec 13) : (s.readyForLast p).raising f = s.raising f := by
  rw [readyForLast_if]
  split <;> rfl

theorem posted_of_queue (hl : recordLayout t r = recordLayout s r) (hq : t.path.postQueue = s.path.postQueue) : t.posted r = s.posted r :=
  posted_congr hl fun o _ => by unfold State.queuedValue; rw [hq]

/-- The last record of the fill is in the queue with the ready word it shows. -/
theorem handed_lastFill (hf : it.producer = .fill) (hp : s.setup.phase = .fill 813) (hrec : it.record = .echo .summary) :
    ((s.setWaiting rest).enter it).handed (.echo .summary) = true := by
  have h := enter_fill_last (rest := rest) hf hp
  rw [(endFill_spec _).1, handRaise_eq, hrec] at h
  generalize hy : ({ s with setup := { s.setup with ready := true } } : State).setWaiting rest = y at h
  have hbody : echoBody ((s.setWaiting rest).enter it) .summary = echoBody (y.enqueue (.echo .summary)) .summary := by
    rw [h]
    rfl
  refine (handed_iff _ _).2 (.inr ((posted_of_queue (s := y.enqueue (.echo .summary)) ?_ ?_).trans (posted_enqueue y _ rfl)))
  · exact congrArg (fun l => (Section.summary.offset, l, true)) hbody
  · rw [h]
    rfl

theorem waitingPlain_some (h : s.waitingPlain = some (it, rest)) : s.post.waiting = it :: rest ∧ it.plain = true := by
  unfold State.waitingPlain at h
  split at h
  next x l hw =>
    split at h
    next hp => cases h; exact ⟨hw, hp⟩
    next => cases h
  next => cases h

/-- What a record of the fill that has entered answers: the last shows ready word 1, and is the summary section. -/
theorem told_fill (hring : s.post.ringOk = true) (hok : s.postsOk = true) (hw : s.post.waiting = it :: rest) (hf : it.producer = .fill) :
    s.told .recordEnqueue (.next ((s.setWaiting rest).enter it)) := by
  obtain ⟨k, hp, hrec⟩ := fill_of_waiting hok hw hf
  obtain ⟨⟨b, p, hsetup, hready⟩, hclock, hstore, hsigns, hg1, hg2, hring1, hring2⟩ := enter_fill_values (rest := rest) hf hp
  have hposted : k = 813 → ((s.setWaiting rest).enter it).handed (.echo .summary) = true := by
    rintro rfl
    exact handed_lastFill hf hp (hrec.trans rfl)
  have hraise : ∀ e : Event, ((s.setWaiting rest).enter it).raising e.mask = true →
      s.raising e.mask = true ∨ mayRaise .recordEnqueue e := fun e he => by
    rw [enter_fill hf] at he
    rcases raising_advanceFill he with he | rfl | ⟨n, rfl⟩
    · refine .inl ((raising_pop hw e).2 ?_)
      rcases (raising_handRaise _ _ e).1 he with he | he
      · exact .inr (by rwa [← raising_readyForLast _ .fill])
      · exact .inl ((carries_iff it e).2 (.inl he))
    · exact .inr rfl
    · exact .inr (.inr (.inr (.inr (.inl rfl))))
  generalize (s.setWaiting rest).enter it = t at *
  refine ⟨t, rfl, fun r hd hroom hne => ?_, (fun h => by rw [hp] at h; cases h),
    ringTold_of_kept hring ⟨hring2, fun e he => by rwa [hring1] at he⟩, hraise⟩
  cases r with
  | echo sec =>
    by_cases hk : k = 813
    · cases sec with
      | summary => exact hposted hk
      | _ => exact absurd (by unfold echoBody; rw [hsetup]) hne
    · have hb := hready.resolve_left hk
      refine absurd ?_ hne
      cases sec with
      | summary => unfold echoBody; rw [hsetup, hb, hclock, hstore, hsigns]
      | _ => unfold echoBody; rw [hsetup]
  | health i => exact absurd (by unfold State.sign; rw [hsigns]) hne
  | room i => exact absurd (by unfold State.room; rw [hstore]) hne
  | enableEcho => exact absurd (by rw [hsetup]) hne
  | guardAddress => exact hne.elim (absurd hg1) (absurd hg2)
  | _ => exact hne.elim

theorem told_recordEnqueue (hring : s.post.ringOk = true) (hs : Tab.sorted s.signs = true) (hok : s.postsOk = true) :
    s.told .recordEnqueue (execRecordEnqueue s) := by
  unfold execRecordEnqueue State.working
  split
  · dsimp only
    split
    next it rest hwp =>
      split
      · obtain ⟨hw, hplain⟩ := waitingPlain_some hwp
        have hr : ∀ g, it.record ≠ .raise g := fun g hg => by
          unfold Item.plain at hplain
          rw [hg] at hplain
          cases hplain
        obtain ⟨-, hrange, -⟩ := (State.postsOk_iff s).1 hok
        by_cases hf : it.producer = .fill
        · rw [hf]
          exact told_fill hring hok hw hf
        · refine told_entered hring hw hf hr (inRange_placed (hrange it (hw ▸ List.mem_cons_self))) ?_
          have hs' : Tab.sorted ((s.setWaiting rest).enter it).signs = true := by
            rw [((sameValues_setWaiting s rest).trans (sameValues_enter _ hf)).signs]
            exact hs
          have hsame := (sameValues_setWaiting s rest).trans (sameValues_enter (s.setWaiting rest) hf)
          unfold State.afterCredit
          split
          · exact (tells_resumeComposition hs').mono (fun _ => hsame.differs_left) fun _ => id
          · exact .refl _
      · exact told_silent hring (.refl s)
    next => exact told_silent hring (.refl s)
  · exact told_silent hring (.refl s)

end Sys2Proof.Machine
end

section
/-! What own accesses and the start of a host access tell (R171, R173, R174, R191). -/

namespace Sys2Proof.Machine

variable {s t u v old : State} {r : Rec} {R : Rec → Prop} {E : Event → Prop} {c : Instr} {n : Fin 4} {f : BitVec 13}

/-! ## The start of a command -/

/-- What a command may do before it changes the values it is to change: in a RUNNING part no record has been handed but those
among `R`, the echo sections show what they showed, and a record whose values have changed has been handed. -/
structure Begins (R : Rec → Prop) (s u : State) : Prop where
  due : ∀ r, u.due r → s.due r
  running : s.setup.phase = .running → u.setup.phase = .running
  store : u.store = s.store
  ring : s.ringKept u
  shown : s.setup.phase = .running → ∀ sec, echoBody u sec = echoBody s sec
  each : s.setup.phase = .running → ∀ r, s.due r →
    (u.stamp (recordLayout s r).1 = s.stamp (recordLayout s r).1 ∧ u.onTheWay r = s.onTheWay r) ∨ R r
  tells : ∀ r, u.due r → s.differs u r → u.handed r = true
  raises : ∀ e : Event, u.raising e.mask = true → s.raising e.mask = true

theorem due_running (hs : s.setup.phase = .running) (hu : u.setup.phase = .running) (h : s.due r) : u.due r :=
  due_congr (hu.trans hs.symm) h

/-- A command that begins so, and goes on with pieces that tell of their changes. -/
theorem Begins.told {R' : Rec → Prop} (hring : s.post.ringOk = true) (h1 : Begins R s u)
    (hR : s.setup.phase = .running → ∀ r, R r ∨ R' r → s.excused t c r) (h2 : Tells R' (mayRaise c) u t) : s.told c (.next t) := by
  refine ⟨t, rfl, fun r hd _ hne => ?_, fun hrun r hd => ?_, ringTold_of_kept hring (h1.ring.trans h2.ring), fun e he =>
    (h2.raises e he).imp_left (h1.raises e)⟩
  · have hu := due_of_phase h2.phase hd
    rcases differs_split (t := u) hne with h | h
    · exact h2.keeps hu (h1.tells r hu h)
    · exact h2.tells r hu h
  · rcases h1.each hrun r hd with ⟨hst, hway⟩ | h
    · rcases h2.each r (due_running hrun (h1.running hrun) hd) with h | h
      · exact .inl (.inl ⟨by rw [layout_place s u, h.stamp, ← layout_place s u, hst], h.way.trans hway⟩)
      · exact .inr (hR hrun r (.inr h.1))
    · exact .inr (hR hrun r (.inl h))

theorem Begins.refl (s : State) : Begins R s s where
  due := fun _ h => h
  running := id
  store := rfl
  ring := ringKept_same rfl
  shown := fun _ _ => rfl
  each := fun _ _ _ => .inl ⟨rfl, rfl⟩
  tells := fun r _ h => absurd h ((State.sameValues.refl s).not_differs r)
  raises := fun _ => id

/-- Posts that leave the queue for memory change no value shown and no record on its way. -/
theorem begins_drain (h : s.sameValues u) (hpost : u.post = s.post) : Begins R s u where
  due := fun r => due_of_phase (by rw [h.setup])
  running := by rw [h.setup]; exact id
  store := h.store
  ring := h.ringKept
  shown := fun _ => h.echoBody
  each := fun _ r _ => .inl ⟨by unfold State.stamp; rw [hpost], by unfold State.onTheWay; rw [hpost]⟩
  tells := fun r _ hd => absurd hd (h.not_differs r)
  raises := fun e he => by
    unfold State.raising at he ⊢
    rwa [hpost] at he

theorem begins_makePostWrite : Begins R s s.makePostWrite := by
  unfold State.makePostWrite
  split
  · exact .refl s
  · obtain ⟨k, hk⟩ := noteChoice_eq s true
    rw [hk]
    exact begins_drain ⟨rfl, rfl, rfl, rfl, rfl, rfl, rfl, rfl, rfl⟩ rfl

/-! ## Fill reads (R72) -/

theorem echoBody_closeComposition (hs : Tab.sorted s.signs = true) (c : Composition) (sec : Section) :
    echoBody (s.closeComposition c) sec = echoBody s sec := by
  have h : Gives (fun _ => True) (fun _ => True) (s.endComposition c) (s.closeComposition c) :=
    gives_syncClosed _ s c.engine fun _ _ => trivial
  rw [h.same.echoBody, (endComposition_values hs c).2.2]

theorem echoBody_advance (hs : Tab.sorted s.signs = true) (sec : Section) : echoBody s.advance sec = echoBody s sec := by
  unfold State.advance
  split
  · rfl
  · dsimp only
    split
    · refine (echoBody_closeComposition ?_ _ sec).trans (State.sameValues.echoBody ⟨rfl, rfl, rfl, rfl, rfl, rfl, rfl, rfl, rfl⟩ sec)
      exact hs
    · exact State.sameValues.echoBody ⟨rfl, rfl, rfl, rfl, rfl, rfl, rfl, rfl, rfl⟩ sec

theorem echoBody_advance_after (hs : Tab.sorted s.signs = true) (h : s.silent u) (sec : Section) :
    echoBody u.advance sec = echoBody s sec :=
  (echoBody_advance (by rw [h.same.signs]; exact hs) sec).trans (h.same.echoBody sec)

theorem echoBody_makeFillRead (hs : Tab.sorted s.signs = true) (sec : Section) : echoBody s.makeFillRead sec = echoBody s sec := by
  have h := silent_noteChoice s false
  unfold State.makeFillRead
  split
  · rfl
  · dsimp only
    split
    · exact (h.pool _ _ _).same.echoBody sec
    · split
      · exact (h.pool _ _ _).same.echoBody sec
      · exact echoBody_advance_after hs ((h.pool _ _ _).trans (silent_arrive _ _)) sec

/-- A record that is neither an echo section nor a room's. -/
def Rec.other : Rec → Prop
  | .echo _ => False
  | .room _ => False
  | _ => True

theorem begins_makeFillRead (hs : Tab.sorted s.signs = true) : Begins Rec.other s s.makeFillRead := by
  have h := tells_makeFillRead (E := fun _ => False) hs
  have hecho := echoBody_makeFillRead hs
  refine ⟨fun r => due_of_phase h.phase, fun hr => h.phase.trans hr, h.store, h.ring, fun _ => hecho, fun _ r hd => ?_,
    fun r hd => h.tells r (due_of_phase h.phase hd), fun e he => (h.raises e he).resolve_right id⟩
  refine (h.each r hd).imp (fun h => ⟨h.stamp, h.way⟩) fun ⟨hne, _⟩ => ?_
  cases r with
  | echo sec => exact absurd (hecho sec) hne
  | room i => exact absurd (by unfold State.room; rw [h.store]) hne
  | _ => trivial

/-! ## The reload (R191) -/

theorem tells_reloadWord (w : SetupWord) (v : Word) : Tells (fun _ => True) E s (s.reloadWord w v) := by
  have hR : ∀ r, s.differs (s.reloadWord w v) r → True := fun _ _ => trivial
  cases w with
  | matrix => exact (tells_reloadMatrix v).mono hR fun _ => id
  | style st => exact (tells_takeStyle st v).mono hR fun _ => id
  | kind k => exact (tells_takeKind k v).mono hR fun _ => id
  | plain p => exact (tells_takePlain p v).mono hR fun _ => id
  | _ => exact .refl s

theorem restartCount_reloadWord (w : SetupWord) (v : Word) : (s.reloadWord w v).setup.restartCount = s.setup.restartCount := by
  cases w with
  | matrix =>
    unfold State.reloadWord State.reloadMatrix
    dsimp only
    rw [setup_syncEcho]
  | style st =>
    unfold State.reloadWord State.takeStyle
    dsimp only
    rw [setup_syncEcho]
    split
    · unfold State.markAll
      rw [(silent_markWhere _ _).same.setup]
    · rfl
  | kind k =>
    unfold State.reloadWord State.takeKind
    dsimp only
    rw [setup_syncEcho, setup_syncHealth]
  | plain p =>
    unfold State.reloadWord State.takePlain
    dsimp only
    rw [setup_syncEcho]
    cases p <;> rfl
  | _ => rfl

/-- After a step of the reload another follows, or the start-up fill begins: no echo section may be posted (R184). -/
theorem reload_closed {k : Nat} (hp : t.setup.phase = if k < 16 then .reload (k + 1) else .fill 0) (sec : Section) :
    t.echoOpen sec = false := by
  unfold State.echoOpen
  by_cases hk : k < 16
  · rw [hp, if_pos hk]
  · rw [hp, if_neg hk]
    exact decide_eq_false (Nat.not_lt_zero _)

theorem still_advanceReload (s : State) (k : Nat) (hr : r ≠ .echo .summary) : s.still (s.advanceReload k) r := by
  unfold State.advanceReload State.handFill
  split
  · exact ⟨rfl, rfl, fun _ _ => rfl⟩
  · exact (still_push (it := { producer := .fill, record := fillRecord 0, raises := 0 }) s (Ne.symm hr)).trans
      ⟨rfl, rfl, fun _ _ => rfl⟩

theorem raising_advanceReload {k : Nat} {e : Event} (h : (s.advanceReload k).raising e.mask = true) : s.raising e.mask = true := by
  unfold State.advanceReload at h
  split at h
  · exact h
  · exact (raising_handFill s 0 e).1 h

theorem advanceReload_values (s : State) (k : Nat) : (s.advanceReload k).store = s.store ∧ (s.advanceReload k).signs = s.signs
    ∧ (s.advanceReload k).setup.enable = s.setup.enable ∧ (s.advanceReload k).post.guardAddress = s.post.guardAddress
    ∧ (s.advanceReload k).post.guardByte = s.post.guardByte ∧ s.ringKept (s.advanceReload k) := by
  unfold State.advanceReload State.handFill
  split <;> exact ⟨rfl, rfl, rfl, rfl, rfl, rfl, fun _ => id⟩

theorem begins_advanceReload {k : Nat} (hp : s.setup.phase = .reload k) (h : Tells R (fun _ => False) s u) :
    Begins R s (u.advanceReload k) := by
  obtain ⟨hstore, hsigns, henable, hg1, hg2, hring⟩ := advanceReload_values u k
  have hclosed := reload_closed (t := u.advanceReload k) (k := k) (by rw [(advanceReload_fields u k).2.2])
  have hrun : s.setup.phase ≠ .running := by rw [hp]; nofun
  have hecho : ∀ sec, ¬ (u.advanceReload k).due (.echo sec) := fun sec hd => by
    have hd : (u.advanceReload k).echoOpen sec = true := hd
    rw [hclosed] at hd
    cases hd
  have hdue : ∀ r, (u.advanceReload k).due r → s.due r := fun r hd => by
    cases r with
    | echo sec => exact absurd hd (hecho sec)
    | _ => exact hd
  refine ⟨hdue, fun h => absurd h hrun, hstore.trans h.store, h.ring.trans hring, fun h => absurd h hrun, fun h => absurd h hrun,
    fun r hd hne => ?_, fun e he => (h.raises e (raising_advanceReload he)).resolve_right id⟩
  have hsame : ¬ u.differs (u.advanceReload k) r := fun hx => by
    cases r with
    | echo sec => exact hecho sec hd
    | health i => exact hx (by unfold State.sign; rw [hsigns])
    | room i => exact hx (by unfold State.room; rw [hstore])
    | enableEcho => exact hx henable
    | guardAddress => exact hx.elim (absurd hg1) (absurd hg2)
    | _ => exact hx
  have hne' : r ≠ .echo .summary := fun he => hecho _ (he ▸ hd)
  exact (still_advanceReload u k hne').handed (layout_of_not_differs hd.live hsame)
    (h.tells r (hdue r hd) ((differs_split hne).resolve_right hsame))

/-- A step of the reload begins so. -/
theorem begins_reloadStep {k : Nat} (hp : s.setup.phase = .reload k) : Begins (fun _ => True) s (s.reloadStep k) := by
  unfold State.reloadStep
  dsimp only
  split
  · exact begins_advanceReload hp (tells_reloadWord _ _)
  · exact begins_advanceReload hp (.refl s)

theorem Begins.mono {R' : Rec → Prop} (h : Begins R s u) (hR : ∀ r, R r → R' r) : Begins R' s u :=
  { h with each := fun hrun r hd => (h.each hrun r hd).imp_right (hR r) }

/-- Nothing shown changes before the rest. -/
theorem Begins.after (h1 : s.silent u) (h2 : Begins R u v) : Begins R s v where
  due := fun r hd => due_of_phase (by rw [h1.same.setup]) (h2.due r hd)
  running := fun h => h2.running (by rwa [h1.same.setup])
  store := h2.store.trans h1.same.store
  ring := h1.same.ringKept.trans h2.ring
  shown := fun h sec => (h2.shown (by rwa [h1.same.setup]) sec).trans (h1.same.echoBody sec)
  each := fun h r hd => by
    have hq := still_same h1.post h1.queue r
    refine (h2.each (by rwa [h1.same.setup]) r (due_congr (by rw [h1.same.setup]) hd)).imp_left fun ⟨h3, h4⟩ => ?_
    rw [layout_place u s] at h3
    exact ⟨h3.trans hq.stamp, h4.trans hq.way⟩
  tells := fun r hd hne => h2.tells r hd ((differs_split hne).resolve_left (h1.same.not_differs r))
  raises := fun e he => (leaves_same h1.post h1.queue).raises e (h2.raises e he)

theorem begins_makeSetupRead : Begins R s s.makeSetupRead := by
  unfold State.makeSetupRead
  split
  next k hk =>
    have h : s.silent s.ownAccessMade := ⟨⟨rfl, rfl, rfl, rfl, rfl, rfl, rfl, rfl, rfl⟩, rfl, rfl⟩
    have hb := Begins.after h (begins_reloadStep (s := s.ownAccessMade) hk)
    exact { hb with each := fun hrun => by rw [hk] at hrun; cases hrun }
  next => exact .refl s

theorem begins_ownAccess (hs : Tab.sorted s.signs = true) : Begins Rec.other s s.ownAccess := by
  unfold State.ownAccess
  split
  · exact begins_makeSetupRead
  · exact begins_makePostWrite
  · exact begins_makeFillRead hs
  · exact .refl s

/-! ## Commands that make one own access -/

section OwnAccess

variable (hring : s.post.ringOk = true)
include hring

theorem told_postWrite : s.told c (execPostWrite s) := by
  unfold execPostWrite
  split
  · exact (begins_makePostWrite (R := fun _ => False)).told (R' := fun _ => False) hring (fun _ _ h => h.elim id id |>.elim) (.refl _)
  · exact told_silent hring (.refl s)

theorem told_setupRead : s.told c (execSetupRead s) := by
  unfold execSetupRead
  split
  · exact (begins_makeSetupRead (R := fun _ => False)).told (R' := fun _ => False) hring (fun _ _ h => h.elim id id |>.elim) (.refl _)
  · exact told_silent hring (.refl s)

end OwnAccess

/-! ## Host accesses (R164, R174) -/

theorem silent_releaseHold (s : State) : s.silent s.releaseHold := ⟨⟨rfl, rfl, rfl, rfl, rfl, rfl, rfl, rfl, rfl⟩, rfl, rfl⟩

theorem silent_endHost (s : State) (b : Bool) : s.silent (s.endHost b) := ⟨⟨rfl, rfl, rfl, rfl, rfl, rfl, rfl, rfl, rfl⟩, rfl, rfl⟩

theorem restartCount_makeSetupRead (s : State) : s.makeSetupRead.setup.restartCount = s.setup.restartCount := by
  unfold State.makeSetupRead
  split
  · unfold State.reloadStep
    dsimp only
    split
    · rw [(advanceReload_fields _ _).2.2]
      exact restartCount_reloadWord _ _
    · rw [(advanceReload_fields _ _).2.2]
      rfl
  · rfl

theorem restartCount_beginHost (s : State) : s.beginHost.setup.restartCount = s.setup.restartCount := by
  have hown : s.ownAccess.setup.restartCount = s.setup.restartCount := by
    unfold State.ownAccess
    split
    · exact restartCount_makeSetupRead s
    · rw [setup_makePostWrite]
    · rw [setup_makeFillRead]
    · rfl
  rcases beginHost_cases s with ⟨-, -, h⟩ | ⟨-, h⟩ | ⟨-, h⟩
  · rw [h]
  · rw [h]; exact hown
  · rw [h]; rfl

theorem sorted_beginHost (hs : s.signsOk = true) : Tab.sorted s.beginHost.signs = true := by
  have h : s.beginHost.signsOk = true := (acts_beginHost (P := False) nofun).keeps (fun _ _ => Act.signsOk) hs
  rw [← sorted_signDefs]
  exact ((signDefsOk_iff _).1 ((State.signsOk_iff _).1 h).1).1

theorem sorted_of_signsOk (hs : s.signsOk = true) : Tab.sorted s.signs = true := by
  rw [← sorted_signDefs]
  exact ((signDefsOk_iff _).1 ((State.signsOk_iff _).1 hs).1).1

/-- What an access does to the part, after an own access that was made for it and before its end. -/
theorem told_servedAccess (hc : isHostAccess c = true) (hring : s.post.ringOk = true) (hs : s.signsOk = true) {serve : State → State}
    (h : ∀ b : State, Tab.sorted b.signs = true → (serve b).setup.restartCount = b.setup.restartCount →
      Tells (b.excused (serve b) c) (mayRaise c) b (serve b))
    (hcount : (s.servedAccess serve).setup.restartCount = s.setup.restartCount) : s.told c (.next (s.servedAccess serve)) := by
  have hb := h s.beginHost (sorted_beginHost hs)
  have hsorted := sorted_of_signsOk hs
  have hshown : s.setup.phase = .running → ∀ sec, echoBody s.beginHost sec = echoBody s sec := fun hrun sec => by
    rcases beginHost_cases s with ⟨-, -, h⟩ | ⟨-, h⟩ | ⟨-, h⟩
    · rw [h]
    · rw [h]
      exact ((silent_releaseHold _).same.echoBody sec).trans ((begins_ownAccess hsorted).shown hrun sec)
    · rw [h]
      exact (silent_releaseHold s).same.echoBody sec
  revert hcount
  unfold State.servedAccess
  dsimp only
  split
  next hne => exact fun hcount => absurd (hcount.trans (restartCount_beginHost s).symm) hne
  next heq =>
    intro _
    have hx := hb (not_not.1 heq)
    have hend := silent_endHost (serve s.beginHost) s.workWaited
    generalize serve s.beginHost = x at hx hend
    have hR : s.setup.phase = .running → ∀ r, Rec.other r ∨ s.beginHost.excused x c r →
        s.excused (x.endHost s.workWaited) c r := fun hrun r hr => by
      cases r with
      | echo sec =>
        have hr : echoBody x sec ≠ echoBody s.beginHost sec := hr.resolve_left id
        show echoBody _ sec ≠ _
        rw [hend.same.echoBody, ← hshown hrun]
        exact hr
      | room i =>
        have hr : roomBody (x.room i) ≠ roomBody (s.beginHost.room i) := hr.resolve_left id
        show roomBody _ ≠ _
        rw [hend.same.room]
        unfold State.room at hr ⊢
        rwa [beginHost_store] at hr
      | health i => exact fun _ _ hh => absurd hc (by rw [hh]; nofun)
      | _ => trivial
    have hlast := hx.trans hend.tells
    rcases beginHost_cases s with ⟨-, -, h⟩ | ⟨-, h⟩ | ⟨-, h⟩
    · refine (Begins.refl s).told hring hR ?_
      rwa [h] at hlast ⊢
    · refine (begins_ownAccess hsorted).told hring hR ((silent_releaseHold _).tells.trans ?_)
      rwa [h] at hlast ⊢
    · refine (Begins.refl s).told hring hR ((silent_releaseHold s).tells.trans ?_)
      rwa [h] at hlast ⊢

end Sys2Proof.Machine
end

section
/-! What host writes to the lanes, the status area and the text pool tell (R24 to R33, R75, R160, R166 to R168). -/

namespace Sys2Proof.Machine

variable {s t u v old : State} {r : Rec} {R : Rec → Prop} {E : Event → Prop} {c : Instr} {n : Fin 4} {f : BitVec 13}

/-! ## What a host write may hand -/

/-- The records a host write may hand in a RUNNING part: an echo section or a room's where its values have changed, and others. -/
def State.reports (s t : State) (r : Rec) : Prop := s.differs t r ∨ r.other

theorem excused_of_reports (hc : isHostAccess c = true) (h : s.reports t r) : s.excused t c r := by
  rcases h with h | h
  · exact excused_of_differs h
  · cases r with
    | echo sec => exact h.elim
    | room i => exact h.elim
    | health i => exact fun _ _ hh => absurd hc (by rw [hh]; nofun)
    | _ => trivial

theorem tells_silently (h : s.silent u) (h2 : Tells (u.reports t) E u t) : Tells (s.reports t) E s t :=
  h.tells.trans (h2.mono (fun _ => Or.imp_left h.same.differs_left) fun _ => id)

theorem Tells.reports (h : Tells (s.differs t) E s t) : Tells (s.reports t) E s t := h.mono (fun _ => Or.inl) fun _ => id

theorem Tells.others (h : Tells Rec.other E s t) : Tells (s.reports t) E s t := h.mono (fun _ => Or.inr) fun _ => id

theorem Gives.others (h : Gives (fun _ => False) E s t) : Tells (s.reports t) E s t := h.tells.mono (fun _ h => h.elim) fun _ => id

theorem silent_forward (s : State) (a : Nat) (d : Drive) : s.silent (s.forward a d) :=
  ⟨⟨rfl, rfl, rfl, rfl, rfl, rfl, rfl, rfl, rfl⟩, rfl, rfl⟩

theorem silent_forwardAt (s : State) (o : Nat) (d : Drive) : s.silent (s.forwardAt o d) := silent_forward s _ d

/-! ## Dropped writes (R166) -/

/-- The last guarded address changes, and its record is on its way. -/
theorem tells_dropGuarded (a : Nat) (byte : Bool) (hE : E .guard) : Tells Rec.other E s (s.dropGuarded a byte) := by
  have hdiffers : ∀ r, s.differs { s with post := { s.post with guardAddress := a, guardByte := byte } } r → r = .guardAddress :=
    fun r hd => by
      cases r with
      | guardAddress => rfl
      | echo sec => exact absurd (by cases sec <;> rfl) hd
      | health i => exact absurd rfl hd
      | room i => exact absurd rfl hd
      | enableEcho => exact absurd rfl hd
      | _ => exact hd.elim
  have hleaves : Leaves s { s with post := { s.post with guardAddress := a, guardByte := byte } } :=
    ⟨fun r _ => ⟨rfl, rfl, fun _ _ => rfl⟩, fun _ => id⟩
  unfold State.dropGuarded
  dsimp only
  split
  next hw =>
    refine tells_of hleaves rfl rfl ⟨rfl, fun _ => id⟩ (.refl _) fun r _ hd => ?_
    rw [hdiffers r hd]
    obtain ⟨it, hit, hguard⟩ := List.any_eq_true.1 hw
    unfold Item.isGuard at hguard
    rw [Bool.and_eq_true, decide_eq_true_eq] at hguard
    exact (handed_iff _ _).2 (.inl ((onTheWay_pos _ _).2 ⟨it, List.mem_append_left _ hit, hguard.1⟩))
  next =>
    refine tells_of hleaves rfl rfl ⟨rfl, fun _ => id⟩ (gives_hand _ nofun trivial (fun _ => trivial) fun e he => ?_) fun r _ hd => ?_
    · have he := ((carries_iff _ e).1 he).resolve_right (by simp)
      rw [getLsbD_mask] at he
      exact he ▸ hE
    · rw [hdiffers r hd]
      exact handed_hand _ nofun

/-! ## The lanes (R24 to R32) -/

theorem silent_setLane (s : State) (n : Fin 4) (l : Lane) : s.silent (s.setLane n l) :=
  ⟨⟨rfl, rfl, rfl, rfl, rfl, rfl, rfl, rfl, rfl⟩, rfl, rfl⟩

theorem silent_captureByteAt (s : State) (n : Fin 4) (k : Nat) (d : Drive) : s.silent (s.captureByteAt n k d) := by
  unfold State.captureByteAt
  dsimp only
  split
  · exact silent_setLane s n _
  · exact ⟨⟨rfl, rfl, rfl, rfl, rfl, rfl, rfl, rfl, rfl⟩, rfl, rfl⟩

theorem gives_judgePostWord (s : State) (n : Fin 4) (q : Byte) (o : Nat) (hE : E (.lane n)) : Gives R E s (s.judgePostWord n q o) := by
  unfold State.judgePostWord
  dsimp only
  split
  · unfold State.postLaneResult
    split
    · refine gives_hand _ nofun trivial (fun h => h.elim) fun e he => ?_
      have he := ((carries_iff _ e).1 he).resolve_right (by simp)
      rw [getLsbD_mask] at he
      exact he ▸ hE
    · exact (silent_setLane s n _).gives
  · have h : ∀ l : LaneUnit, s.silent { s with lane := l } := fun l => ⟨⟨rfl, rfl, rfl, rfl, rfl, rfl, rfl, rfl, rfl⟩, rfl, rfl⟩
    exact ((h _).trans (silent_promoteHead _)).gives

theorem tells_laneWrite (n : Fin 4) (k : Nat) (d : Drive) (hE : ∀ n, E (.lane n)) (hguard : E .guard) :
    Tells (s.reports (s.laneWrite n k d)) E s (s.laneWrite n k d) := by
  have h := fun a => silent_forward s a d
  unfold State.laneWrite
  dsimp only
  split
  · exact (tells_dropGuarded _ _ hguard).others
  split
  · exact (h _).tells
  · split
    · exact ((h _).trans (silent_setLane _ n _)).tells
    · split
      · exact ((h _).trans (silent_setLane _ n _)).tells
      · exact ((h _).gives.trans (gives_judgePostWord _ n _ _ (hE n))).others
  · split
    · exact ((h _).trans (silent_captureByteAt _ n k _)).tells
    · exact (h _).tells
  · split
    · exact ((h _).trans (silent_captureByteAt _ n k _)).tells
    · exact (h _).tells

/-! ## The status area (R166 to R168) -/

theorem queuedValue_unqueue (s : State) {o p : Nat} (h : p ≠ o) : (s.unqueue o).queuedValue p = s.queuedValue p := by
  unfold State.queuedValue State.unqueue
  dsimp only
  rw [← List.filter_reverse, List.find?_filter]
  refine congrArg (Option.map _) (congrArg (List.find? · _) (funext fun e => ?_))
  by_cases he : e.offset = p
  · simp [he, h]
  · simp [he]

/-- Posts of a word that no record shows live leave the queue. -/
theorem leaves_unqueue (s : State) {q : Rec} (hq : q.placed) (hlive : ¬ q.live) : Leaves s (s.unqueue (recordLayout s q).1) where
  each := fun r hr => ⟨rfl, rfl, fun o ho => queuedValue_unqueue s fun he => by
    have hap := live_apart (s := s) hr hq fun h => hlive (h ▸ hr)
    have h1 := recordSize_pos r
    have h2 := recordSize_pos q
    unfold Rec.covers at ho
    unfold Rec.apart at hap
    omega⟩
  raises := fun _ => id

/-- The host's part of the post unit changes, and the posts of one of its words leave the queue: nothing live is shown otherwise. -/
theorem tells_unqueued (m : BitVec 13) (b : Byte) {l : List RingEntry} (hl : ∀ e ∈ l, e ∈ s.post.ring) {q : Rec} (hq : q.placed)
    (hlive : ¬ q.live) (o : Nat) (d : Drive) : Tells R E s
      (({ s with post := { s.post with flags := m, ringRead := b, ring := l } }.unqueue (recordLayout s q).1).forwardAt o d) := by
  have h1 : Leaves s { s with post := { s.post with flags := m, ringRead := b, ring := l } } :=
    ⟨fun r _ => ⟨rfl, rfl, fun _ _ => rfl⟩, fun _ => id⟩
  have h2 := leaves_unqueue { s with post := { s.post with flags := m, ringRead := b, ring := l } } hq hlive
  rw [layout_place _ s] at h2
  refine tells_of (h1.trans h2) rfl rfl ⟨rfl, hl⟩ (silent_forwardAt _ o d).gives fun r _ hd => ?_
  cases r with
  | echo sec => exact absurd (by cases sec <;> rfl) hd
  | health i => exact absurd rfl hd
  | room i => exact absurd rfl hd
  | enableEcho => exact absurd rfl hd
  | guardAddress => exact hd.elim (absurd rfl) (absurd rfl)
  | _ => exact hd.elim

theorem tells_ackMerge (d : Drive) : Tells (s.reports (s.ackMerge d)) E s (s.ackMerge d) := by
  unfold State.ackMerge
  split
  · exact .refl s
  · exact tells_unqueued _ s.post.ringRead (fun _ => id) (q := .flagsWord) trivial id _ _

theorem tells_readCountWrite (d : Drive) (hguard : E .guard) :
    Tells (s.reports (s.readCountWrite d)) E s (s.readCountWrite d) := by
  unfold State.readCountWrite
  dsimp only
  split
  · exact .refl s
  · split
    · exact tells_unqueued s.post.flags _ (fun _ => List.mem_of_mem_drop) (q := .ringReadCount 0) trivial id _ _
    · exact (tells_dropGuarded _ _ hguard).others
  · exact (tells_dropGuarded _ _ hguard).others

theorem tells_guardedWriteAt (o : Nat) (d : Drive) (hguard : E .guard) :
    Tells (s.reports (s.guardedWriteAt o d)) E s (s.guardedWriteAt o d) := by
  unfold State.guardedWriteAt
  split
  · exact .refl s
  · exact (tells_dropGuarded _ _ hguard).others

/-! ## The text pool (R75, R76) -/

theorem silent_spoil (s : State) (l : Nat) : s.silent (s.spoil l) := by
  unfold State.spoil
  split
  · exact .refl s
  · split <;> exact ⟨⟨rfl, rfl, rfl, rfl, rfl, rfl, rfl, rfl, rfl⟩, rfl, rfl⟩

theorem tells_poolWrite (hs : Tab.sorted s.signs = true) (o : Nat) (d : Drive) :
    Tells (s.reports (s.poolWrite o d)) E s (s.poolWrite o d) := by
  unfold State.poolWrite
  split
  · exact .refl s
  · unfold State.snoopLine
    have h1 := (silent_forwardAt s o d).pool (s.forwardAt o d).comp ((s.forwardAt o d).cache.without ((o - 0x4000) / 0x20))
      (s.forwardAt o d).path.fillQueue
    exact (tells_advance_after hs ((h1.trans (silent_spoil _ _)).trans (silent_markWhere _ _))).reports

end Sys2Proof.Machine
end

section
/-! What the setup words and host accesses as a whole tell (R136, R146, R165, R180, R187, R189). -/

namespace Sys2Proof.Machine

variable {s t u v old : State} {r : Rec} {R : Rec → Prop} {E : Event → Prop} {c : Instr} {n : Fin 4} {f : BitVec 13}

/-! ## Lines stopped and started (R136, R146) -/

/-- A piece that hands no echo section, and leaves what each shows. -/
structure Unechoed (E : Event → Prop) (s t : State) : Prop where
  tells : Tells Rec.other E s t
  echo : ∀ sec, echoBody t sec = echoBody s sec
  sorted : Tab.sorted t.signs = true

theorem Unechoed.trans (h1 : Unechoed E s t) (h2 : Unechoed E t u) : Unechoed E s u :=
  ⟨h1.tells.trans h2.tells, fun sec => (h2.echo sec).trans (h1.echo sec), h2.sorted⟩

theorem State.silent.unechoed (hs : Tab.sorted s.signs = true) (h : s.silent t) : Unechoed E s t :=
  ⟨h.tells, h.same.echoBody, by rw [h.same.signs]; exact hs⟩

theorem rosters_returnFace (s : State) (i : Nat) (k : Rank) (x : Option (Byte × FaceRecord)) : s.rosters (s.returnFace i k x) := by
  unfold State.returnFace
  split
  · exact .refl s
  · next g hg => exact (rosters_setSign hg _).trans (silent_setLists _ _ _).rosters

theorem rosters_abandonWork (s : State) (n : Fin 4) : s.rosters (s.abandonWork n) := by
  unfold State.abandonWork
  split
  · refine State.silent.rosters ?_
    unfold State.orphanComposition
    split
    · split
      · exact ⟨⟨rfl, rfl, rfl, rfl, rfl, rfl, rfl, rfl, rfl⟩, rfl, rfl⟩
      · exact .refl s
    · exact .refl s
  · exact rosters_returnFace s _ _ _
  · split
    · exact rosters_returnFace s _ _ _
    · exact rosters_returnFace s _ _ _
  · exact .refl s

theorem silent_useFree (s : State) : s.silent s.useFree := ⟨⟨rfl, rfl, rfl, rfl, rfl, rfl, rfl, rfl, rfl⟩, rfl, rfl⟩

theorem unechoed_stopLine (hs : Tab.sorted s.signs = true) (n : Fin 4) : Unechoed E s (s.stopLine n) := by
  unfold State.stopLine
  dsimp only
  have h := ((rosters_abandonWork s n).trans (silent_updateEngine _ n fun e =>
    { e with state := .off, owed := [], sweepTimer := none, due := false }).rosters)
  generalize (s.abandonWork n).updateEngine n _ = u at h
  have h := h.trans ((silent_setPort u n ((u.port n).cutOff ((u.port n).cutTime u.freeIndex))).trans (silent_useFree _)).rosters
  generalize (u.setPort n _).useFree = v at h
  have hg : Gives Rec.other E v (v.syncHealth s (.engine n)) := gives_syncHealth_plain v s (p := .engine n) nofun fun _ _ => trivial
  refine ⟨h.tells hs hg fun i => handed_syncHealth (p := .engine n) nofun, fun sec => ?_, ?_⟩
  · rw [hg.same.echoBody, h.echoBody hs]
  · rw [hg.same.signs]
    exact (h.signs hs).1

theorem silent_startLine (s : State) (n : Fin 4) : s.silent (s.startLine n) := by
  unfold State.startLine
  dsimp only
  split
  · exact (silent_setEngine s n _).trans (silent_setPort _ n _)
  · exact .refl s

theorem unechoed_lineChange (hs : Tab.sorted s.signs = true) (n : Fin 4) : Unechoed E s (old.lineChange s n) := by
  unfold State.lineChange
  split
  · exact (silent_startLine s n).unechoed hs
  split
  · exact unechoed_stopLine hs n
  · exact (State.silent.refl s).unechoed hs

theorem unechoed_lineChanges (hs : Tab.sorted s.signs = true) (l : List (Fin 4)) :
    Unechoed E s (l.foldl (fun t n => old.lineChange t n) s) := by
  induction l generalizing s with
  | nil => exact (State.silent.refl s).unechoed hs
  | cons n l ih =>
    have h := unechoed_lineChange (old := old) (E := E) hs n
    exact h.trans (ih h.sorted)

/-! ## CONTROL (R189) -/

theorem unechoed_sourceChange (hs : Tab.sorted s.signs = true) : Unechoed E s (old.sourceChange s) := by
  unfold State.sourceChange
  split
  · have h : s.echoes { s with clock := s.clock.restartTimebase } := ⟨rfl, rfl, rfl, rfl, rfl, rfl⟩
    have he : ∀ sec, echoBody { s with clock := s.clock.restartTimebase } sec = echoBody s sec := fun sec => by cases sec <;> rfl
    exact ⟨tells_unshown h he, he, hs⟩
  · exact (State.silent.refl s).unechoed hs

theorem unechoed_quietChange (hs : Tab.sorted s.signs = true) : Unechoed E s (old.quietChange s) := by
  unfold State.quietChange
  split
  · exact (silent_markWhere s _).unechoed hs
  · exact (State.silent.refl s).unechoed hs

theorem tells_cacheChange (hs : Tab.sorted s.signs = true) : Tells Rec.other E s (old.cacheChange s)
    ∧ ∀ sec, echoBody (old.cacheChange s) sec = echoBody s sec := by
  unfold State.cacheChange
  split
  · have h : s.silent { s with cache := { s.cache with lines := [] } } := ⟨⟨rfl, rfl, rfl, rfl, rfl, rfl, rfl, rfl, rfl⟩, rfl, rfl⟩
    exact ⟨h.tells.trans (tells_advance (by rw [h.same.signs]; exact hs) fun _ _ => trivial), echoBody_advance_after hs h⟩
  · exact ⟨.refl s, fun _ => rfl⟩

theorem tells_takeControl (hs : Tab.sorted s.signs = true) (w : Word) : Tells (s.reports (s.takeControl w)) E s (s.takeControl w) := by
  unfold State.takeControl
  dsimp only
  generalize hu : ({ s with setup := { s.setup with control := setClear s.setup.control w } } : State) = u
  have h1 : s.echoes u := by rw [← hu]; exact ⟨rfl, rfl, rfl, rfl, rfl, rfl⟩
  have hsu : Tab.sorted u.signs = true := by rw [h1.signs]; exact hs
  have h2 := unechoed_lineChanges (old := s) (E := E) hsu allFour
  have h3 := h2.trans (unechoed_sourceChange (old := s) h2.sorted)
  have h4 := h3.trans (unechoed_quietChange (old := s) h3.sorted)
  obtain ⟨h5, hecho⟩ := tells_cacheChange (old := s) (E := E) h4.sorted
  exact tells_echoClosing h1 ((h4.tells.trans h5).mono (fun _ => Or.inr) fun _ => id) (fun sec => (hecho sec).trans (h4.echo sec))
    (fun _ => rfl) (fun _ => Or.inl) bits_zero

/-! ## Setup words (R165, R187) -/

theorem tells_takeWord (hs : Tab.sorted s.signs = true) (w : SetupWord) (v : Word)
    (hcount : (s.takeWord w v).setup.restartCount = s.setup.restartCount) :
    Tells (s.reports (s.takeWord w v)) E s (s.takeWord w v) := by
  revert hcount
  unfold State.takeWord
  cases w with
  | control => exact fun _ => tells_takeControl hs v
  | enable => exact fun _ => tells_takeEnable v (.inr trivial)
  | restart =>
    dsimp only
    split
    · exact fun h => absurd h (restartCount_ne _)
    · exact fun _ => .refl s
  | matrix => exact fun _ => (tells_takeMatrix v).reports
  | style st => exact fun _ => (tells_takeStyle st v).reports
  | kind k => exact fun _ => (tells_takeKind k v).reports
  | plain p => exact fun _ => (tells_takePlain p v).reports

theorem tells_setupWrite (hs : Tab.sorted s.signs = true) (o : Nat) (d : Drive)
    (hcount : (s.setupWrite o d).setup.restartCount = s.setup.restartCount) :
    Tells (s.reports (s.setupWrite o d)) E s (s.setupWrite o d) := by
  have h := silent_forwardAt s o d
  revert hcount
  unfold State.setupWrite
  dsimp only
  generalize s.forwardAt o d = u at h
  split
  · rw [← h.same.setup]
    exact fun hcount => tells_silently h (tells_takeWord (by rw [h.same.signs]; exact hs) _ _ hcount)
  · exact fun _ => h.tells

/-! ## Host accesses -/

section Writes

variable (hs : Tab.sorted s.signs = true) (hE : ∀ n, E (.lane n)) (hguard : E .guard)
include hs hE hguard

theorem tells_anyWrite (a : Nat) (d : Drive) (hcount : (s.anyWrite a d).setup.restartCount = s.setup.restartCount) :
    Tells (s.reports (s.anyWrite a d)) E s (s.anyWrite a d) := by
  revert hcount
  unfold State.anyWrite
  split
  · unfold State.sortedWrite
    split
    · exact fun _ => .refl s
    · split
      · exact tells_setupWrite hs _ _
      · exact fun _ => tells_laneWrite _ _ _ hE hguard
      · exact fun _ => tells_ackMerge _
      · exact fun _ => tells_readCountWrite _ hguard
      · exact fun _ => tells_guardedWriteAt _ _ hguard
      · exact fun _ => (silent_forwardAt s _ _).tells
      · exact fun _ => tells_poolWrite hs _ _
  · exact fun _ => (silent_forward s _ _).tells

end Writes

theorem told_hostAccess (ha : s.active = true) (hc : isHostAccess c = true) (hring : s.post.ringOk = true) (hs : s.signsOk = true)
    (hcount : ∀ t, exec c s = .next t → t.setup.restartCount = s.setup.restartCount) : s.told c (exec c s) := by
  rcases exec_hostAccess ha hc with ⟨a, d, h⟩ | ⟨a, x, y, h⟩
  · rw [h]
    refine told_servedAccess hc hring hs (fun b hb hcount => ?_) (hcount _ h)
    exact (tells_anyWrite hb (fun _ => .inr (.inr (.inr (.inr hc)))) hc a d hcount).mono (fun _ => excused_of_reports hc) fun _ => id
  · rw [h]
    exact told_servedAccess hc hring hs (fun b _ _ => State.silent.tells ⟨⟨rfl, rfl, rfl, rfl, rfl, rfl, rfl, rfl, rfl⟩, rfl, rfl⟩) (hcount _ h)

end Sys2Proof.Machine
end

section
/-! What a press that the post unit takes tells (R159, R160). -/

namespace Sys2Proof.Machine

variable {s t u v old : State} {r : Rec} {R : Rec → Prop} {E : Event → Prop} {c : Instr} {n : Fin 4} {f : BitVec 13}

/-! ## Records of the call ring -/

/-- Records of no live place are handed, and nothing shown has changed but the call ring. -/
theorem answers_ring (hpost : ∃ l w, u = { s with post := { s.post with ring := l, ringWrite := w } })
    (h : Gives (fun _ => False) E u t) (hring : s.ringTold t) : Answers R E s t := by
  obtain ⟨l, w, rfl⟩ := hpost
  have hsame : ∀ r, ¬ s.differs { s with post := { s.post with ring := l, ringWrite := w } } r := fun r hd => by
    cases r with
    | echo sec => exact hd (by cases sec <;> rfl)
    | health i => exact hd rfl
    | room i => exact hd rfl
    | enableEcho => exact hd rfl
    | guardAddress => exact hd.elim (absurd rfl) (absurd rfl)
    | _ => exact hd
  refine ⟨fun r _ _ hne => ?_, fun _ r hd => ?_, hring, fun e he => h.raises e he⟩
  · exact absurd ((differs_split hne).resolve_left (hsame r)) (h.same.not_differs r)
  · have hs : s.still { s with post := { s.post with ring := l, ringWrite := w } } r := ⟨rfl, rfl, fun _ _ => rfl⟩
    exact .inl (hs.trans ((h.each r hd.live).resolve_right (fun h => h.1))).handsNone

theorem handed_silent (h : s.silent t) (hl : recordLayout t r = recordLayout s r) (hh : s.handed r = true) : t.handed r = true :=
  (still_same h.post h.queue r).handed hl hh

theorem silent_settleEngine (s : State) (n : Fin 4) : s.silent (s.settleEngine n) := by
  rw [settleEngine_eq]
  exact silent_setEngine s n _

theorem call_bits : ∀ e : Event, (Event.call.mask).getLsbD e.bit = true → mayRaise (.callPress n) e := fun e he => by
  rw [getLsbD_mask] at he
  exact he ▸ ⟨n, rfl⟩

theorem carries_plain {it : Item} (hr : ∀ g, it.record ≠ .raise g) {e : Event} (h : it.carries e.mask = true) :
    it.raises.getLsbD e.bit = true := ((carries_iff it e).1 h).resolve_right fun ⟨g, hg, _⟩ => hr g hg

/-! ## A press counted (R160) -/

theorem told_raiseCount {m : Fin 4} (hring : s.post.ringOk = true) {x : RingEntry} (hx : x ∈ s.post.ring) (h : (s.raiseCount m x).silent t) :
    Answers R (mayRaise (.callPress n)) s t := by
  obtain ⟨-, -, hplaces, hnd, -⟩ := (PostUnit.ringOk_iff _).1 hring
  revert h
  unfold State.raiseCount
  dsimp only
  generalize hu : ({ s with post := { s.post with ring := s.post.ring.map fun (y : RingEntry) =>
    if y.sign = x.sign then { y with count := min 255 (x.count + 1) } else y } } : State) = u
  intro h
  have hg : Gives (fun _ => False) (mayRaise (.callPress n)) u (u.hand
      { producer := .ring m, record := .ringCount x.place (min 255 (x.count + 1)), raises := Event.call.mask }) :=
    gives_hand u nofun (place_lt_of_placesFrom hplaces hx) (fun h => h.elim) fun e he => call_bits e (carries_plain (by simp) he)
  have hh := handed_silent h rfl (handed_hand u (it :=
    { producer := .ring m, record := .ringCount x.place (min 255 (x.count + 1)), raises := Event.call.mask }) nofun)
  have hsame := hg.same.trans h.same
  have hwrite : t.post.ringWrite = s.post.ringWrite := by rw [hsame.ringWrite, ← hu]
  have hmem : ∀ e ∈ t.post.ring, ∃ y ∈ s.post.ring, (if y.sign = x.sign then { y with count := min 255 (x.count + 1) } else y) = e :=
    fun e he => by
      rw [hsame.ring, ← hu] at he
      exact List.mem_map.1 he
  refine answers_ring (u := u) ⟨_, _, hu.symm⟩ (hg.trans h.gives) ⟨fun hne => absurd hwrite hne, fun e he hno => ?_, fun e he o ho hsign hne => ?_⟩
  · obtain ⟨y, hy, rfl⟩ := hmem e he
    refine absurd ?_ (hno y hy)
    split <;> rfl
  · obtain ⟨y, hy, rfl⟩ := hmem e he
    have hyo : o = y := List.inj_on_of_nodup_map hnd ho hy (hsign.trans (by split <;> rfl))
    subst hyo
    split at hne
    next hyx =>
      have hox : o = x := List.inj_on_of_nodup_map hnd ho hx hyx
      subst hox
      rw [if_pos rfl]
      exact hh
    next => exact absurd rfl hne

/-! ## A new entry (R159, R160) -/

theorem told_newEntry {m : Fin 4} (hring : s.post.ringOk = true) {i : Nat} (hfree : ∀ y ∈ s.post.ring, y.sign ≠ i)
    (h : (s.newEntry m i).silent t) :
    Answers R (mayRaise (.callPress n)) s t := by
  obtain ⟨-, -, hplaces, hnd, -⟩ := (PostUnit.ringOk_iff _).1 hring
  revert h
  unfold State.newEntry
  dsimp only
  generalize he : RingEntry.mk (s.post.ringWrite.toNat % Config.ringSize) i ((s.sign i).bind fun g => doorRoom g.defn) s.clock.now 1 = x
  generalize hu : ({ s with post := { s.post with ring := s.post.ring ++ [x], ringWrite := s.post.ringWrite + 1 } } : State) = u
  generalize hi1 : Item.mk (.ring m) (.ringEntry (s.post.ringWrite.toNat % Config.ringSize) i
    (((s.sign i).bind fun g => doorRoom g.defn).getD 0xFFFF) s.clock.now 1) 0 = it1
  generalize hi2 : Item.mk (.ring m) (.ringWriteCount (s.post.ringWrite + 1)) Event.call.mask = it2
  intro h
  have hg1 : Gives (fun _ => False) (mayRaise (.callPress n)) u (u.hand it1) := by
    rw [← hi1]
    exact gives_hand u nofun (Nat.mod_lt _ (by decide)) (fun h => h.elim) fun e he => bits_zero e (carries_plain (by simp) he)
  have hg2 : Gives (fun _ => False) (mayRaise (.callPress n)) (u.hand it1) ((u.hand it1).hand it2) := by
    rw [← hi2]
    exact gives_hand _ nofun trivial (fun h => h.elim) fun e he => call_bits e (carries_plain (by simp) he)
  have hh1 : t.handed it1.record = true := by
    refine handed_silent h (by rw [← hi1]; rfl) ((still_hand (u.hand it1) (by rw [← hi2]; nofun) (by rw [← hi1]; nofun)
      (by rw [← hi1, ← hi2]; nofun) ?_).handed (by rw [← hi1]; rfl) (handed_hand u (by rw [← hi1]; nofun)))
    rw [← hi1, ← hi2]
    right
    simp only [recordLayout, recordSize, ringWriteOffset, ringEntryOffset]
    omega
  have hh2 : t.handed it2.record = true := handed_silent h (by rw [← hi2]; rfl) (handed_hand _ (by rw [← hi2]; nofun))
  have hsame := (hg1.trans hg2).same.trans h.same
  have hwrite : t.post.ringWrite = s.post.ringWrite + 1 := by rw [hsame.ringWrite, ← hu]
  have hmem : ∀ e ∈ t.post.ring, e ∈ s.post.ring ∨ e = x := fun e he => by
    rw [hsame.ring, ← hu] at he
    simpa using he
  refine answers_ring (u := u) ⟨_, _, hu.symm⟩ ((hg1.trans hg2).trans h.gives) ⟨fun _ => ?_, fun e he' hno => ?_, fun e he' o ho hsign hne => ?_⟩
  · rw [hwrite]
    rwa [← hi2] at hh2
  · rcases hmem e he' with hmem | rfl
    · exact absurd rfl (hno e hmem)
    · rw [← he]
      rwa [← hi1] at hh1
  · rcases hmem e he' with hmem | rfl
    · exact absurd (congrArg RingEntry.count (List.inj_on_of_nodup_map hnd ho hmem hsign)) hne
    · exact absurd (hsign.trans (by rw [← he])) (hfree o ho)

theorem silent_pressTaken (s : State) (n : Fin 4) (a : Nat) (b : ClearMask) (g : Engine → Engine) :
    s.silent (((s.owe n a b).updateEngine n g).settleEngine n) :=
  ((silent_owe s n a b).trans (silent_updateEngine _ n g)).trans (silent_settleEngine _ n)

theorem told_callPress (hring : s.post.ringOk = true) (n : Fin 4) : s.told (.callPress n) (execCallPress n s) := by
  unfold execCallPress
  split
  next p l hp =>
    split
    · refine ⟨s.takePress n p, rfl, ?_⟩
      unfold State.takePress
      dsimp only
      split
      next e he =>
        exact told_raiseCount (n := n) (m := n) hring (entryOf_some he).1 (silent_pressTaken _ n _ _ _)
      next he =>
        split
        · exact ((silent_updateEngine s n _).trans (silent_settleEngine _ n)).tells.answers hring
        · exact told_newEntry (n := n) (m := n) hring (entryOf_none he) (silent_pressTaken _ n _ _ _)
    · exact told_silent hring (.refl s)
  next => exact told_silent hring (.refl s)

end Sys2Proof.Machine
end

section
/-! What every command answers for the values it has changed (R184, R185). -/

namespace Sys2Proof.Machine

variable {s t u v old : State} {r : Rec} {c : Instr} {n : Fin 4}

/-! ## Starts and stops of the part -/

theorem told_powerOnEnd (hring : s.post.ringOk = true) (ha : s.active = true) (b : Fin 16) (m : Bool) :
    s.told c (execPowerOnEnd b m s) := by
  unfold State.active at ha
  unfold execPowerOnEnd State.poweringOn
  simp only [Bool.and_eq_true] at ha
  rw [ha.1.1, ha.1.2]
  exact told_silent hring (.refl s)

theorem told_resetRelease (hring : s.post.ringOk = true) (ha : s.active = true) (b : Fin 16) (m : Bool) :
    s.told c (execResetRelease b m s) := by
  have hlow : s.pins.resetLow = false := by
    unfold State.active at ha
    simp only [Bool.and_eq_true, Bool.not_eq_true'] at ha
    exact ha.2
  unfold execResetRelease
  rw [hlow, Bool.and_false]
  exact told_silent hring ⟨⟨rfl, rfl, rfl, rfl, rfl, rfl, rfl, rfl, rfl⟩, rfl, rfl⟩

/-- A part held by power-on or by the reset pin, or with PGOOD low, is not at work. -/
theorem stops_inactive (hstop : c = .powerOn ∨ (∃ b, c = .resetAssert b) ∨ c = .pgoodFall) (h : exec c s = .next t) : t.active = false := by
  rcases hstop with rfl | ⟨b, rfl⟩ | rfl
  · obtain rfl := Host.Outcome.next.inj h
    unfold State.active
    simp
  · obtain rfl := Host.Outcome.next.inj h
    unfold State.active
    simp
  · obtain rfl := Host.Outcome.next.inj h
    rfl

/-! ## The entries of a batch (R37) -/

theorem told_entries (hring : s.post.ringOk = true) (ha : s.active = true)
    (hc : c = .putSession ∨ c = .dropSession ∨ c = .cancelSession ∨ c = .moveSession ∨ c = .shiftSession ∨ c = .putRoom
      ∨ c = .roomState ∨ c = .setClock ∨ c = .putSign ∨ c = .dropSign) : s.told c (exec c s) := by
  rcases hc with rfl | rfl | rfl | rfl | rfl | rfl | rfl | rfl | rfl | rfl <;>
  · refine told_entry ha hring ?_
    split
    · exact .inr ⟨_, _, _, rfl⟩
    · exact .inl rfl

/-! ## Every command -/

/-- A command that keeps an active part active, and does not restart it, answers for the values it has changed. -/
theorem answers_exec (hstore : s.storeOk = true) (hsigns : s.signsOk = true) (hring : s.post.ringOk = true) (hposts : s.postsOk = true)
    (ha : s.active = true) (hat : t.active = true) (hcount : t.setup.restartCount = s.setup.restartCount) (h : exec c s = .next t) :
    Answers (s.excused t c) (mayRaise c) s t := by
  have hs := sorted_of_signsOk hsigns
  suffices hsuff : s.told c (exec c s) by
    obtain ⟨x, hx, hans⟩ := hsuff
    rw [h] at hx
    exact Host.Outcome.next.inj hx ▸ hans
  have hhost := fun hc : isHostAccess c = true => told_hostAccess ha hc hring hsigns fun x hx => by
    rw [h] at hx
    rw [← Host.Outcome.next.inj hx]
    exact hcount
  have hstops : ∀ {p : Prop}, c = .powerOn ∨ (∃ b, c = .resetAssert b) ∨ c = .pgoodFall → p := fun hc =>
    absurd hat (by rw [stops_inactive hc h]; nofun)
  cases c with
  | powerOn => exact hstops (.inl rfl)
  | resetAssert b => exact hstops (.inr (.inl ⟨b, rfl⟩))
  | pgoodFall => exact hstops (.inr (.inr rfl))
  | powerOnEnd b m => exact told_powerOnEnd hring ha b m
  | resetRelease b m => exact told_resetRelease hring ha b m
  | setupRead => exact told_setupRead hring
  | batchDecode => exact told_batchDecode hring
  | checkEnd => exact told_checkEnd hring
  | apply => exact told_apply hring hstore
  | laneResult => exact told_laneResult hring
  | minuteEdge => exact told_minuteEdge hring
  | minuteFall => exact told_minuteFall hring
  | timebaseExpiry => exact told_timebaseExpiry hring
  | minuteSignal => exact told_minuteSignal hring hstore
  | refill => exact told_refill hring
  | dirtyComposition => exact told_dirtyComposition hring hs
  | sendTimeComposition => exact told_sendTimeComposition hring hs
  | fillRead => exact told_fillRead hring hs
  | engineChoose n => exact told_engineChoose hring n
  | sweepTimerExpiry n => exact told_sweepTimerExpiry hring n
  | loneBreakEnd n => exact told_loneBreakEnd hring n
  | frameSent n => exact told_frameSent hring n
  | reply n r => exact told_reply hring hs n r
  | answerTimeout n => exact told_answerTimeout hring hs n
  | replyGap n => exact told_replyGap hring hs n
  | slotsEnd n m => exact told_slotsEnd hring hs m
  | quietTimeEnd n => exact told_quietTimeEnd hring n
  | callPress n => exact told_callPress hring n
  | refreshTimerExpiry i => exact told_refreshTimerExpiry hring hs i
  | insistStall => exact told_insistStall hring
  | postWrite => exact told_postWrite hring
  | recordEnqueue => exact told_recordEnqueue hring hs hposts
  | flagRaise => exact told_flagRaise hring
  | putSession => exact told_entries hring ha (by simp)
  | dropSession => exact told_entries hring ha (by simp)
  | cancelSession => exact told_entries hring ha (by simp)
  | moveSession => exact told_entries hring ha (by simp)
  | shiftSession => exact told_entries hring ha (by simp)
  | putRoom => exact told_entries hring ha (by simp)
  | roomState => exact told_entries hring ha (by simp)
  | setClock => exact told_entries hring ha (by simp)
  | putSign => exact told_entries hring ha (by simp)
  | dropSign => exact told_entries hring ha (by simp)
  | _ => exact hhost rfl

/-! ## The statement -/

theorem echoOpen_iff {sec : Section} : s.echoOpen sec = true
    ↔ s.setup.phase = .running ∨ ∃ k, s.setup.phase = .fill k ∧ sec.fillStep < k := by
  unfold State.echoOpen
  cases s.setup.phase <;> simp

theorem storeOk_exec (hs : s.storeOk = true) (h : exec c s = .next t) : t.storeOk = true :=
  stepKeepsStoreTables (s.withPending (c :: s.pending)) t hs h

/-- Settles O57. -/
theorem changedValuesAreHanded : Obligations.ChangedValuesAreHanded := by
  unfold Obligations.ChangedValuesAreHanded
  intro c s t hstore hsigns hring hposts ha hat hcount h
  have hans := answers_exec hstore hsigns hring hposts ha hat hcount h
  obtain ⟨-, hrooms, -⟩ := (State.storeOk_iff t).1 (storeOk_exec hstore h)
  have hroom : ∀ i x, t.room i = some x → roomBody (some x) ≠ roomBody (s.room i) → t.handed (.room i) = true := fun i x hx hne =>
    hans.tells (.room i) (rooms_fit hrooms _ (Tab.mem_of_get hx)).1 (fun j hj => by cases hj; rw [hx]; nofun) (by rw [← hx] at hne; exact hne)
  refine ⟨fun sec ho hne => hans.tells (.echo sec) (echoOpen_iff.2 ho) nofun hne, hroom,
    fun i hne => hans.tells (.health i) trivial nofun hne, fun hne => hans.tells .enableEcho trivial nofun hne,
    fun hne => hans.tells .guardAddress trivial nofun hne, hans.ring.writes, hans.ring.made, hans.ring.counted, fun hrun => ?_,
    hans.raises⟩
  refine ⟨fun sec he => ?_, fun i hi he => ?_, fun hr hc hh ho i _ he => ?_⟩
  · exact (hans.none hrun (.echo sec) (echoOpen_iff.2 (.inl hrun))).resolve_right fun hx => hx he
  · exact (hans.none hrun (.room i) hi).resolve_right fun hx => hx he
  · exact (hans.none hrun (.health i) trivial).resolve_right fun hx => hx hr hc hh ho he

end Sys2Proof.Machine
end
